-- ==== Sys2Proof/Word.lean ====
section
/-!
DEFINITION. The word types, the plainest arithmetic on them, and the sparse tables the state is made of.
-/
namespace Sys2Proof

/-- A 64-bit register or descriptor word. -/
abbrev Word := BitVec 64

/-- The smallest addressable unit of memory. -/
abbrev Byte := BitVec 8

/-- A sparse bank of like things by number: an unlisted number stands for the bank's reset content. -/
abbrev Tbl (α : Type) := List (Nat × α)

/-- One bit as a number. -/
abbrev bit (b : Bool) : Nat := if b then 1 else 0

end Sys2Proof
end

