-- ==== Sys2Proof/Syntax.lean ====
section
/-!
DEFINITION. The commands of the block: the operand types, and Instr, one constructor per row of the opcode table.
Physical facts (a sensor reading, a residue mismatch, a test's outcome, the order of arrivals on a link) reach the block
as operands of the command that reports them (log 3).
-/
namespace Sys2Proof

/-- The two host ports (R361). -/
inductive HostPort where
  | a | b
  deriving DecidableEq, Repr

/-- Who accesses a register or node memory: Sequencer n, the physical function of a port, or virtual function v + 1 of a
port (R351, R494). -/
inductive Acc where
  | seq (n : Fin 64)
  | pf (p : HostPort)
  | vf (p : HostPort) (v : Fin 32)
  deriving DecidableEq, Repr

/-- What the residue checker reported while the operation ran (R404, R406): no mismatch, a first mismatch whose repeat
matched, or two mismatches. A syndrome is the 18-bit SYNDROME field of R411: expected, observed, path. A command of many
operations carries one such outcome for each of its operations in their order; those beyond the list matched. -/
inductive Residue where
  | ok
  | first (syn : BitVec 18)
  | second (syn1 syn2 : BitVec 18)
  deriving DecidableEq, Repr

/-- An ordinary read (no data) or write of a T2 channel (R264). -/
structure ChanReq where
  agent : Nat
  addr : Nat
  size : Nat
  data : Option (List Byte)
  deriving DecidableEq, Repr

/-- The read-modify-write operations of R56. -/
inductive AmoOp where
  | swap | add | and | or | xor | min | max | minu | maxu | cas
  deriving DecidableEq, Repr

/-- The AtomicOps a host may send (R361): 32 and 64 bits, and the CAS of 128 bits that the port does not support. -/
inductive HostOp where
  | fetchAdd | swap | cas | cas128
  deriving DecidableEq, Repr

/-- How the read of one flash sector ended (R314). -/
inductive SectorOutcome where
  | clean
  | retried
  | rebuilt
  | lost
  deriving DecidableEq, Repr

/-- What a check compares (R408): the output bytes and the stored CRC-32; elements and their range; elements, each with its
reference and its bound; the operations marked for a fault injection and those that the residue checker reported; a stored
count and the count. -/
inductive CheckWhat where
  | exact (out : List Byte) (stored : BitVec 32)
  | range (int nanOk : Bool) (lo hi : BitVec 32) (elems : List (BitVec 32))
  | bound (elems : List (BitVec 32 × BitVec 32 × BitVec 32))
  | fire (marked reported : List Nat)
  | count (stored value : Nat)
  deriving DecidableEq, Repr

/-- One check of a test's outputs (R408, R415): the number of its test in the pack, its own number, the output's address, and
what it compares. -/
structure CheckResult where
  test : Nat := 0
  num : Nat
  addr : Nat
  what : CheckWhat
  deriving DecidableEq, Repr

/-- The rails of the package (R444, R498). -/
inductive Rail where
  | aon | core | nt | hub | vpp | hbm | vddq | sds | io
  deriving DecidableEq, Repr

/-- The sensors of a thermal trip (R502). -/
inductive ThermSource where
  | compute | nearTier | hub | hbm
  deriving DecidableEq, Repr

/-- A Hawser message (R381): its header by its fields (`kind` is TYPE, `ring` DST_RING, `reply` REPLY_RING), its payload. -/
structure Msg where
  dst : Nat := 0
  src : Nat := 0
  epoch : Nat := 0
  cls : Nat := 0
  routed : Bool := false
  kind : Nat := 0
  hops : Nat := 0
  msgid : Word := 0
  tenant : Nat := 0
  flow : Nat := 0
  ring : Nat := 0
  reply : Nat := 0
  arg : Word := 0
  sent : Word := 0
  payload : List Byte := []
  deriving DecidableEq, Repr

/-- A SCATTER message and the outcomes of the residue checks of the scatter-add that it asks for (R390, R404). -/
structure ScatterMsg where
  msg : Msg
  checks : List Residue := []
  deriving DecidableEq, Repr

/-- A frame of the metering feed (R428): SEQ, PERT, TIME, its entries (tenant, resource, delta) and its MAC. -/
structure Frame where
  seq : Nat
  pert : Bool
  time : Nat
  ents : List (Nat × Nat × Nat)
  mac : Nat
  deriving DecidableEq, Repr

/-- What the steps of the power-up sequence found (R446, R448): the fuses' integrity; T0 and the directory, at their read-back
and at their self-test, and the part of them that failed; the HBM channels
that failed (512 + s for the spare of stack s), hubs, failed lanes by port, host ports, engine units by class x 1,024 + unit
(spares above the units in service), Sequencers; the bundles of the board's store. -/
structure PowerReport where
  fuseOk : Bool
  t0Ok : Bool
  t0Test : Bool := true
  t0Unit : Nat := 0
  chans : List Nat
  hubs : List Nat
  lanes : List (Nat × Nat)
  ports : List HostPort
  units : List Nat
  seqs : List Nat
  bundles : List (List Byte)
  deriving DecidableEq, Repr

/-- What a mount finds: which of the two root areas decode, and the pages whose tags can be neither decoded nor rebuilt,
by physical location (R322). -/
structure MountReport where
  rootA : Bool
  rootB : Bool
  lost : List Nat
  deriving DecidableEq, Repr

/-- A module as its parameter pages and bad-block scan give it (R301, R302, R324): dies per target, planes, blocks per
plane, pages per block; the bad blocks, each by superblock (die x 2^13 + block) and member. -/
structure Geometry where
  dies : Nat
  planes : Nat
  blocks : Nat
  pages : Nat
  targets : Nat
  bad : List (Nat × Nat)
  deriving DecidableEq, Repr

/-- The commands the block takes: one constructor for each row of the opcode table, in the table's order.
The operands are what the spec says the command names, writes or (for an event) reports. -/
inductive Instr where
  /-- RAIL_READING (R31): Every 100 µs the rail controller takes new rail voltage, junction and power readings, which feed the 10 ms power average. -/
  | railReading (railMv : BitVec 10) (tjQc : BitVec 16) (powerW : BitVec 16)
  /-- RAIL_STEP_DECISION (R31): At most every 50 µs the controller decides whether to lower, raise or move the setpoint, by mode, power cap and junction limit. -/
  | railStepDecision
  /-- BOOT_RAIL_CTL_WRITE (R33): A write to BOOT_RAIL_CTL clamps its limits and is either accepted for the next step decision or ignored as a whole with CFG_ERR. -/
  | bootRailCtlWrite (a : Acc) (v : Word)
  /-- STALL (R28): A handshake stage that has held a request unacknowledged for 10 ms writes a STALL record and goes on waiting. -/
  | stall (cls : BitVec 4) (unit : BitVec 12) (stage : Word) (heldUs : Word)
  /-- REF_LOSS (R38): Loss of REFCLK_100 switches the timebase to the on-die oscillator, sets REF_LOSS and clears LOCKED. -/
  | refLoss
  /-- REF_RETURN (R38): On the return of REFCLK_100 the timebase takes the reference up again without a step. -/
  | refReturn
  /-- TBS_SET (R40): A write to TBS_SET steps the timebase in FREE or MASTER mode, incrementing STEPS, and is ignored in ACQUIRE or TRACK. -/
  | tbsSet (a : Acc) (v : Word)
  /-- SYNC_SEND (R39): Every SYNC_US a master or tracking node sends timestamped sync messages on the ports in PORT_MASK. -/
  | syncSend
  /-- SYNC_RECEIVE (R39): A received SYNC message yields an offset measurement that drives the ACQUIRE step or the TRACK rate correction and the LOCKED state. -/
  | syncReceive (dom : BitVec 8) (offset : Int) (upHops : BitVec 4)
  /-- SYNC_MISSED (R41): The third consecutive missed sync message clears LOCKED and sets LOST_LOCK. -/
  | syncMissed
  /-- ADD (R50): rd receives rs1 + rs2 modulo 2^64. -/
  | add (n : Fin 64) (rd : BitVec 6) (rs1 : BitVec 6) (rs2 : BitVec 6) (r : Residue)
  /-- SUB (R50): rd receives rs1 − rs2 modulo 2^64. -/
  | sub (n : Fin 64) (rd : BitVec 6) (rs1 : BitVec 6) (rs2 : BitVec 6) (r : Residue)
  /-- AND (R50): rd receives the bitwise AND of rs1 and rs2. -/
  | and (n : Fin 64) (rd : BitVec 6) (rs1 : BitVec 6) (rs2 : BitVec 6)
  /-- OR (R50): rd receives the bitwise OR of rs1 and rs2. -/
  | or (n : Fin 64) (rd : BitVec 6) (rs1 : BitVec 6) (rs2 : BitVec 6)
  /-- XOR (R50): rd receives the bitwise XOR of rs1 and rs2. -/
  | xor (n : Fin 64) (rd : BitVec 6) (rs1 : BitVec 6) (rs2 : BitVec 6)
  /-- SLL (R50): rd receives rs1 shifted left by rs2[5:0]. -/
  | sll (n : Fin 64) (rd : BitVec 6) (rs1 : BitVec 6) (rs2 : BitVec 6)
  /-- SRL (R50): rd receives rs1 shifted right with zero fill by rs2[5:0]. -/
  | srl (n : Fin 64) (rd : BitVec 6) (rs1 : BitVec 6) (rs2 : BitVec 6)
  /-- SRA (R50): rd receives rs1 shifted right with sign fill by rs2[5:0]. -/
  | sra (n : Fin 64) (rd : BitVec 6) (rs1 : BitVec 6) (rs2 : BitVec 6)
  /-- SLT (R50): rd receives 1 if rs1 < rs2 signed, else 0. -/
  | slt (n : Fin 64) (rd : BitVec 6) (rs1 : BitVec 6) (rs2 : BitVec 6)
  /-- SLTU (R50): rd receives 1 if rs1 < rs2 unsigned, else 0. -/
  | sltu (n : Fin 64) (rd : BitVec 6) (rs1 : BitVec 6) (rs2 : BitVec 6)
  /-- MIN (R50): rd receives the signed minimum of rs1 and rs2. -/
  | min (n : Fin 64) (rd : BitVec 6) (rs1 : BitVec 6) (rs2 : BitVec 6)
  /-- MAX (R50): rd receives the signed maximum of rs1 and rs2. -/
  | max (n : Fin 64) (rd : BitVec 6) (rs1 : BitVec 6) (rs2 : BitVec 6)
  /-- MINU (R50): rd receives the unsigned minimum of rs1 and rs2. -/
  | minu (n : Fin 64) (rd : BitVec 6) (rs1 : BitVec 6) (rs2 : BitVec 6)
  /-- MAXU (R50): rd receives the unsigned maximum of rs1 and rs2. -/
  | maxu (n : Fin 64) (rd : BitVec 6) (rs1 : BitVec 6) (rs2 : BitVec 6)
  /-- MUL (R50): rd receives the low 64 bits of rs1 × rs2. -/
  | mul (n : Fin 64) (rd : BitVec 6) (rs1 : BitVec 6) (rs2 : BitVec 6) (r : Residue)
  /-- MULH (R50): rd receives the high 64 bits of the signed 128-bit product. -/
  | mulh (n : Fin 64) (rd : BitVec 6) (rs1 : BitVec 6) (rs2 : BitVec 6) (r : Residue)
  /-- MULHU (R50): rd receives the high 64 bits of the unsigned 128-bit product. -/
  | mulhu (n : Fin 64) (rd : BitVec 6) (rs1 : BitVec 6) (rs2 : BitVec 6) (r : Residue)
  /-- DIV (R51): rd receives the signed quotient truncated towards zero, with the stated results for a zero divisor and overflow. -/
  | div (n : Fin 64) (rd : BitVec 6) (rs1 : BitVec 6) (rs2 : BitVec 6) (r : Residue)
  /-- DIVU (R51): rd receives the unsigned quotient, all ones for a zero divisor. -/
  | divu (n : Fin 64) (rd : BitVec 6) (rs1 : BitVec 6) (rs2 : BitVec 6) (r : Residue)
  /-- REM (R51): rd receives the signed remainder with the sign of rs1, rs1 for a zero divisor. -/
  | rem (n : Fin 64) (rd : BitVec 6) (rs1 : BitVec 6) (rs2 : BitVec 6) (r : Residue)
  /-- REMU (R51): rd receives the unsigned remainder, rs1 for a zero divisor. -/
  | remu (n : Fin 64) (rd : BitVec 6) (rs1 : BitVec 6) (rs2 : BitVec 6) (r : Residue)
  /-- CLZ (R50): rd receives the count of leading zeros of rs1. -/
  | clz (n : Fin 64) (rd : BitVec 6) (rs1 : BitVec 6) (rs2 : BitVec 6)
  /-- CTZ (R50): rd receives the count of trailing zeros of rs1. -/
  | ctz (n : Fin 64) (rd : BitVec 6) (rs1 : BitVec 6) (rs2 : BitVec 6)
  /-- POPC (R50): rd receives the count of ones in rs1. -/
  | popc (n : Fin 64) (rd : BitVec 6) (rs1 : BitVec 6) (rs2 : BitVec 6)
  /-- ADDI (R52): rd receives rs1 plus the sign-extended imm14. -/
  | addi (n : Fin 64) (rd : BitVec 6) (rs1 : BitVec 6) (imm : BitVec 14) (r : Residue)
  /-- ANDI (R52): rd receives rs1 AND the sign-extended imm14. -/
  | andi (n : Fin 64) (rd : BitVec 6) (rs1 : BitVec 6) (imm : BitVec 14)
  /-- ORI (R52): rd receives rs1 OR the sign-extended imm14. -/
  | ori (n : Fin 64) (rd : BitVec 6) (rs1 : BitVec 6) (imm : BitVec 14)
  /-- XORI (R52): rd receives rs1 XOR the sign-extended imm14. -/
  | xori (n : Fin 64) (rd : BitVec 6) (rs1 : BitVec 6) (imm : BitVec 14)
  /-- SLTI (R52): rd receives 1 if rs1 < imm14 signed. -/
  | slti (n : Fin 64) (rd : BitVec 6) (rs1 : BitVec 6) (imm : BitVec 14)
  /-- SLTIU (R52): rd receives 1 if rs1 < the sign-extended imm14 unsigned. -/
  | sltiu (n : Fin 64) (rd : BitVec 6) (rs1 : BitVec 6) (imm : BitVec 14)
  /-- SLLI (R52): rd receives rs1 shifted left by imm14[5:0]. -/
  | slli (n : Fin 64) (rd : BitVec 6) (rs1 : BitVec 6) (imm : BitVec 12)
  /-- SRLI (R52): rd receives rs1 shifted right with zero fill by imm14[5:0]. -/
  | srli (n : Fin 64) (rd : BitVec 6) (rs1 : BitVec 6) (imm : BitVec 12)
  /-- SRAI (R52): rd receives rs1 shifted right with sign fill by imm14[5:0]. -/
  | srai (n : Fin 64) (rd : BitVec 6) (rs1 : BitVec 6) (imm : BitVec 12)
  /-- LIX (R52): rd receives the sign-extended 40-bit immediate. -/
  | lix (n : Fin 64) (rd : BitVec 6) (rs1 : BitVec 6) (imm : BitVec 40)
  /-- LIHX (R52): rd[63:40] receives imm[23:0], leaving rd[39:0] unchanged. -/
  | lihx (n : Fin 64) (rd : BitVec 6) (rs1 : BitVec 6) (imm : BitVec 40)
  /-- ADDIX (R52): rd receives rs1 plus the 40-bit immediate. -/
  | addix (n : Fin 64) (rd : BitVec 6) (rs1 : BitVec 6) (imm : BitVec 40) (r : Residue)
  /-- ANDIX (R52): rd receives rs1 AND the 40-bit immediate. -/
  | andix (n : Fin 64) (rd : BitVec 6) (rs1 : BitVec 6) (imm : BitVec 40)
  /-- LDX (R52): rd receives a 64-bit load from rs1 + imm40, cacheable or uncached. -/
  | ldx (n : Fin 64) (rd : BitVec 6) (rs1 : BitVec 6) (imm : BitVec 40)
  /-- SDX (R52): The register in the rd field is stored to rs1 + imm40, cacheable or uncached. -/
  | sdx (n : Fin 64) (rd : BitVec 6) (rs1 : BitVec 6) (imm : BitVec 40)
  /-- LB (R53): Loads one byte, sign-extended. -/
  | lb (n : Fin 64) (rd : BitVec 6) (rs1 : BitVec 6) (imm : BitVec 14)
  /-- LBU (R53): Loads one byte, zero-extended. -/
  | lbu (n : Fin 64) (rd : BitVec 6) (rs1 : BitVec 6) (imm : BitVec 14)
  /-- LH (R53): Loads two bytes, sign-extended. -/
  | lh (n : Fin 64) (rd : BitVec 6) (rs1 : BitVec 6) (imm : BitVec 14)
  /-- LHU (R53): Loads two bytes, zero-extended. -/
  | lhu (n : Fin 64) (rd : BitVec 6) (rs1 : BitVec 6) (imm : BitVec 14)
  /-- LW (R53): Loads four bytes, sign-extended. -/
  | lw (n : Fin 64) (rd : BitVec 6) (rs1 : BitVec 6) (imm : BitVec 14)
  /-- LWU (R53): Loads four bytes, zero-extended. -/
  | lwu (n : Fin 64) (rd : BitVec 6) (rs1 : BitVec 6) (imm : BitVec 14)
  /-- LD (R53): Loads eight bytes. -/
  | ld (n : Fin 64) (rd : BitVec 6) (rs1 : BitVec 6) (imm : BitVec 14)
  /-- SB (R53): Stores one byte. -/
  | sb (n : Fin 64) (rs2 : BitVec 6) (rs1 : BitVec 6) (imm : BitVec 14)
  /-- SH (R53): Stores two bytes. -/
  | sh (n : Fin 64) (rs2 : BitVec 6) (rs1 : BitVec 6) (imm : BitVec 14)
  /-- SW (R53): Stores four bytes. -/
  | sw (n : Fin 64) (rs2 : BitVec 6) (rs1 : BitVec 6) (imm : BitVec 14)
  /-- SD (R53): Stores eight bytes. -/
  | sd (n : Fin 64) (rs2 : BitVec 6) (rs1 : BitVec 6) (imm : BitVec 14)
  /-- CFLUSH (R55): Writes back a Modified line and invalidates it in both of the Sequencer's caches. -/
  | cflush (n : Fin 64) (rd : BitVec 6) (rs1 : BitVec 6) (imm : BitVec 14)
  /-- AMOSWAP (R56): Atomically swaps memory with rs2, returning the old value. -/
  | amoswap (n : Fin 64) (rd : BitVec 6) (rs1 : BitVec 6) (rs2 : BitVec 6) (f : BitVec 4) (r : Residue)
  /-- AMOADD (R56): Atomically adds rs2 to memory, returning the old value. -/
  | amoadd (n : Fin 64) (rd : BitVec 6) (rs1 : BitVec 6) (rs2 : BitVec 6) (f : BitVec 4) (r : Residue)
  /-- AMOAND (R56): Atomically ANDs rs2 into memory, returning the old value. -/
  | amoand (n : Fin 64) (rd : BitVec 6) (rs1 : BitVec 6) (rs2 : BitVec 6) (f : BitVec 4) (r : Residue)
  /-- AMOOR (R56): Atomically ORs rs2 into memory, returning the old value. -/
  | amoor (n : Fin 64) (rd : BitVec 6) (rs1 : BitVec 6) (rs2 : BitVec 6) (f : BitVec 4) (r : Residue)
  /-- AMOXOR (R56): Atomically XORs rs2 into memory, returning the old value. -/
  | amoxor (n : Fin 64) (rd : BitVec 6) (rs1 : BitVec 6) (rs2 : BitVec 6) (f : BitVec 4) (r : Residue)
  /-- AMOMIN (R56): Atomically stores the signed minimum of memory and rs2. -/
  | amomin (n : Fin 64) (rd : BitVec 6) (rs1 : BitVec 6) (rs2 : BitVec 6) (f : BitVec 4) (r : Residue)
  /-- AMOMAX (R56): Atomically stores the signed maximum of memory and rs2. -/
  | amomax (n : Fin 64) (rd : BitVec 6) (rs1 : BitVec 6) (rs2 : BitVec 6) (f : BitVec 4) (r : Residue)
  /-- AMOMINU (R56): Atomically stores the unsigned minimum of memory and rs2. -/
  | amominu (n : Fin 64) (rd : BitVec 6) (rs1 : BitVec 6) (rs2 : BitVec 6) (f : BitVec 4) (r : Residue)
  /-- AMOMAXU (R56): Atomically stores the unsigned maximum of memory and rs2. -/
  | amomaxu (n : Fin 64) (rd : BitVec 6) (rs1 : BitVec 6) (rs2 : BitVec 6) (f : BitVec 4) (r : Residue)
  /-- AMOCAS (R56): Atomically stores rs2 if memory equals the old rd, returning the old value. -/
  | amocas (n : Fin 64) (rd : BitVec 6) (rs1 : BitVec 6) (rs2 : BitVec 6) (f : BitVec 4) (r : Residue)
  /-- BEQ (R58): Branches if rs1 equals rs2. -/
  | beq (n : Fin 64) (rs1 : BitVec 6) (rs2 : BitVec 6) (off : BitVec 14)
  /-- BNE (R58): Branches if rs1 differs from rs2. -/
  | bne (n : Fin 64) (rs1 : BitVec 6) (rs2 : BitVec 6) (off : BitVec 14)
  /-- BLT (R58): Branches if rs1 < rs2 signed. -/
  | blt (n : Fin 64) (rs1 : BitVec 6) (rs2 : BitVec 6) (off : BitVec 14)
  /-- BGE (R58): Branches if rs1 ≥ rs2 signed. -/
  | bge (n : Fin 64) (rs1 : BitVec 6) (rs2 : BitVec 6) (off : BitVec 14)
  /-- BLTU (R58): Branches if rs1 < rs2 unsigned. -/
  | bltu (n : Fin 64) (rs1 : BitVec 6) (rs2 : BitVec 6) (off : BitVec 14)
  /-- BGEU (R58): Branches if rs1 ≥ rs2 unsigned. -/
  | bgeu (n : Fin 64) (rs1 : BitVec 6) (rs2 : BitVec 6) (off : BitVec 14)
  /-- JAL (R58): Writes PC + 4 to rd and jumps by off20 words. -/
  | jal (n : Fin 64) (rd : BitVec 6) (off : BitVec 20)
  /-- JALR (R58): Writes PC + 4 to rd and jumps to rs1 + imm14. -/
  | jalr (n : Fin 64) (rd : BitVec 6) (rs1 : BitVec 6) (imm : BitVec 14)
  /-- EISS (R60): Checks the queue and descriptor, optionally releases earlier stores, obtains a credit or fails with TRY, and pushes the descriptor, returning the issue count. -/
  | eiss (n : Fin 64) (rd : BitVec 6) (rs1 : BitVec 6) (rs2 : BitVec 6) (f : BitVec 8)
  /-- EISS_CREDIT_GRANT (R81): A stalled EISS is granted a freed credit in arrival order, pushes its descriptor and retires. -/
  | eissCreditGrant (q : BitVec 16)
  /-- WAIT (R64): Tests an event counter against a target and either completes or waits, optionally under the WDL deadline. -/
  | wait (n : Fin 64) (rd : BitVec 6) (rs1 : BitVec 6) (rs2 : BitVec 6) (f : BitVec 8)
  /-- WAIT_SATISFIED (R65): A change of the counter satisfies a waiting WAIT, which acquires what the counted operation released and writes 0 to rd. -/
  | waitSatisfied (n : Fin 64)
  /-- WAIT_DEADLINE (R64): TIME reaching WDL ends a WAIT with DL set, writing 1 to rd. -/
  | waitDeadline (n : Fin 64)
  /-- EVINC (R64): After every earlier store is visible, atomically adds rs2 to a software counter and returns its previous value. -/
  | evinc (n : Fin 64) (rd : BitVec 6) (rs1 : BitVec 6) (rs2 : BitVec 6) (f : BitVec 8)
  /-- RDCTR (R64): Reads an event counter into rd. -/
  | rdctr (n : Fin 64) (rd : BitVec 6) (rs1 : BitVec 6) (rs2 : BitVec 6) (f : BitVec 8)
  /-- FENCE (R66): Waits for the conditions selected by its mask: store visibility, uncached completion, NBU and engine completion, or instruction-fetch discard. -/
  | fence (n : Fin 64) (rd : BitVec 6) (rs1 : BitVec 6) (rs2 : BitVec 6) (f : BitVec 8)
  /-- FENCE_DONE (R66): The last awaited condition of a FENCE is met, NBU OUT lines are invalidated where required, and the fence retires. -/
  | fenceDone (n : Fin 64)
  /-- TRET (R68): Returns from a trap handler to TPC and clears STATUS.TH, or raises ILLEGAL outside a handler. -/
  | tret (n : Fin 64) (rd : BitVec 6) (rs1 : BitVec 6) (rs2 : BitVec 6)
  /-- HALT (R68): Halts the Sequencer, setting HALT_INSN and SEQ_ENTRY to PC + 4. -/
  | halt (n : Fin 64) (rd : BitVec 6) (rs1 : BitVec 6) (rs2 : BitVec 6)
  /-- BRK (R68): Raises the BRK trap. -/
  | brk (n : Fin 64) (rd : BitVec 6) (rs1 : BitVec 6) (rs2 : BitVec 6)
  /-- HOVER (R77): Takes a pending hand-over after a fence, switching PROGVER and PC to the incoming program, or writes 0 to rd. -/
  | hover (n : Fin 64) (rd : BitVec 6) (rs1 : BitVec 6) (rs2 : BitVec 6)
  /-- RDSR (R45): Serialising read of a special register into rd. -/
  | rdsr (n : Fin 64) (rd : BitVec 6) (rs1 : BitVec 6) (imm : BitVec 14)
  /-- WRSR (R45): Serialising write of rs1 into a writable special register. -/
  | wrsr (n : Fin 64) (rd : BitVec 6) (rs1 : BitVec 6) (imm : BitVec 14)
  /-- SEQ_START (R75): Writing START starts a halted Sequencer at SEQ_ENTRY, keeping or clearing STATUS.TH by whether SEQ_ENTRY changed. -/
  | seqStart (a : Acc) (n : Fin 64) (v : Word)
  /-- SEQ_STOP (R75): Writing STOP halts the Sequencer at its next instruction boundary and writes the resume address to SEQ_ENTRY. -/
  | seqStop (a : Acc) (n : Fin 64) (v : Word)
  /-- SEQ_HANDOVER_WRITE (R76): A write to SEQ_HANDOVER requests, withdraws or is refused a hand-over according to PENDING, VERSION and code regions. -/
  | seqHandoverWrite (a : Acc) (n : Fin 64) (v : Word)
  /-- HO_TIMEOUT (R76): A pending hand-over not taken within TMO_MS is cleared and HO_TIMEOUT set. -/
  | hoTimeout (n : Fin 64)
  /-- DESC_AT_HEAD (R94): A descriptor reaching the head of an enabled, non-halted queue undergoes checks 1 to 3 and begins its WT wait or is rejected. -/
  | descAtHead (q : BitVec 16)
  /-- DESC_DISPATCH (R91): A dispatchable head is chosen by weighted round-robin, checked under steps 4 to 10, and dispatched or rejected. -/
  | descDispatch (cls : BitVec 4) (unit : BitVec 10)
  /-- DESC_RETIRE (R86): A finished descriptor retires; the retire counter advances over the retired prefix, releasing writes and performing SG increments. -/
  | descRetire (q : BitVec 16) (i : Word)
  /-- WAIT_TIMEOUT (R101): A head whose wait has lasted WAIT_TMO_US is rejected with WAIT_TIMEOUT. -/
  | waitTimeout (q : BitVec 16)
  /-- FLUSH (R98): Writing QCTL.FLUSH cancels every undispatched descriptor of the queue, retiring each with CANCELLED. -/
  | flush (a : Acc) (q : BitVec 16) (v : Word)
  /-- QUEUE_RESUME (R97): Writing QCTL.RESUME takes the queue out of HALTED. -/
  | queueResume (a : Acc) (q : BitVec 16) (v : Word)
  /-- UNIT_LOSS (R99): An unplanned unit loss retires its dispatched descriptors with UNIT_LOST and moves the rest to a spare or retires them. -/
  | unitLoss (cls : BitVec 4) (unit : BitVec 10)
  /-- CONVERT (R117): QTE converts each element between formats, applying block scales from SCALE as SDIR states. -/
  | convert (q : BitVec 16) (i : Word) (r : List Residue)
  /-- QUANTIZE (R114): QTE computes block scales and writes quantized data and scales. -/
  | quantize (q : BitVec 16) (i : Word) (r : List Residue)
  /-- ROTATE (R119): QTE applies the blockwise signed Hadamard rotation, forward or inverse, then converts. -/
  | rotate (q : BitVec 16) (i : Word) (r : List Residue)
  /-- SMOOTH (R120): QTE multiplies each column by its factor, then converts. -/
  | smooth (q : BitVec 16) (i : Word) (r : List Residue)
  /-- MATMUL (R134): MXE computes D = A × Bᵀ with scales, optional C, bias and epilogue, converted to D_FMT. -/
  | matmul (q : BitVec 16) (i : Word) (r : List Residue)
  /-- MATMUL_QA (R136): MXE quantizes A on the fly with a static scale and multiplies as MATMUL. -/
  | matmulQa (q : BitVec 16) (i : Word) (r : List Residue)
  /-- ATTENTION (R138): MXE computes scaled dot-product attention for a block of query rows, writing outputs or partials. -/
  | attention (q : BitVec 16) (i : Word) (r : List Residue)
  /-- WALK (R167): A GWE reads and checks the root, descends the upper levels and starts the level-0 beam search. -/
  | walk (q : BitVec 16) (i : Word) (r : List Residue)
  /-- WALK_STEP (R167): A level-0 step tests deadline and hop limit, expands the best entries, and updates beam and results when its distances return. -/
  | walkStep (q : BitVec 16) (i : Word) (r : List Residue)
  /-- DIST (R184): DSE forms COUNT distances over codes or full vectors in input order. -/
  | dist (q : BitVec 16) (i : Word) (r : List Residue)
  /-- QBUILD (R185): DSE builds the query block for a DPARAM from an FP32 query vector. -/
  | qbuild (q : BitVec 16) (i : Word) (r : List Residue)
  /-- RERANK (R188): DSE issues full-vector flash reads for the considered candidates, with fallback for bad VIDs or a passed deadline. -/
  | rerank (q : BitVec 16) (i : Word)
  /-- RERANK_READ_DATA (R188): Arriving data of a rerank read forms a full distance, or is dropped as late after the deadline. -/
  | rerankReadData (q : BitVec 16) (i : Word) (slot : Nat) (r : List Residue)
  /-- RERANK_READ_ERROR (R188): A failed rerank read makes its entry fall back with RDERR. -/
  | rerankReadError (q : BitVec 16) (i : Word) (slot : Nat)
  /-- RERANK_DEADLINE (R188): At DEADLINE every outstanding or waiting read falls back with LATE. -/
  | rerankDeadline (q : BitVec 16) (i : Word)
  /-- RERANK_OUTPUT (R191): With every entry resolved, RERANK orders its entries and writes OUT, then retires OK. -/
  | rerankOutput (q : BitVec 16) (i : Word)
  /-- GWE_UPD_TAIL_WRITE (R218): A write to GWE_UPD_TAIL submits update records, or is ignored with RING_ERR when it would overfill the ring. -/
  | gweUpdTailWrite (a : Acc) (v : Word)
  /-- UPD_BATCH (R202): The commit unit reads a whole batch, checks each record, and either applies it at one commit sequence or aborts it, writing results. -/
  | updBatch
  /-- GWE_HORIZON_WRITE (R219): A write raising HORIZON is applied and triggers reclamation and Sprue HEAD advance; a lower or too high value sets HORIZON_ERR. -/
  | gweHorizonWrite (a : Acc) (v : Word)
  /-- GWE_UPD_CTL_WRITE (R219): A write to GWE_UPD_CTL enables, disables at a batch boundary, or is ignored with RING_ERR. -/
  | gweUpdCtlWrite (a : Acc) (v : Word)
  /-- TOPK (R227): SLE selects the best K distinct entries from up to 64 lists in a fixed rank order, with spill when K is large. -/
  | topk (q : BitVec 16) (i : Word) (r : List Residue)
  /-- MOVE (R255): Ladle copies a main and companion extent, released together at retirement. -/
  | move (q : BitVec 16) (i : Word)
  /-- MOVEL (R253): Ladle copies the extents of a list in order, skipping bad records. -/
  | movel (q : BitVec 16) (i : Word)
  /-- LADLE_DEADLINE (R256): At its deadline a move is flagged LATE or abandons its remaining extents and retires. -/
  | ladleDeadline (q : BitVec 16) (i : Word) (done : Nat) (started : Nat)
  /-- WINDOW_TABLE_UPDATE (R260): A host changes a segment of its T3 window table, applying to later accesses. -/
  | windowTableUpdate (p : HostPort) (seg : BitVec 14) (mapped : Bool)
  /-- T3_SEGMENT_LOSS (R262): Loss of a host or unmapping of a segment fails every outstanding and later access to it with MEMERR. -/
  | t3SegmentLoss (p : HostPort) (seg : BitVec 14) (cause : BitVec 2)
  /-- NT_REFRESH_CHANGE (R244): A near-tier layer reading crossing a threshold changes its refresh rate at the next refresh interval. -/
  | ntRefreshChange (layer : Fin 4) (tempQc : BitVec 16)
  /-- HBM_REFRESH_CHANGE (R245): A stack temperature crossing 85 °C doubles or restores its refresh rate. -/
  | hbmRefreshChange (stack : Fin 16) (tempQc : BitVec 16)
  /-- CHANNEL_REQUEST (R264): An ordinary read or write enters its channel queue, or is held upstream when the queue is full. -/
  | channelRequest (ch : Fin 512) (req : ChanReq)
  /-- CHANNEL_DECISION (R265): On a queue change, HOME change, NBU wait change or command end, the channel takes its next mode transition. -/
  | channelDecision (ch : Fin 512)
  /-- TO_PROC_DONE (R265): With the boundary queue drained and banks precharged, the NBU takes the banks and the channel enters PROC. -/
  | toProcDone (ch : Fin 512)
  /-- TO_MEM_DONE (R265): With banks precharged, the channel queue resumes and a memory window opens. -/
  | toMemDone (ch : Fin 512)
  /-- WINDOW_SLICE_EXPIRE (R266): MEM_SLICE_US after the later start point the memory window closes after serving the requests present. -/
  | windowSliceExpire (ch : Fin 512)
  /-- BROADCAST_END (R267): A broadcast command ends when its work is done or at the first row boundary after 19.5 µs. -/
  | broadcastEnd (ch : Fin 512)
  /-- MCH_CHMODE_WRITE (R270): A write to MCH_CHMODE sets HOME for the next decision and MEM_SLICE_US for the next window. -/
  | mchChmodeWrite (a : Acc) (ch : Fin 512) (v : Word)
  /-- LOADX (R272): NBU copies bytes from T0 or T1 into XBUF without using the banks. -/
  | loadx (q : BitVec 16) (i : Word)
  /-- GEMV (R274): NBU computes a batched matrix-vector product into ABUF, optionally accumulating and writing back. -/
  | gemv (q : BitVec 16) (i : Word) (r : List Residue)
  /-- ATTN (R276): NBU computes decode attention partials for one KV head over listed KV blocks. -/
  | attn (q : BitVec 16) (i : Word) (r : List Residue)
  /-- SCAN (R278): NBU scans Sprue rows for visibility and keeps the best L code distances per query. -/
  | scan (q : BitVec 16) (i : Word) (r : List Residue)
  /-- NBU_CTL_WRITE (R283): A write to NBU_CTL changes COMPAT when the unit is idle, or is ignored with CTL_ERR. -/
  | nbuCtlWrite (a : Acc) (u : Fin 512) (v : Word)
  /-- GATHER (R290): GTE reads table rows by index and pools them per bag, serving risers and dropping missing, invalid or late rows. -/
  | gather (q : BitVec 16) (i : Word) (r : List Residue)
  /-- GATHER_DEADLINE (R289): At DEADLINE rows from T2 or T3 not yet arrived are dropped as LATE. -/
  | gatherDeadline (q : BitVec 16) (i : Word) (arrived : List Bool) (r : List Residue)
  /-- RISER_DECAY (R293): Every DECAY_US the HITS and CCOUNT of every slot are halved. -/
  | riserDecay
  /-- SCATTER (R295): GTE adds to or overwrites table rows, invalidating risers and honouring overwrite stamps. -/
  | scatter (q : BitVec 16) (i : Word) (r : List Residue)
  /-- READ (R313): FLE reads sectors of a logical block space to DST, with per-sector deadline handling. -/
  | read (q : BitVec 16) (i : Word)
  /-- WRITE (R314): FLE writes sectors, retiring once their pages and parity have programmed. -/
  | write (q : BitVec 16) (i : Word)
  /-- TRIM (R305): FLE unmaps AUs of a space by a trim page. -/
  | trim (q : BitVec 16) (i : Word)
  /-- SPACE_CREATE (R310): FLE creates a space after the EXISTS, capacity and map checks, durably. -/
  | spaceCreate (q : BitVec 16) (i : Word)
  /-- SPACE_DELETE (R311): FLE waits for earlier descriptors of the space, unmaps it and removes it durably. -/
  | spaceDelete (q : BitVec 16) (i : Word)
  /-- SYNC (R321): FLE cuts a checkpoint and retires when it is durable. -/
  | sync (q : BitVec 16) (i : Word)
  /-- SECTOR_READ_DONE (R329): A sector read completes after sense and decode, or enters the read ladder. -/
  | sectorReadDone (q : BitVec 16) (i : Word) (sec : Nat) (o : SectorOutcome)
  /-- FLE_READ_DEADLINE (R313): At DEADLINE unarrived sectors of a READ are not written and the READ retires LATE. -/
  | fleReadDeadline (q : BitVec 16) (i : Word)
  /-- PARTIAL_PARITY (R316): A WRITE that would wait 1 ms for its stripe causes a partial parity page to be programmed. -/
  | partialParity (f : Fin 4) (sb : Nat)
  /-- SB_VERIFY (R317): Within 100 ms of its close a superblock is read in full and made VERIFIED, relocating weak AUs. -/
  | sbVerify (f : Fin 4) (sb : Nat) (weak : List (Nat × Bool))
  /-- GC_COPY (R318): GC copies a valid AU of the victim into a GC superblock, updating the map only if it still holds SRC. -/
  | gcCopy (f : Fin 4) (loc : Nat)
  /-- BG_GC_START (R319): After BG_IDLE_US with no request and free superblocks below BG_FREE, background GC starts. -/
  | bgGcStart (f : Fin 4)
  /-- FG_GC (R319): Free superblocks below FG_FREE start foreground GC and throttle descriptor writes by the curve. -/
  | fgGc (f : Fin 4)
  /-- SB_ERASE (R318): A victim superblock is erased once every read resolved to it has completed, returning it to the free pool. -/
  | sbErase (f : Fin 4) (sb : Nat)
  /-- CHECKPOINT (R321): After 1 GiB programmed or 2 s, the FLE cuts a checkpoint, writing the root last. -/
  | checkpoint (f : Fin 4)
  /-- PROGRAM_FAIL (R324): A program failure retires the block and reprograms the data elsewhere. -/
  | programFail (f : Fin 4) (page : Nat)
  /-- ERASE_FAIL (R324): An erase failure retires the block. -/
  | eraseFail (f : Fin 4) (sb : Nat) (member : Nat)
  /-- MOUNT (R322): Writing MOUNT rebuilds the map from the newest root and replays pages in SEQ order, then sets MOUNTED or MOUNT_ERR. -/
  | mount (a : Acc) (f : Fin 4) (v : Word)
  /-- FORMAT (R323): Writing FORMAT erases admitted modules, reads bad-block marks and writes an empty root. -/
  | format (a : Acc) (f : Fin 4) (v : Word)
  /-- FLE_MAP_WRITE (R331): A write to FLE_MAP_BASE or FLE_MAP_SIZE is applied, or ignored with CFG_ERR while mounted. -/
  | fleMapWrite (a : Acc) (f : Fin 4) (size : Bool) (v : Word)
  /-- FLE_GC_CTL_WRITE (R331): A write to FLE_GC_CTL sets the GC thresholds, or is ignored with CFG_ERR when inconsistent. -/
  | fleGcCtlWrite (a : Acc) (f : Fin 4) (v : Word)
  /-- ADMIT (R326): ADMIT powers and trains a PRESENT module, scans and formats it, and enters ADMITTING. -/
  | modAdmit (a : Acc) (f : Fin 4) (m : Fin 4) (v : Word)
  /-- ADMIT_DONE (R326): An admitting module enters IN_SERVICE and raises USABLE_AU. -/
  | admitDone (f : Fin 4) (m : Fin 4) (geo : Geometry)
  /-- EVACUATE (R326): EVACUATE starts copying a module's AUs off it, or is refused with EVAC_REFUSED. -/
  | evacuate (a : Acc) (f : Fin 4) (m : Fin 4) (v : Word)
  /-- EVAC_DONE (R326): An evacuating module holding no valid AU becomes EMPTY. -/
  | evacDone (f : Fin 4) (m : Fin 4)
  /-- POWER_OFF (R326): POWER_OFF drops MODm_PWR_EN of an EMPTY or FAILED module. -/
  | powerOff (a : Acc) (f : Fin 4) (m : Fin 4) (v : Word)
  /-- MOD_PRSNT_FALL (R326): MODm_PRSNT_N falling moves an ABSENT module to PRESENT. -/
  | modPrsntFall (f : Fin 4) (m : Fin 4)
  /-- MOD_PRSNT_RISE (R326): MODm_PRSNT_N rising makes a POWERED_OFF module ABSENT, or any other module FAILED. -/
  | modPrsntRise (f : Fin 4) (m : Fin 4)
  /-- MOD_DIES_LOST (R327): Every die of a module stopping responding makes it FAILED and loses its data. -/
  | modDiesLost (f : Fin 4) (m : Fin 4)
  /-- GETS (R336): A shared read request at the home slice returns data and adds the requester as sharer. -/
  | gets (g : BitVec 8) (line : BitVec 56)
  /-- GETM (R336): An exclusive request at the home slice invalidates other copies and grants the line M. -/
  | getm (g : BitVec 8) (line : BitVec 56)
  /-- PUTM (R336): A cache returns a Modified line to the tier and the entry becomes U. -/
  | putm (g : BitVec 8) (line : BitVec 56)
  /-- NC_READ (R336): A non-caching read at the home slice, recalling an M copy if present. -/
  | ncRead (g : BitVec 8) (line : BitVec 56)
  /-- NC_WRITE (R336): A non-caching write invalidates every copy, writing back M first, then writes. -/
  | ncWrite (g : BitVec 8) (addr : BitVec 56) (data : List Byte)
  /-- INVALIDATE (R336): A cache receives an invalidation or forward for a line and acknowledges it. -/
  | invalidate (g : BitVec 8) (line : BitVec 56)
  /-- NEAR_ATOMIC (R341): The home slice recalls the line and performs the atomic on the tier, updating the contention counter. -/
  | nearAtomic (g : BitVec 8) (addr : BitVec 56) (op : AmoOp) (dbl : Bool) (src : Word) (cmp : Word) (r : Residue)
  /-- REQUEST_AGED (R345): A request outstanding longer than AGE_NS becomes aged and wins every arbiter by stamp. -/
  | requestAged (g : BitVec 8) (line : BitVec 56) (stamp : Word)
  /-- HOLD_EXPIRE (R346): HOLD_NS after an M grant the cache honours waiting forwards and invalidations. -/
  | holdExpire (g : BitVec 8) (line : BitVec 56)
  /-- CLEAT_CLAIM (R353): A read of MBX_CLEAT claims a free Cleat for the accessor or returns the current owner. -/
  | cleatClaim (a : Acc) (m : Fin 64)
  /-- CLEAT_WRITE (R354): A write of 0 by the owner or a physical function frees the Cleat; any other write sets CLEAT_ERR. -/
  | cleatWrite (a : Acc) (m : Fin 64) (v : Word)
  /-- MBX_A_TX (R355): End A pushes a word to the AB queue, dropped with OVERRUN when full. -/
  | mbxATx (a : Acc) (m : Fin 64) (v : Word)
  /-- MBX_B_TX (R355): End B pushes a word to the BA queue, dropped with OVERRUN when full. -/
  | mbxBTx (a : Acc) (m : Fin 64) (v : Word)
  /-- MBX_B_RX (R355): End B pops the head of the AB queue, or reads 0 with UNDERRUN. -/
  | mbxBRx (a : Acc) (m : Fin 64)
  /-- MBX_A_RX (R355): End A pops the head of the BA queue, or reads 0 with UNDERRUN. -/
  | mbxARx (a : Acc) (m : Fin 64)
  /-- MBX_DB_AB (R356): End A rings end B, refused with DB_ERR_AB while PEND or DONE is set. -/
  | mbxDbAb (a : Acc) (m : Fin 64) (v : Word)
  /-- MBX_DB_BA (R356): End B rings end A, refused with DB_ERR_BA while PEND or DONE is set. -/
  | mbxDbBa (a : Acc) (m : Fin 64) (v : Word)
  /-- ACK_AB_POST (R356): End B writes CODE_POST to acknowledge A's ring, setting DONE and clearing PEND. -/
  | ackAbPost (a : Acc) (m : Fin 64) (v : Word)
  /-- ACK_BA_POST (R356): End A writes CODE_POST to acknowledge B's ring, setting DONE and clearing PEND. -/
  | ackBaPost (a : Acc) (m : Fin 64) (v : Word)
  /-- ACK_AB_COLLECT (R356): A read of MBX_ACK_AB returns DONE and CODE and clears DONE. -/
  | ackAbCollect (a : Acc) (m : Fin 64)
  /-- ACK_BA_COLLECT (R356): A read of MBX_ACK_BA returns DONE and CODE and clears DONE. -/
  | ackBaCollect (a : Acc) (m : Fin 64)
  /-- MBX_CFG_WRITE (R351): A physical function sets the mailbox tenant and interrupts; other writers set CFG_ERR. -/
  | mbxCfgWrite (a : Acc) (m : Fin 64) (v : Word)
  /-- HOST_MEM_WRITE (R364): A host posted write to node memory is applied as non-caching writes in 64-byte units, or dropped. -/
  | hostMemWrite (a : Acc) (bar : BitVec 3) (off : Nat) (data : List Byte)
  /-- HOST_MEM_READ (R364): A host read of node memory or CSRs is completed, or completed with UR. -/
  | hostMemRead (a : Acc) (bar : BitVec 3) (off : Nat) (len : Nat)
  /-- HOST_ATOMIC (R364): A host AtomicOp to node memory runs near, or completes with UR elsewhere. -/
  | hostAtomic (a : Acc) (bar : BitVec 3) (off : Nat) (op : HostOp) (dbl : Bool) (src : Word) (cmp : Word) (r : Residue)
  /-- POISONED_TLP (R361): A received poisoned TLP is dropped and counted as a CTO event. -/
  | poisonedTlp (p : HostPort)
  /-- SQ_DOORBELL (R367): A host SQ doorbell write is accepted under its conditions and starts mirroring, or is ignored with RING_ERR. -/
  | sqDoorbell (a : Acc) (p : HostPort) (k : Fin 64) (v : Word)
  /-- SQ_ENTRY_MIRROR (R367): A fetched SQ entry is written to its mirror slot in index order and counted, advancing SQ_TAIL. -/
  | sqEntryMirror (p : HostPort) (k : Fin 64) (data : BitVec 512)
  /-- SQ_HEAD_WRITE (R368): A program writes SQ_HEAD to return consumed entries, or is refused with RING_ERR. -/
  | sqHeadWrite (a : Acc) (p : HostPort) (k : Fin 64) (v : Word)
  /-- CQ_TAIL_WRITE (R368): A program writes CQ_TAIL to submit staged completions, or is refused with RING_ERR. -/
  | cqTailWrite (a : Acc) (p : HostPort) (k : Fin 64) (v : Word)
  /-- CQ_POST (R369): The port posts a staged CQ entry with SQ_HEAD and PHASE when the host CQ has room. -/
  | cqPost (p : HostPort) (k : Fin 64)
  /-- CQ_DOORBELL (R369): A host CQ doorbell write returns CQ space. -/
  | cqDoorbell (a : Acc) (p : HostPort) (k : Fin 64) (v : Word)
  /-- COAL_TIMER (R370): COAL_US after the first uncovered posting, the ring pair's MSI-X vector is sent. -/
  | coalTimer (p : HostPort) (k : Fin 64)
  /-- HST_IRQ_TRIG (R371): A write raises the named MSI-X vector of a function. -/
  | hstIrqTrig (a : Acc) (p : HostPort) (v : Word)
  /-- HST_TAKEOVER (R374): A PF write moves ring pairs of a lost or releasing port to the writing port. -/
  | hstTakeover (a : Acc) (p : HostPort) (v : Word)
  /-- RP_CFG_WRITE (R377): A write to RP_CFG configures a ring pair, zeroing indices on enable, or is ignored with RING_ERR. -/
  | rpCfgWrite (a : Acc) (p : HostPort) (k : Fin 64) (v : Word)
  /-- PORT_LOST (R372): Data Link Down, hot reset or link disable loses a port, failing its window and stopping its rings. -/
  | portLost (p : HostPort)
  /-- PERST_N_ASSERT (R506): An asserted HSTx_PERST_N loses that port as a hot reset does. -/
  | perstNAssert (p : HostPort)
  /-- LINK_UP (R375): A returning host link comes up as a new enumeration and a port event is counted. -/
  | linkUp (p : HostPort) (width : BitVec 4) (speed : BitVec 4)
  /-- CTO (R373): A T3 read without completion within CTO_MS fails and disables a ring pair whose SQ fetch it was. -/
  | cto (p : HostPort) (ring : Option (Fin 64))
  /-- FLR (R373): A Function Level Reset of a VF disables its ring pairs and discards unposted entries. -/
  | flr (p : HostPort) (fn : Option (Fin 32))
  /-- HWS_SQ_TAIL_WRITE (R386): A write to a send ring's tail submits entries, or is ignored with CFG_ERR. -/
  | hwsSqTailWrite (a : Acc) (k : Fin 64) (v : Word)
  /-- SEND_ENTRY (R386): The node reads a send entry and its payload, fills node fields and queues the message, or refuses it locally. -/
  | sendEntry (k : Fin 64)
  /-- HWS_SQ_CFG_WRITE (R388): A write to HWS_SQ_CFG enables or stops processing between entries, or discards entries on a base change. -/
  | hwsSqCfgWrite (a : Acc) (k : Fin 64) (v : Word)
  /-- MSG_SEND (R392): An egress port sends the queued message of the highest class with link credits. -/
  | msgSend (p : Fin 16) (credit : BitVec 8) (acked : Nat)
  /-- MSG_FORWARD (R384): A transit node polices, decrements HOPS and forwards a message on a hashed live port, or refuses it. -/
  | msgForward (p : Fin 16) (m : Msg)
  /-- DATA_RECEIVE (R389): A DATA message passing policing and the epoch test is written to a receive ring slot, or refused. -/
  | dataReceive (p : Fin 16) (m : Msg)
  /-- PUT_RECEIVE (R389): A PUT writes its payload into an armed landing zone, completing the zone and sending an ACK when LANDED reaches SIZE. -/
  | putReceive (p : Fin 16) (m : Msg)
  /-- SCATTER_RECEIVE (R390): A SCATTER message is applied by the named GTE as a SCATTER with the sender's stamp. -/
  | scatterReceive (p : Fin 16) (m : ScatterMsg)
  /-- ACK_RECEIVE (R389): An ACK is written into its reply ring, or dropped with NOTICE_LOST. -/
  | ackReceive (p : Fin 16) (m : Msg)
  /-- REFUSE_RECEIVE (R391): A REFUSE is written into its reply ring, or dropped with NOTICE_LOST. -/
  | refuseReceive (p : Fin 16) (m : Msg)
  /-- ABSENT_RECEIVE (R400): A received ABSENT notice is written to EVT_RING and orphans zones of the absent node. -/
  | absentReceive (p : Fin 16) (m : Msg)
  /-- HWS_RQ_HEAD_WRITE (R389): Software returns receive-ring slots by writing HWS_RQ_HEAD. -/
  | hwsRqHeadWrite (a : Acc) (k : Fin 256) (v : Word)
  /-- ARM (R389): Writing ARM sets LANDED to 0 and the zone to ARMED. -/
  | arm (a : Acc) (z : Fin 256) (v : Word)
  /-- DISARM (R389): Writing DISARM returns a zone to IDLE. -/
  | disarm (a : Acc) (z : Fin 256) (v : Word)
  /-- LANE_FAILING (R379): A lane losing lock or exceeding its error rate is replaced by the spare, or the port degrades width. -/
  | laneFailing (p : Fin 16)
  /-- HWS_LINK_DOWN (R385): A link going down leaves every hash and its queued and unacknowledged messages go out on other ports or are refused. -/
  | hwsLinkDown (p : Fin 16) (acked : Nat)
  /-- PARTNER_ABSENT (R400): 10 µs of electrical idle on every partner lane declares it absent, orphaning zones and sending ABSENT notices. -/
  | partnerAbsent (p : Fin 16) (acked : Nat)
  /-- QSAMPLE (R394): Every SAMPLE_US each port records queue depth and head delay per class. -/
  | qsample (p : Fin 16)
  /-- CMP_EPOCH_WRITE (R395): A write to CMP_EPOCH advances the epoch opening a grace window, sets it freely with SET, or is ignored. -/
  | cmpEpochWrite (a : Acc) (v : Word)
  /-- GRACE_EXPIRE (R395): 500 µs after an epoch change the grace window closes. -/
  | graceExpire
  /-- CMP_NODE_WRITE (R402): A write sets the node number, or is ignored with CFG_ERR while a send ring is enabled. -/
  | cmpNodeWrite (a : Acc) (v : Word)
  /-- LOG_LOST_WRITE (R412): When log queue space returns after drops, a LOG_LOST record is written. -/
  | logLostWrite
  /-- SCRUB_READ (R410): The patrol scrubber reads a codeword on its schedule, correcting it or logging MEM_UE. -/
  | scrubRead (addr : BitVec 56)
  /-- PATTERN_TEST_START (R416): Every PERIOD_MS the scheduler quiesces the next unit and runs its next pattern test in CHECK mode. -/
  | patternTestStart
  /-- PATTERN_TEST_END (R417): A test ends by its checks or TEST_MS; a failure is logged and may retire the unit. -/
  | patternTestEnd (checks : List CheckResult)
  /-- ERR_BELAY (R419): A write to ERR_BELAY writes a BELAY record and sets ERR_BELAY_SEQ. -/
  | errBelay (a : Acc) (v : Word)
  /-- ERR_BARRIER (R420): A write of P and rank updates the octile histogram and history and may set SUSPECT. -/
  | errBarrier (a : Acc) (v : Word)
  /-- BAR_CLEAR (R422): Writing CLEAR zeroes the histogram and empties the history. -/
  | barClear (a : Acc) (v : Word)
  /-- ERR_LOG_BASE_WRITE (R424): A write sets the log ring base once, or is ignored with CFG_ERR. -/
  | errLogBaseWrite (a : Acc) (v : Word)
  /-- ERR_PP_CTL_WRITE (R424): A write configures scheduled testing, or is ignored with CFG_ERR when enabling without a pack. -/
  | errPpCtlWrite (a : Acc) (v : Word)
  /-- ISLAND_NONCE (R430): The island presents a fresh session nonce on its challenge line. -/
  | islandNonce
  /-- TALLY_SEND (R428): Every 100 µs, or when 62 entries wait, the compute die sends a TALLY frame twice and clears the sent deltas. -/
  | tallySend
  /-- START_FRAME (R430): The island accepts one START under the current nonce, opening a session and drawing a new nonce. -/
  | startFrame (fr : Frame)
  /-- TALLY_FRAME (R431): The island checks an arriving copy's MAC and SEQ and accepts, drops or records a gap. -/
  | tallyFrame (fr : Frame)
  /-- FINAL_FRAME (R432): The last frame of the final sequence ends the session cleanly. -/
  | finalFrame (fr : Frame)
  /-- FINAL_SEQUENCE (R432): Entry to COLD or WARM sends every remaining delta, ending with a FINAL frame. -/
  | finalSequence
  /-- FEED_DOWN (R432): 10 ms of island clock without an accepted frame sets FEED_DOWN and ends the session. -/
  | feedDown
  /-- ENERGY_INTERVAL (R433): Every 1 ms the island apportions measured energy among tenants by weighted counts. -/
  | energyInterval (rails : List Nat)
  /-- ISLAND_COMMIT (R442): Every 1 s the island commits counters, charges and clock to sealed storage. -/
  | islandCommit
  /-- ISLAND_RAIL_FALL (R503): VDD_ASY falling through 1.70 V starts the island's final commit. -/
  | islandRailFall (complete : Bool)
  /-- ISLAND_START (R442): The island starts from its last commit, setting UNCLEAN if the final commit was incomplete. -/
  | islandStart
  /-- ASY_TALLY (R429): A write declares queries or tokens for the writer's tenant into the tally cache, or sets TALLY_ERR. -/
  | asyTally (a : Acc) (v : Word)
  /-- SEAL_OPEN (R435): ASY_SEAL_N low breaks the seal, incrementing SEAL_COUNT, logging OPEN and setting IN_SERVICE. -/
  | sealOpen
  /-- SEAL_CLOSE (R435): Releasing ASY_SEAL_N logs CLOSE and clears IN_SERVICE. -/
  | sealClose
  /-- ID (R438): Sideband command returning part, stepping and the island identity key hash. -/
  | id
  /-- STATUS (R438): Sideband command returning ASY_STATUS. -/
  | status
  /-- STATUS_CLR (R438): Sideband command clearing W1C bits of ASY_STATUS. -/
  | statusClr (v : Word)
  /-- SNAPSHOT (R439): Sideband command taking a signed snapshot of counters at one instant, NACKed within 100 ms of the last. -/
  | snapshot (nonce : BitVec 128) (first : BitVec 16) (count : BitVec 16)
  /-- READ_PAGE (R438): Sideband command reading a page of the current snapshot. -/
  | readPage (page : Nat)
  /-- ANOMALIES (R438): Sideband command reading the anomaly ring. -/
  | anomalies
  /-- SEAL_LOG (R438): Sideband command reading eight seal log entries from an index. -/
  | sealLog (idx : Nat)
  /-- TARIFF (R437): Sideband command replacing the whole tariff table at its last page, setting TARIFF_CHANGED. -/
  | tariff (words : List Word) (last : Bool)
  /-- SEAL_BUNDLE (R435): Sideband command applying a verified sealed-service bundle during service, logging CHANGE or REJECT. -/
  | sealBundle (bytes : List Byte) (last : Bool)
  /-- POWERUP_SEQUENCE (R446): With VDD_ASY, VDD_AON good and NODE_RST_N high, the hard-wired sequence runs its steps to READY or FAIL. -/
  | powerupSequence (rep : PowerReport)
  /-- RAIL_GOOD (R444): A rail's power-good input rises, letting the sequence enable the next rail. -/
  | railGood (x : Rail)
  /-- RAIL_TIMEOUT (R448): A rail not good within its bound stops the sequence fatally. -/
  | railTimeout
  /-- RAIL_PG_LOSS (R498): A power-good input low for 1 µs or more enters the POWER scope. -/
  | railPgLoss (x : Rail)
  /-- NODE_RST_N_LOW (R451): NODE_RST_N low for 1 µs or more enters the COLD scope. -/
  | nodeRstNLow
  /-- NODE_RST_N_HIGH (R451): NODE_RST_N rising ends a COLD scope or a held thermal trip and reruns the sequence. -/
  | nodeRstNHigh
  /-- VDD_ASY_LOSS (R451): VDD_ASY not good while other rails are up holds the node in COLD. -/
  | vddAsyLoss
  /-- THERMAL_TRIP (R502): A sensor crossing its trip point asserts THERM_TRIP_N and enters COLD. -/
  | thermalTrip (src : ThermSource) (tempQc : BitVec 16)
  /-- BOOT_RESET (R452): A physical function write with the key enters the COLD or WARM scope; others set CFG_ERR. -/
  | bootReset (a : Acc) (v : Word)
  /-- SCOPE_ENTRY (R453): Entry to a reset scope drops NODE_READY and NODE_ALIVE, idles links, sends the final sequence and stops the interior. -/
  | scopeEntry
  /-- WARM_EXIT (R454): The WARM exit restarts the rail controller and island session, then reruns T0 init, self-test, verify and READY. -/
  | warmExit (rep : PowerReport)
  /-- BOOT_STAGE_REL (R450): Writing 1 clears STAGED and returns the staging area to ordinary T0. -/
  | bootStageRel (a : Acc) (v : Word)
  /-- QUIESCE (R457): Service command stopping dispatch on a unit and moving its waiting descriptors to a stand-in if a spare is free. -/
  | quiesce (a : Acc) (v : Word)
  /-- QUIESCE_DONE (R456): The last dispatched descriptor retires and the unit becomes QUIESCED, passing SVC_DONE. -/
  | quiesceDone
  /-- RESUME (R457): Service command returning a quiesced unit to service and its descriptors back from the stand-in. -/
  | resume (a : Acc) (v : Word)
  /-- RELOAD (R456): Service command resetting a quiesced unit, applying its overlay and running its tests. -/
  | reload (a : Acc) (v : Word)
  /-- RELOAD_TESTS_DONE (R456): The unit's tests end, returning it to service, retiring it, or leaving it QUIESCED. -/
  | reloadTestsDone (checks : List CheckResult)
  /-- RETIRE (R457): Service command retiring a quiesced unit in favour of its stand-in or a spare, or losing its descriptors. -/
  | retire (a : Acc) (v : Word)
  /-- MIGRATE (R459): Service command copying an HBM channel and its NBU buffers onto the stack's spare channel. -/
  | migrate (a : Acc) (v : Word)
  /-- MIGRATE_DONE (R459): The spare channel takes the channel's number and addresses and the NBU returns to service. -/
  | migrateDone
  /-- RECAL_HBM (R462): Service command recalibrating an HBM stack one channel at a time. -/
  | recalHbm (a : Acc) (v : Word)
  /-- RECAL_HWS (R462): Service command recalibrating a Hawser port with its traffic rerouted. -/
  | recalHws (a : Acc) (v : Word)
  /-- LANE_SPARE (R462): Service command switching a Hawser lane to the spare at one flit boundary. -/
  | laneSpare (a : Acc) (v : Word)
  /-- RECAL_D2D (R462): Service command recalibrating a die-to-die link while requests wait in its queue. -/
  | recalD2d (a : Acc) (v : Word)
  /-- CHANNEL_FAIL (R461): A channel failing in service is replaced by the free spare with every codeword uncorrectable. -/
  | channelFail (ch : Fin 512)
  /-- LOAD (R472): Bundle loader copies, hashes and verifies a bundle, accepting it by kind or releasing its range. -/
  | load (a : Acc) (v : Word)
  /-- RELEASE (R473): Bundle loader frees and zeroes a code region, refused with IN_USE while Sequencers use it. -/
  | release (a : Acc) (v : Word)
  /-- ATTEST (R476): Writes a dual-signed attestation report over the nonce, refilling the bottom tree when due. -/
  | attest (a : Acc) (v : Word)
  /-- ENROLL_FIRST (R475): A physical function programs the first owner key slot, accepted only if none was ever programmed. -/
  | enrollFirst (a : Acc) (v : Word)
  /-- TST_UNLOCK (R482): A physical function submits an unlock token, which is checked and unlocks the allowed perturbations. -/
  | tstUnlock (a : Acc) (v : Word)
  /-- LOCK (R483): Writing TST_CTL.LOCK returns every perturbation register to reset and clears UNLOCKED. -/
  | lock (a : Acc) (v : Word)
  /-- UNLOCK_EXPIRE (R483): DURATION_MS after unlock, every perturbation register returns to reset. -/
  | unlockExpire
  /-- TST_DELAY (R484): Sets the delay added to every handshake of a stage class. -/
  | tstDelay (a : Acc) (k : Fin 8) (v : Word)
  /-- TST_WITHHOLD (R485): Withholds credits of a software queue as they become free. -/
  | tstWithhold (a : Acc) (k : Fin 16) (v : Word)
  /-- TST_CLAMP (R485): Limits a queue class to a depth, holding excess upstream. -/
  | tstClamp (a : Acc) (k : Fin 3) (v : Word)
  /-- TST_MEMLAT (R484): Adds latency to one in 2^EVERY accesses to a tier. -/
  | tstMemlat (a : Acc) (k : Fin 4) (v : Word)
  /-- TST_LINKDROP (R485): Drops the named Hawser links for DROP_US without electrical idle. -/
  | tstLinkdrop (a : Acc) (v : Word)
  /-- LINKDROP_END (R485): At DROP_US expiry a dropped link retrains. -/
  | linkdropEnd (p : Fin 16)
  /-- REGISTER_WRITE (R493): A write to a register without its own row sets RW fields and clears W1C bits at one instant. -/
  | registerWrite (a : Acc) (addr : BitVec 56) (v : Word)
  /-- SEC_DONE (R471): A bundle-loader command (LOAD, RELEASE, ATTEST or ENROLL_FIRST) ends, writing RESULT, clearing SEC_STATUS.BUSY and passing counter 0x9040. -/
  | secDone
  /-- MOUNT_COMPLETE (R323): A MOUNT in progress finishes its replay within 0.5 s + M / 12 GB/s and sets MOUNTED, or MOUNT_ERR when no root decodes, clearing FLE_STATUS.BUSY. -/
  | mountComplete (f : Fin 4) (rep : MountReport)
  /-- FORMAT_COMPLETE (R323): A FORMAT in progress finishes erasing, reading bad-block marks and writing an empty root within 30 s, clearing FLE_STATUS.BUSY. -/
  | formatComplete (f : Fin 4) (bad : List (Nat × Nat))
  /-- SVC_DONE (R463): A RECAL_HBM, RECAL_HWS, LANE_SPARE or RECAL_D2D service command finishes, returning the port or link to service, clearing BOOT_SVC_STATUS.BUSY and passing counter 0x9030. -/
  | svcDone
  /-- TOKEN_CHECK_DONE (R482): The check of an unlock token ends within 1.8 ms, setting RESULT, unlocking the allowed registers on success, drawing a new TST_NONCE and clearing TST_STATUS.BUSY. -/
  | tokenCheckDone
  /-- HWS_LINK_UP (R380): A Hawser link that was down or whose partner was absent finishes training, sets HWS_PORT_STATUS.LINK_UP and rejoins the route hashes. -/
  | hwsLinkUp (p : Fin 16) (width : BitVec 4) (partner : BitVec 16)
  /-- RC_FIELD_READ (R11): A read of a register with an RC field, such as MAXWAIT_US, PEAK, LATE_DATA, MAXDELAY_US, HWS_POL_CNT or FEC_CORR, returns the value and clears the field. -/
  | rcFieldRead (a : Acc) (addr : BitVec 56)
  deriving DecidableEq, Repr

end Sys2Proof
end

