-- ==== Sys2Proof/Decode.lean ====
section
/-!
DEFINITION. The command that a word spells by the table's bits. No row of the opcode table gives bits (every row's list
of fields is empty), so no word spells a command.
-/
namespace Sys2Proof

/-- No row gives bits: no word spells a command. -/
def decodeTableWord (_nbits _w : Nat) : Option Instr := none

end Sys2Proof
end

