-- ==== Sys2Proof/Config.lean ====
section
/-!
DEFINITION. What an implementation fixes and the values the spec leaves open: constants without a body, so that nothing
can be proved of their values. A fresh free value is a constant applied to the state's choice counter (log 6).
-/
namespace Sys2Proof.Config

/-! ## Free values -/

/-- The `n`-th free word. -/
opaque freeWord : Nat → BitVec 64
/-- Byte `i` of the `n`-th free run of bytes. -/
opaque freeByte : Nat → Nat → BitVec 8
/-- The byte a host returns for an address of its window, at the `n`-th read (log 7). -/
opaque hostByte : Nat → Nat → BitVec 8
/-- What strikes the node's arrays and links in the `n`-th nanosecond of idling, and where, by its parts (R402, R409). -/
opaque strike : Nat → Nat → Nat
/-- The host does not complete the `n`-th read of its memory within CTO_MS (R373). -/
opaque hostLate : Nat → Bool
/-- Which of a full cache's lines leaves it, at the `n`-th choice (log 11). -/
opaque victim : Nat → Nat
/-- The directory set of a line: R338 does not give the function (log 11). -/
opaque dirSet : Nat → Nat
/-- The `i`-th pick of the `n`-th free order of accumulation or of arrival (R128). -/
opaque pick : Nat → Nat → Nat
/-- The order of the butterfly stages of a rotation: fixed, but not stated (R119). -/
opaque rotStage : Nat → Nat

/-- The tests of a pack version for a class, in the pack's order: the pack's layout is not stated (R415, log 54). -/
opaque packTests : Nat → Nat → List Nat

/-- A syndrome of a memory code, which the spec does not define (R411). -/
opaque syndrome : Nat → BitVec 64

/-- The hash of SRC, DST, CLASS and FLOW by which a node picks an egress port (R384), which the spec does not give. -/
opaque pathHash : Nat → Nat → Nat → Nat → Nat

/-! ## Fused identity (R465, R466, log 9) -/

/-- The grade and the stepping of the ordering code (R508): N or P, A0 or B0. -/
opaque gradeP : Bool
opaque stepB : Bool
def grade : BitVec 4 := if gradeP then 1 else 0
def stepping : BitVec 8 := if stepB then 0xB0 else 0xA0
opaque serial : BitVec 64
/-- The hashes in the two vendor key slots. -/
opaque vendorKey : Nat → BitVec 384
/-- The ECDSA and the HSS identity seed, the LMS identifier, the feed key: fused, and returned by nothing (R466). -/
opaque ecdsaSeed : BitVec 384
opaque hssSeed : BitVec 256
opaque lmsId : BitVec 128
opaque feedKey : BitVec 256

/-! ## Cryptographic functions, whose values the spec takes from their own standards (log 16) -/

opaque sha384 : List Byte → BitVec 384
/-- Byte `i` of the public key of an ECDSA seed, and of an HSS seed with its LMS identifier. -/
opaque ecdsaPublic : BitVec 384 → Nat → BitVec 8
opaque hssPublic : BitVec 256 → BitVec 128 → Nat → BitVec 8
/-- SHA-384 of the ECDSA identity public key and the HSS identity public key, one after the other (R466). -/
def idHash : BitVec 384 :=
  sha384 ((List.range 97).map (ecdsaPublic ecdsaSeed) ++ (List.range 60).map (hssPublic hssSeed lmsId))
/-- ECDSA P-384: public key, message, signature. -/
opaque ecdsaOk : List Byte → List Byte → List Byte → Bool
/-- HSS with the parameter sets of R470: public key, message, signature. -/
opaque hssOk : List Byte → List Byte → List Byte → Bool
/-- Byte `i` of the `n`-th signature over a message: ECDSA and HSS under the seeds of the identity keys (R476), and the
island's two, one after the other (R440). -/
opaque ecdsaSign : BitVec 384 → Nat → List Byte → Nat → BitVec 8
opaque hssSign : BitVec 256 → Nat → List Byte → Nat → BitVec 8
opaque islandSign : Nat → List Byte → Nat → BitVec 8
/-- The MAC of a feed frame under the session key that the feed key and a nonce give (R428 to R430). -/
opaque sessionMac : BitVec 256 → Nat → List (BitVec 64) → Nat
def feedMac (nonce : Nat) (l : List (BitVec 64)) : Nat := sessionMac feedKey nonce l
/-- The first 32 bytes of the hash of the island's identity keys (R438), and the hash of the verification authority's keys
that the island holds (R435). -/
opaque islandHash : BitVec 256
opaque authorityKey : BitVec 384

end Sys2Proof.Config
end

