-- ==== Sys2Proof/Machine/State.lean ====
section
/-!
DEFINITION. The state of the node as plain data, the reasons a step can stop, and the state after reset.
Registers that software reads and writes whole stay 64-bit words; their fields are read by the accessors of Operands.
Every field is listed in INVENTORY.md under "State" with the rule that names it.
-/
namespace Sys2Proof.Machine
open Sys2Proof

/-- Why the machine stops. The spec gives every command of the table an effect (a trap, a failure code, a refused write),
so no meaning raises a fault and the type has no constructor. Safe. -/
inductive Fault
  deriving DecidableEq, Repr

/-- Why a command is turned away. -/
inductive Refusal where
  /-- Raised by the arms of `exec` whose command has no meaning yet, and by nothing else. Safe: the machine stops. -/
  | notModelled (mnemonic : String)
  deriving DecidableEq, Repr

/-- What leaves the node: the MODEL's outbox (log 12), newest last. -/
inductive Output where
  /-- A completion of a host read: the bytes returned (R364). -/
  | hostRead (a : Acc) (data : List Byte)
  /-- A host access that completed as Unsupported Request (R363, R449). -/
  | hostUR (a : Acc)
  /-- A host access that failed and returned nothing; the spec does not give its completion's status (log 65). -/
  | hostFail (a : Acc)
  /-- A 128-bit CAS, completed with Completer Abort (R361). -/
  | hostAbort (a : Acc)
  /-- The zero-length read to a window that follows an engine's writes to it (R261). -/
  | hostFlush (p : HostPort)
  /-- The value a register read returned to its accessor. -/
  | csrValue (a : Acc) (addr : Nat) (v : Word)
  /-- A write to host memory through a T3 window (R261). -/
  | hostWrite (p : HostPort) (off : Nat) (data : List Byte)
  /-- A completion queue entry posted to host memory, at a host bus address (R369). -/
  | hostPost (p : HostPort) (bus : Nat) (data : List Byte)
  /-- An atomic's old value returned to a host (R364). -/
  | hostOld (a : Acc) (v : Word)
  /-- An MSI-X vector of a function (R371). -/
  | msix (p : HostPort) (fn : Nat) (vec : Nat)
  /-- A message leaving on a Hawser port (R392). -/
  | message (port : Nat) (m : Msg)
  /-- The answer of a channel to an ordinary request: the bytes read, empty for a write; false where it failed (R264). -/
  | chanDone (ch : Nat) (req : ChanReq) (ok : Bool) (data : List Byte)
  /-- A line or a part of it returned by the directory to a requester (R336). -/
  | lineData (agent : Nat) (line : Nat) (data : List Byte)
  /-- The old value of a near atomic returned to its requester (R341). -/
  | oldValue (agent : Nat) (v : Word)

  /-- A frame of the metering feed (R428). -/
  | frame (kind : Nat) (f : Frame)
  /-- A reply on the island's sideband (R438). -/
  | sideband (code : Nat) (data : List Byte)
  /-- A sideband command that was not acknowledged (R438). -/
  | sidebandNack (code : Nat)
  /-- The core rail's setpoint, written as VOUT_COMMAND over the management bus, in millivolts (R497). -/
  | vout (mv : Nat)
  deriving DecidableEq, Repr

/-! ## Memory -/

/-- Node memory T0, T1 and T2 (R240): the bytes that are not zero, in rising order of address; the codewords that hold a
corrected or an uncorrectable error (R409), each by its first address; the retired HBM channels (R448); the channels that a
spare replaced with every codeword uncorrectable, and the codewords written in them since (R461). -/
structure Memory where
  cells : List Host.Cell := []
  ce : List Nat := []
  ue : List Nat := []
  retiredCh : List Nat := []
  lostCh : List Nat := []
  rewritten : List Nat := []
  deriving DecidableEq, Repr

/-- A cache line (R335): the Modified state, the 64 bytes, the end of its hold (R346). -/
structure CLine where
  modified : Bool
  data : List Byte
  holdEnd : Nat
  deriving DecidableEq, Repr

/-- A directory entry that is not U (R336). -/
inductive DirEntry where
  | shared (sharers : List Nat)
  | owned (owner : Nat)
  deriving DecidableEq, Repr

/-- A coherent request that waits at its home slice (R337, R345, R346): its agent, line and age stamp, whether it has aged,
the command that brought it, and for an atomic whether it runs near, as its arrival decided (R342). -/
structure DirWait where
  agent : Nat
  line : Nat
  stamp : Word
  aged : Bool := false
  cmd : Instr
  near : Bool := true
  deriving DecidableEq, Repr

/-- The coherence directory: per slice its entries, most recently used first, its contention counters and sticky status;
DIR_CTL; the requests that wait, in order of arrival; the units of 8 bytes of cached copies, by agent and address / 8, that hold
an uncorrectable error (R409). -/
structure Dir where
  slices : Tbl (List (Nat × DirEntry)) := []
  cont : Tbl Nat := []
  ctl : Word := 0x000000C807D00000#64
  status : Tbl Word := []
  waiting : List DirWait := []
  bad : List (Nat × Nat) := []
  deriving DecidableEq, Repr

/-! ## Timebase and rail (chapter 02) -/

structure Timebase where
  time : Word := 0
  released : Bool := false
  ctl : Word := 0x00000003E8000000#64
  steps : BitVec 16 := 0
  offsetNs : BitVec 16 := 0
  ratePpb : BitVec 24 := 0
  hops : BitVec 4 := 0xF
  sticky : Word := 0
  locked : Bool := false
  refOk : Bool := true
  agree : List Int := []
  inLock : Nat := 0
  missed : Nat := 0
  lastSync : Option Word := none
  deriving DecidableEq, Repr

/-- The rail controller (R31 to R34); `on` says that it has been started (step 3 of R446, R454), `start` when. -/
structure RailCtl where
  on : Bool := false
  ctl : Word := 0x00000514C8294690#64
  setpoint : BitVec 10 := 0x2D0
  tjQc : BitVec 16 := 0
  railMv : BitVec 10 := 0
  sticky : Word := 0
  powers : List (Word × Nat) := []
  start : Word := 0
  lastStep : Option Word := none
  deriving DecidableEq, Repr

/-! ## Sequencers (chapter 03) -/

/-- What a Sequencer waits for (R60, R64, R66). -/
inductive SeqWait where
  | idle
  | counter (rd : BitVec 6) (ctr : Nat) (target : Word) (dl : Bool)
  | credit (rd : BitVec 6) (q : Nat) (words : List Word)
  | fence (mask : Nat)
  deriving DecidableEq, Repr

structure Seq where
  g : Tbl Word := []
  pc : BitVec 56 := 0
  tenant : BitVec 12 := 0
  th : Bool := false
  tvec : BitVec 56 := 0
  tpc : BitVec 56 := 0
  tcause : BitVec 8 := 0
  tval : Word := 0
  tsave : Word := 0
  wdl : Word := 0
  progver : BitVec 16 := 0
  icount : Word := 0
  running : Bool := false
  retired : Bool := false
  wait : SeqWait := .idle
  stopping : Bool := false
  stores : List (Nat × List Byte) := []
  outs : List (Nat × Nat) := []
  startVer : BitVec 16 := 0
  entry : BitVec 56 := 0
  haltAddr : BitVec 56 := 0
  lastCause : BitVec 8 := 0
  sticky : Word := 0
  hoVersion : BitVec 16 := 0
  hoTmo : BitVec 16 := 0
  hoPending : Bool := false
  hoEntry : BitVec 56 := 0
  hoStart : Word := 0
  deriving DecidableEq, Repr

/-! ## Engine queues (chapter 04) and the work of a running descriptor -/

/-- A scored vector: its score as FP32 bits, its slot or list number, its VID, flags as the owning rule states them. -/
structure Cand where
  score : BitVec 32
  slot : Nat
  vid : Word := 0
  flags : Nat := 0
  deriving DecidableEq, Repr

/-- A walker context (R163 to R171): the root record, parameter block and table size bound at its start, the visible
states decided so far, the beam with its expanded flags, the results, the visited slots and the counts. -/
structure WalkCtx where
  root : List Word := []
  dparam : List Byte := []
  blog2 : Nat := 10
  seen : List (Nat × Nat) := []
  beam : List (Cand × Bool) := []
  results : List Cand := []
  visited : List Nat := []
  hops : Nat := 0
  dists : Nat := 0
  tomb : Nat := 0
  free : Nat := 0
  bad : Nat := 0
  nan : Nat := 0
  deriving DecidableEq, Repr

/-- The state of one rerank entry (R188). -/
inductive RerankSt where
  | waiting | outstanding | resolved | abandoned
  deriving DecidableEq, Repr

structure RerankEntry where
  vid : Word
  score : BitVec 32
  slot : Nat
  flags : Nat
  st : RerankSt
  deriving DecidableEq, Repr

/-- A rerank in progress (R188): the parameter block and query it read, its entries, the reads issued, the NaN full
distances formed. -/
structure RerankCtx where
  dparam : List Byte := []
  qvec : List Byte := []
  entries : List RerankEntry := []
  reads : Nat := 0
  nan : Nat := 0
  deriving DecidableEq, Repr

/-- One sector of a READ: outstanding, with the physical location its AU resolved to, none for an unmapped AU; then
written, late or failed (R313, R314). -/
inductive SectorSt where
  | outstanding (loc : Option Nat)
  | written | late | failed
  deriving DecidableEq, Repr

/-- A flash command in progress: its place in the FLE's order of acceptance, when it began, the sectors of a READ, the
pages of a WRITE that wait for parity. -/
structure FlashCtx where
  acc : Nat
  start : Word
  sectors : List SectorSt := []
  pages : List Nat := []
  deriving DecidableEq, Repr

/-- The work a dispatched descriptor has in hand; a plain one keeps the value its unit's monitor register had at its
dispatch (R123, R124). -/
inductive Work where
  | plain (mon : Word)
  | walk (w : WalkCtx)
  | rerank (r : RerankCtx)
  | flash (f : FlashCtx)
  deriving DecidableEq, Repr

/-- Where a descriptor stands (R86): in the queue, dispatched, finished with a code, retired with a code. -/
inductive EntrySt where
  | queued
  | running (w : Work)
  | finished (code : Nat)
  | retired (code : Nat)
  deriving DecidableEq, Repr

/-- A descriptor that the retire counter has not passed: its words, tenant and issuer, where it stands, whether a stand-in took
it, when it was dispatched, whether a move has overwritten weights it uses (R143), and of a flash descriptor its place in its
engine's order of acceptance (R308, R311). -/
structure Entry where
  words : List Word
  tenant : BitVec 12
  issuer : Nat
  st : EntrySt
  onSpare : Bool := false
  since : Word := 0
  spoiled : Bool := false
  acc : Nat := 0
  deriving DecidableEq, Repr

/-- One queue (R79, R102): the entries, oldest first, whose first has index `retired`. -/
structure Queue where
  entries : List Entry := []
  ctl : Word := 0x101
  retired : Word := 0
  completed : Word := 0
  rejects : BitVec 16 := 0
  halted : Bool := false
  sticky : Word := 0
  lastErr : Word := 0
  checked : Bool := false
  waitStart : Word := 0
  stalled : List Nat := []
  deriving DecidableEq, Repr

/-- The service state of an engine unit (R456). -/
inductive UnitMode where
  | inService | quiescing | quiesced | testing | retired
  deriving DecidableEq, Repr

/-- A spare that serves a unit's number: as a stand-in, or for good (R457). -/
inductive SpareUse where
  | none
  | standIn (spare : Nat)
  | mapped (spare : Nat)
  deriving DecidableEq, Repr

/-- A unit (R91, R407, R418, R456): its service state, its spare, CHECK mode, whether a failed recovery test left its queues
without a server, whether a spare just mapped in still runs its tests, the queue whose turn it is and how many descriptors that
turn has dispatched. -/
structure UnitSt where
  mode : UnitMode := .inService
  spare : SpareUse := .none
  check : Bool := false
  offline : Bool := false
  fresh : Bool := false
  turn : Nat := 0
  served : Nat := 0
  deriving DecidableEq, Repr

/-! ## Engines' own registers -/

structure SatUnit where
  mon : Word
  stat : Word := 0
  deriving DecidableEq, Repr

structure GweUnit where
  status : Word := 0
  limit : Nat := 0x400
  peak : Nat := 0
  deriving DecidableEq, Repr

/-- A DSE's registers (R195); the abandoned reads by queue, descriptor and entry (R189). -/
structure DseUnit where
  status : Word := 0
  lateData : Nat := 0
  rdLimit : Nat := 0x400
  abandoned : List (Nat × Word × Nat) := []
  deriving DecidableEq, Repr

/-- The commit unit (R196, R218, R219). -/
structure Commit where
  ctl : Word := 0
  tail : BitVec 16 := 0
  head : BitVec 16 := 0
  horizon : BitVec 48 := 0
  sticky : Word := 0
  vslot : Tbl Word := []
  sprue : Tbl Word := []
  deriving DecidableEq, Repr

structure Tiers where
  ntSticky : Word := 0
  layerTemp : Tbl (BitVec 16) := []
  layerRate : Tbl Nat := []
  stackTemp : Tbl (BitVec 16) := []
  stackRate : Tbl Nat := []
  windows : Tbl Bool := []
  deriving DecidableEq, Repr

inductive ChMode where
  | mem | toProc | proc | toMem
  deriving DecidableEq, Repr

/-- A channel (R264 to R270): its state, HOME and MEM_SLICE_US, the slice of the open window, the queue and the requests
held upstream, each with its arrival, when the window opened and when the NBU's wait began, the running broadcast command
and whether work remains for a later one. -/
structure Chan where
  mode : ChMode := .mem
  home : Bool := false
  slice : Nat := 4
  maxWait : Nat := 0
  held : Bool := false
  sticky : Word := 0
  queue : List (ChanReq × Word) := []
  upstream : List (ChanReq × Word) := []
  windowStart : Option Word := some 0
  winSlice : Nat := 4
  nbuWait : Option Word := none
  bcast : Option Word := none
  more : Bool := false
  deriving DecidableEq, Repr

structure Nbu where
  xbuf : List Host.Cell := []
  abuf : Tbl (BitVec 32) := []
  compat : Bool := false
  status : Word := 0
  deriving DecidableEq, Repr

/-- The gather engines (R300); the halvings of the risers, how many have been due and, by a slot's address, how many its counts
have taken (R293); by a running SCATTER's queue and index the rows, address and bytes, that a store met (R296). -/
structure Gte where
  status : Tbl Word := []
  ctl : Word := 0x0000271000100001#64
  lastDecay : Word := 0
  halvings : Nat := 0
  seen : Tbl Nat := []
  torn : List (Nat × Word × Nat × Nat) := []
  deriving DecidableEq, Repr

/-! ## Flash (chapter 14) -/

/-- A valid AU slot of a page (R304): its place in the page, its space and logical AU, for a GC copy the location copied
from, its 4,096 bytes, its sectors whose content was lost (R327, R330), and where the AU was before. -/
structure FSlot where
  a : Nat
  lbs : Nat
  lau : Nat
  src : Nat := 0
  data : List Byte
  lost : List Nat := []
  old : Option Nat := none
  deriving DecidableEq, Repr

/-- A programmed page: its tag's SEQ and KIND, its AU slots, the ranges of a trim page (space, first AU, count), the
change of a system page (space, capacity, 0 for a deletion). A page programmed again keeps the SEQ of the page it replaces
(log 118). -/
structure FPage where
  seq : Nat
  kind : Nat
  slots : List FSlot := []
  trims : List (Nat × Nat × Nat) := []
  space : Option (Nat × Nat) := none
  deriving DecidableEq, Repr

inductive SbSt where
  | free | open_ | closed | verified | victim
  deriving DecidableEq, Repr

/-- A parity page (R316), KIND 0x04: its SEQ and the pages it is the XOR of. -/
structure ParityPage where
  seq : Nat
  covers : List Nat
  deriving DecidableEq, Repr

/-- A superblock (R315): its good members, whether it was opened for GC, the stripe being filled and the members
programmed in it, the newest parity page of each stripe, the order of its close, its erase count, its pages per block, and
the superblocks whose verify its erase awaits (R325). -/
structure Sb where
  members : List Nat
  pages : Nat
  st : SbSt := .free
  gc : Bool := false
  stripe : Nat := 0
  done : List Nat := []
  parity : Tbl ParityPage := []
  closedAt : Nat := 0
  erases : Nat := 0
  holdFor : List Nat := []
  deriving DecidableEq, Repr

/-- A root (R321): the map, the space table, the open superblocks, the order of the free pool, CP_SEQ. -/
structure FleRoot where
  map : Tbl Nat := []
  spaces : Tbl Nat := []
  opened : List Nat := []
  pool : List Nat := []
  cpSeq : Nat := 0
  deriving DecidableEq, Repr

inductive ModSt where
  | absent | present | admitting | inService | evacuating | empty | poweredOff | failed
  deriving DecidableEq, Repr

structure FMod where
  st : ModSt := .absent
  prsnt : Bool := false
  pwrEn : Bool := false
  admitted : Bool := false
  evacRefused : Bool := false
  deriving DecidableEq, Repr

inductive FleBusy where
  | idle | mounting | formatting
  deriving DecidableEq, Repr

/-- A read that a rerank has at a flash engine (R80, R187): the reading queue, descriptor and entry, its place in the order of
acceptance, the locations its AUs resolved to. -/
structure FleRead where
  q : Nat
  i : Word
  k : Nat
  acc : Nat
  locs : List Nat := []
  deriving DecidableEq, Repr

/-- A flash engine. The map, the space table and the pages that wait in the write buffer (R324) are volatile; the other pages,
superblocks, roots and SEQ are on the flash. `gone` gives for a space the places in the order of acceptance of its last DELETE
and of the CREATE that followed (R311). -/
structure Fle where
  mapBase : Word := 0
  mapSize : Word := 0
  gcCtl : Word := 0x03E8010000400008#64
  sticky : Word := 0
  mounted : Bool := false
  busy : FleBusy := .idle
  readOnly : Bool := false
  fgGc : Bool := false
  bgGc : Bool := false
  victim : Option Nat := none
  lastReq : Word := 0
  accepted : Nat := 0
  cutAt : Word := 0
  cutBytes : Nat := 0
  map : Tbl Nat := []
  spaces : Tbl Nat := []
  pool : List Nat := []
  mods : Tbl FMod := []
  sbs : Tbl Sb := []
  flash : Tbl FPage := []
  gone : Tbl (Nat × Nat) := []
  reads : List FleRead := []
  seq : Nat := 0
  closes : Nat := 0
  rootA : Option FleRoot := none
  rootB : Option FleRoot := none
  deriving DecidableEq, Repr

/-! ## Mailboxes and host ports (chapters 15, 16) -/

/-- A mailbox (R350). The AB queue and the BA queue hold their words oldest first. -/
structure Mbx where
  cfg : Word := 0
  owner : Nat := 0
  ab : List Word := []
  ba : List Word := []
  dbAB : BitVec 32 := 0
  dbBA : BitVec 32 := 0
  pendAB : Bool := false
  pendBA : Bool := false
  doneAB : Bool := false
  doneBA : Bool := false
  codeAB : BitVec 16 := 0
  codeBA : BitVec 16 := 0
  sticky : Word := 0
  deriving DecidableEq, Repr

/-- A ring pair (R366 to R370, R377). `fetch` is the doorbell value whose entries are still to be mirrored and `fetchAt` when
the fetching began, `uncovered` the entries posted since the last interrupt, with the time of the first. -/
structure Ring where
  cfg : Word := 0x0000000000014400#64
  owner : HostPort
  sqBase : Word := 0
  cqBase : Word := 0
  mirror : Word := 0
  stage : Word := 0
  sqTail : BitVec 16 := 0
  sqHead : BitVec 16 := 0
  cqTail : BitVec 16 := 0
  cqHead : BitVec 16 := 0
  posted : BitVec 16 := 0
  fetch : BitVec 16 := 0
  uncovered : Nat := 0
  firstAt : Word := 0
  fetchAt : Word := 0
  deriving DecidableEq, Repr

/-- An entry of an MSI-X table (R361, R363): message address, message data, vector masked (log 63). -/
structure MsixEnt where
  addr : Word := 0
  data : BitVec 32 := 0
  masked : Bool := true
  deriving DecidableEq, Repr

/-- A host port (R361 to R363, R375, R377); the MSI-X tables and the pending bits by function x 64 + vector. -/
structure HostSt where
  ctl : Word := 0x00000A0000000001#64
  sticky : Word := 0
  width : BitVec 4 := 0
  speed : BitVec 4 := 0
  linkUp : Bool := false
  lost : Bool := false
  dead : Bool := false
  vf : Tbl Word := []
  route : Tbl Word := []
  rings : Tbl Ring := []
  msix : Tbl MsixEnt := []
  pba : List Nat := []
  deriving DecidableEq, Repr

/-! ## Hawser fabric and composition (chapter 17) -/

/-- A message in an egress queue, when it entered, and whether this node sends it first (its SENT is still to be set). -/
structure Queued where
  msg : Msg
  at_ : Word
  fresh : Bool
  deriving DecidableEq, Repr

/-- A Hawser port (R378 to R385, R402): the sticky bits of HWS_PORT_STATUS, the lanes in service, the partner's node
number, the egress queue of each class, the replay buffer, and whether service or Shake-out keeps the port from its hashes. -/
structure HPort where
  up : Bool := false
  sticky : Word := 0
  width : BitVec 4 := 0
  spare : Bool := false
  corr : BitVec 32 := 0
  partner : Option Nat := none
  egress : Tbl (List Queued) := []
  replay : List Msg := []
  away : Bool := false
  dead : Bool := false
  lastSample : Word := 0
  deriving DecidableEq, Repr

structure SendRing where
  base : Word := 0
  cfg : Word := 0
  tail : BitVec 16 := 0
  head : BitVec 16 := 0
  deriving DecidableEq, Repr

structure RecvRing where
  base : Word := 0
  cfg : Word := 0
  head : BitVec 16 := 0
  tail : BitVec 16 := 0
  deriving DecidableEq, Repr

inductive ZoneSt where
  | idle | armed | complete | orphaned
  deriving DecidableEq, Repr

/-- A landing zone (R389). -/
structure Zone where
  base : Word := 0
  size : Nat := 0
  src : Nat := 0xFFFF
  tenant : Nat := 0
  st : ZoneSt := .idle
  landed : Nat := 0
  deriving DecidableEq, Repr

/-- The HWS window (R402), with the count of dropped notices (R391), which no register shows. A policing bucket, by
port x 4,096 + tenant, is its level in thousandths of a byte and when it
was last filled; an unlisted bucket stands as `polBase` says for its profile, or is full (R393). -/
structure Hws where
  ctl : Word := 0x64
  sticky : Word := 0
  noticesLost : Nat := 0
  routeBase : Word := 0
  watchBase : Word := 0
  ports : Tbl HPort := []
  qsamp : Tbl Word := []
  polProf : Tbl Word := []
  tenProf : Tbl Word := []
  polSel : Word := 0
  polCnt : Tbl Word := []
  buckets : Tbl (Nat × Word) := []
  polBase : Tbl (Nat × Word) := []
  sends : Tbl SendRing := []
  recvs : Tbl RecvRing := []
  zones : Tbl Zone := []
  deriving DecidableEq, Repr

/-- The CMP window (R403). -/
structure Cmp where
  node : BitVec 16 := 0xFFFF
  epoch : BitVec 16 := 0
  prev : BitVec 16 := 0
  grace : Bool := false
  changed : Word := 0
  sticky : Word := 0
  deriving DecidableEq, Repr

/-! ## Inclusion log and pattern tests (chapter 18) -/

/-- A record of the Inclusion log (R411), its words 1 to 6 and the fields of word 0; when it was written (R412). -/
structure LogRec where
  seq : Nat
  kind : Nat
  sev : Nat
  time : Word
  where_ : Word
  cond : Word
  count : Nat
  addr : Word
  syndrome : Word
  detail : Word
  wrote : Word := 0
  deriving DecidableEq, Repr

/-- The ERR window and the log writer; `stale` names the records whose COUNT has risen since the ring took them (R412). -/
structure ErrLog where
  ctl : Word := 0x03E80000000000C1#64
  sticky : Word := 0
  base : Word := 0
  ppCtl : Word := 0x03E800320003FE02#64
  ppBase : Word := 0
  packVer : BitVec 16 := 0
  curClass : Nat := 0
  curUnit : Nat := 0
  curTest : Nat := 0
  testing : Bool := false
  testPack : BitVec 16 := 0
  testTurn : Tbl Nat := []
  testStart : Word := 0
  unitFail : List Nat := []
  belaySeq : Nat := 0
  barThresh : Nat := 0x28
  barWlog2 : Nat := 8
  barHist : Tbl Word := []
  barrier : List Bool := []
  walkAt : Nat := 0
  lastTest : Option Word := none
  recs : List LogRec := []
  ringFrom : Nat := 1
  written : Nat := 0
  queue : List LogRec := []
  stale : List Nat := []
  writerAt : Word := 0
  lost : Nat := 0
  deriving DecidableEq, Repr

/-! ## Power-up, reset and service (chapters 20 and 24) -/

inductive ResetScope where
  | power | cold | warm
  deriving DecidableEq, Repr

inductive SvcWork where
  | idle
  | quiesce (cls unit : Nat)
  | resume (cls unit : Nat)
  | reload (cls unit : Nat)
  | migrate (ch : Nat)
  | link (act target lane : Nat)
  deriving DecidableEq, Repr

structure Boot where
  scopeLast : Nat := 0
  causeLast : Nat := 0
  bundlesOk : Nat := 0
  bundlesBad : Nat := 0
  state : Nat := 1
  staged : Bool := false
  sticky : Word := 0
  degraded : Bool := false
  fail : Bool := false
  ready : Bool := false
  failStep : Nat := 0
  failCause : Nat := 0
  failDetail : Nat := 0
  readyTime : Word := 0
  svcResult : Nat := 0
  svcAct : Nat := 0
  svcClass : Nat := 0
  svcTarget : Nat := 0
  svc : SvcWork := .idle
  railsEn : List Rail := []
  railsGood : List Rail := []
  asyGood : Bool := true
  aonGood : Bool := true
  rstN : Bool := true
  rstLowAt : Nat := 0
  alive : Bool := false
  readyPin : Bool := false
  tripN : Bool := true
  tripHold : Bool := false
  scope : Option (ResetScope × Nat) := none
  entered : Bool := false
  chSpares : Tbl Nat := []
  lostSpares : List Nat := []
  deriving DecidableEq, Repr

/-! ## Security and Shake-out (chapters 21 and 22) -/

structure Region where
  valid : Bool := false
  slot : Nat := 0
  base : Nat := 0
  units : Nat := 0
  users : List Nat := []
  version : BitVec 16 := 0
  svn : BitVec 16 := 0
  hash : BitVec 384 := 0
  deriving DecidableEq, Repr

structure KeySlot where
  hash : BitVec 384 := 0
  programmed : Bool := false
  revoked : Bool := false
  perms : BitVec 4 := 0
  deriving DecidableEq, Repr

/-- A verified pattern pack or calibration overlay that the node holds (R472). -/
structure Held where
  target : Nat
  slot : Nat
  version : BitVec 16
  svn : BitVec 16
  hash : BitVec 384
  payload : List Byte
  deriving DecidableEq, Repr

inductive SecWork where
  | idle
  | load (region src dst : Nat) (held : Bool)
  | release (region : Nat)
  | attest (dst : Nat)
  | enrollFirst (src : Nat)
  deriving DecidableEq, Repr

structure Sec where
  dst : Word := 0
  nonce : Tbl Word := []
  result : Nat := 0
  sticky : Word := 0
  work : SecWork := .idle
  regions : Tbl Region := []
  slots : Tbl KeySlot := []
  everOwner : Bool := false
  floors : Tbl Nat := []
  topLeaf : Nat := 0
  bottomLeaf : Nat := 0
  bottomLive : Bool := false
  pack : Option Held := none
  overlays : List Held := []
  active : Tbl Held := []
  deriving DecidableEq, Repr

/-- The shake-out registers (chapter 22). `checkFirst` says that the token check began before the loader's command, so that
the signing unit takes it first (R482). -/
structure Tst where
  result : Nat := 0
  allow : Nat := 0
  unlockEnd : Option Word := none
  sticky : Word := 0
  nonce : List Word := [0, 0, 0, 0]
  check : Option Nat := none
  checkFirst : Bool := false
  delay : Tbl Word := []
  withhold : Tbl Word := []
  clamp : Tbl Word := []
  memlat : Tbl Word := []
  drops : Tbl Word := []
  latCount : Tbl Nat := []
  deriving DecidableEq, Repr

/-! ## Metering (chapter 19) -/

/-- The compute die's side of the feed: the tally cache in the order in which deltas became nonzero, keyed by
tenant x 32 + RES; the session nonce its key comes from; the last SEQ sent. -/
structure Feed where
  cache : List (Nat × Nat) := []
  lastSeq : Nat := 0
  linkUp : Bool := false
  sticky : Word := 0
  nonce : Nat := 0
  lastSend : Word := 0
  deriving DecidableEq, Repr

/-- An entry of the seal event log (R436): clock, SEAL_COUNT, kind, detail. -/
structure SealEntry where
  clock : Nat
  count : Nat
  kind : Nat
  detail : List Byte
  deriving DecidableEq, Repr

/-- What the island commits to sealed storage (R442). -/
structure Kept where
  counters : Tbl Nat := []
  charges : Tbl Nat := []
  energy : Tbl Nat := []
  macFails : Nat := 0
  replays : Nat := 0
  gaps : Nat := 0
  missing : Nat := 0
  clock : Nat := 0
  deriving DecidableEq, Repr

structure Island where
  up : Bool := true
  kept : Kept := {}
  committed : Kept := {}
  commitOk : Bool := true
  sessClean : Bool := true
  nonce : Nat := 0
  key : Nat := 0
  presented : Bool := false
  openS : Bool := false
  last : Nat := 0
  lastFinal : Bool := false
  lastAt : Nat := 0
  fed : Bool := false
  sMacFails : Nat := 0
  sReplays : Nat := 0
  sGaps : Nat := 0
  sMissing : Nat := 0
  ring : List (Nat × Nat × Nat) := []
  subNs : Nat := 0
  weights : Tbl Nat := []
  energyOpen : Tbl Nat := []
  energyAt : Nat := 0
  coeff : Tbl Nat := []
  gains : Tbl Nat := []
  tariff : Tbl Nat := []
  tariffVer : Nat := 0
  tenantClass : Tbl Nat := []
  tariffBuf : List Word := []
  bundleBuf : List Byte := []
  inService : Bool := false
  sealCount : Nat := 0
  sealLog : List SealEntry := []
  logFull : Bool := false
  sticky : Word := 0
  pertSession : Nat := 0
  pertLife : Nat := 0
  pertFirst : Nat := 0
  pertLast : Nat := 0
  snap : Option (List Byte) := none
  snapAt : Option Nat := none
  deriving DecidableEq, Repr

/-- The footprint of a dispatched NBU descriptor (R281, R282): its opcode and tenant, its read extents and its OUT extent as
addresses and sizes, whether an observer wrote into it, the units of OUT, by channel offset, that a later broadcast command is
to write (R267, R269), and whether such a write has failed. -/
structure Foot where
  q : Nat
  i : Word
  op : Nat
  tenant : Nat
  reads : List (Nat × Nat)
  outAt : Nat
  outSize : Nat
  dirty : Bool := false
  pend : List (Nat × List Byte) := []
  failed : Bool := false
  deriving DecidableEq, Repr

/-- The whole node. -/
structure State where
  pending : List Instr := []
  choice : Nat := 0
  out : List Output := []
  mem : Memory := {}
  caches : Tbl (Tbl CLine) := []
  dir : Dir := {}
  tb : Timebase := {}
  rail : RailCtl := {}
  seqs : Tbl Seq := []
  ctrs : Tbl Word := []
  queues : Tbl Queue := []
  units : Tbl UnitSt := []
  qte : Tbl SatUnit := []
  mxe : Tbl SatUnit := []
  gwe : Tbl GweUnit := []
  dse : Tbl DseUnit := []
  cu : Commit := {}
  sle : Tbl Word := []
  ldl : Tbl Word := []
  tiers : Tiers := {}
  chans : Tbl Chan := []
  nbus : Tbl Nbu := []
  foot : List Foot := []
  gte : Gte := {}
  fle : Tbl Fle := []
  mbx : Tbl Mbx := []
  host : Tbl HostSt := []
  hws : Hws := {}
  cmp : Cmp := {}
  err : ErrLog := {}
  boot : Boot := {}
  sec : Sec := {}
  tst : Tst := {}
  feed : Feed := {}
  island : Island := {}
  deriving DecidableEq, Repr

/-- The node right after power came up (R446): every register at its reset value, memory zero, the power-up sequencer in
STATE RAILS, no rail enabled, no command waiting. -/
def State.reset : State := {}

end Sys2Proof.Machine
end

