-- ==== Sys2Proof/Machine/Tables.lean ====
section
/-!
DEFINITION. Reading and writing the sparse banks of the state, and lists used as finite sets.
-/
namespace Sys2Proof.Machine
open Sys2Proof

/-- The thing with number `k`; `d` where the bank lists none. -/
def tget {α : Type} (t : Tbl α) (d : α) (k : Nat) : α :=
  match t with
  | [] => d
  | (j, v) :: r => if j = k then v else tget r d k

/-- The bank with `v` at number `k`, kept in rising order. -/
def tset {α : Type} (t : Tbl α) (k : Nat) (v : α) : Tbl α :=
  match t with
  | [] => [(k, v)]
  | (j, w) :: r =>
    if j = k then (k, v) :: r
    else if k < j then (k, v) :: (j, w) :: r
    else (j, w) :: tset r k v

/-- The bank with the thing at number `k` changed by `f`. -/
def tmod {α : Type} (t : Tbl α) (d : α) (k : Nat) (f : α → α) : Tbl α := tset t k (f (tget t d k))

/-- The thing with number `k` if the bank lists it. -/
def tfind {α : Type} (t : Tbl α) (k : Nat) : Option α :=
  match t with
  | [] => none
  | (j, v) :: r => if j = k then some v else tfind r k

/-- The bank without number `k`. -/
def tdel {α : Type} (t : Tbl α) (k : Nat) : Tbl α := t.filter (fun e => e.1 != k)

/-- A finite set of numbers with `k` added. -/
def sadd (l : List Nat) (k : Nat) : List Nat := if k ∈ l then l else l ++ [k]

/-- A finite set of numbers with `k` removed. -/
def sdel (l : List Nat) (k : Nat) : List Nat := l.filter (fun x => x != k)

/-- The list with the element at position `i` replaced. -/
def lset {α : Type} (l : List α) (i : Nat) (v : α) : List α :=
  match l, i with
  | [], _ => []
  | _ :: r, 0 => v :: r
  | x :: r, i + 1 => x :: lset r i v

/-- Consecutive pieces of `n` elements. -/
def chunks {α : Type} (n : Nat) : Nat → List α → List (List α)
  | 0, _ => []
  | fuel + 1, l => if l.isEmpty then [] else l.take n :: chunks n fuel (l.drop n)

end Sys2Proof.Machine
end

