-- ==== Sys2Proof/Machine/Operands.lean ====
section
/-!
DEFINITION. Operand forms: bit fields of words, byte order, immediates, the words of Sequencer instructions, the fields
of a descriptor's header, the fields of registers that several rules read.
-/
namespace Sys2Proof.Machine
open Sys2Proof

/-! ## Bit fields and byte order (R8) -/

/-- The field [hi:lo] of a word. -/
def fld (w : Word) (hi lo : Nat) : Nat := (w.toNat >>> lo) % 2 ^ (hi + 1 - lo)

/-- Bit `i` of a word. -/
def bitAt (w : Word) (i : Nat) : Bool := w.toNat.testBit i

/-- A word with field value `n` placed at bit `lo`; the caller keeps `n` within its field. -/
def put (n lo : Nat) : Word := BitVec.ofNat 64 (n <<< lo)

/-- The mask of the field [hi:lo]. -/
def mask (hi lo : Nat) : Word := put (2 ^ (hi + 1 - lo) - 1) lo

/-- The bits of `v` under `m`, the others of `old`. -/
def merge (old v m : Word) : Word := (old &&& ~~~m) ||| (v &&& m)

/-- The field [hi:lo] of `w` replaced by `n`. -/
def setFld (w : Word) (hi lo n : Nat) : Word := merge w (put (n % 2 ^ (hi + 1 - lo)) lo) (mask hi lo)

/-- Little-endian bytes as a number. -/
def leNat : List Byte → Nat
  | [] => 0
  | b :: r => b.toNat + 256 * leNat r

/-- A number as `n` little-endian bytes. -/
def leBytes : Nat → Nat → List Byte
  | 0, _ => []
  | n + 1, v => BitVec.ofNat 8 v :: leBytes n (v / 256)

/-- A word's eight bytes. -/
def wordBytes (w : Word) : List Byte := leBytes 8 w.toNat

/-- Eight bytes as a word. -/
def bytesWord (l : List Byte) : Word := BitVec.ofNat 64 (leNat l)

/-- Bytes as little-endian words. -/
def bytesWords (l : List Byte) : List Word := (chunks 8 l.length l).map bytesWord

/-- Sign extension of the low `n` bits of `v` to a word. -/
def sext (n : Nat) (v : Nat) : Word :=
  let v := v % 2 ^ n
  BitVec.ofNat 64 (if v ≥ 2 ^ (n - 1) then v + (2 ^ 64 - 2 ^ n) else v)

/-- A two's complement number of `n` bits as an integer. -/
def sint (n : Nat) (v : Nat) : Int :=
  let v := v % 2 ^ n
  if v ≥ 2 ^ (n - 1) then (v : Int) - 2 ^ n else v

/-! ## Instruction words (R46), for TVAL and the log -/

def wordR (op rd rs1 rs2 f : Nat) : Word :=
  BitVec.ofNat 64 (op * 2 ^ 26 + rd * 2 ^ 20 + rs1 * 2 ^ 14 + rs2 * 2 ^ 8 + f)

/-- Formats I, S and B: the three upper fields and the 14-bit field. -/
def wordI (op a b imm : Nat) : Word := BitVec.ofNat 64 (op * 2 ^ 26 + a * 2 ^ 20 + b * 2 ^ 14 + imm)

def wordJ (op rd off : Nat) : Word := BitVec.ofNat 64 (op * 2 ^ 26 + rd * 2 ^ 20 + off)

/-- Format X: the first word, which carries the opcode, stands for the pair (DEDUCED, log 15). -/
def wordX (rd rs1 xop : Nat) (imm : BitVec 40) : Word := wordR 0x3F rd rs1 xop (imm.toNat / 2 ^ 32)

/-- Sign-extended immediates (R47). -/
def imm14 (i : BitVec 14) : Word := sext 14 i.toNat
def imm40 (i : BitVec 40) : Word := sext 40 i.toNat

/-! ## The descriptor header (R83) -/

def hdrLen (w : Word) : Nat := fld w 4 0
def hdrWT (w : Word) : Bool := bitAt w 8
def hdrSG (w : Word) : Bool := bitAt w 9
def hdrORD (w : Word) : Bool := bitAt w 10
def hdrOp (w : Word) : Nat := fld w 23 16
def hdrSigCtr (w : Word) : Nat := fld w 47 32
def hdrWaitCtr (w : Word) : Nat := fld w 63 48

/-- The header word of a descriptor (word 0). -/
def hdr (e : Entry) : Word := e.words.headD 0

/-- Body word `i` (R83). -/
def bodyWord (e : Entry) (i : Nat) : Word :=
  e.words.getD (i + 1 + bit (hdrWT (hdr e))) 0

/-- The wait target (word 1). -/
def targetWord (e : Entry) : Word := e.words.getD 1 0

/-! ## Queue ids (R59, R79) -/

def qClass (q : Nat) : Nat := q / 4096 % 16
def qUnit (q : Nat) : Nat := q / 4 % 1024
def qSub (q : Nat) : Nat := q % 4
def mkQ (cls unit sub : Nat) : Nat := cls * 4096 + unit * 4 + sub

/-- Logical units in service of an engine class (R19, R59). -/
def unitCount : Nat → Nat
  | 0 => 16 | 1 => 32 | 2 => 64 | 3 => 16 | 4 => 8 | 5 => 4 | 6 => 4 | 7 => 4 | 8 => 512 | _ => 0

/-- Queues per unit (R79). -/
def queueCount : Nat → Nat
  | 0 => 4 | 1 => 4 | 2 => 4 | 3 => 4 | 4 => 2 | 5 => 2 | 6 => 4 | 7 => 4 | 8 => 1 | _ => 0

/-- Depth of a queue (R79). -/
def queueDepth : Nat → Nat
  | 0 => 32 | 1 => 128 | 2 => 256 | 3 => 64 | 4 => 64 | 5 => 32 | 6 => 128 | 7 => 256 | 8 => 16 | _ => 0

/-- Execution slots of a unit (R79). -/
def slotCount : Nat → Nat
  | 0 => 2 | 1 => 8 | 2 => 1024 | 3 => 4 | 4 => 4 | 5 => 2 | 6 => 16 | 7 => 64 | 8 => 1 | _ => 0

/-- Spares of a class (R19); the spare channels of the NBUs are counted apart. -/
def spareCount : Nat → Nat
  | 0 => 1 | 1 => 2 | 2 => 4 | _ => 0

/-- The queue id names a queue (R79). -/
def qExists (q : Nat) : Bool := qUnit q < unitCount (qClass q) && qSub q < queueCount (qClass q) && q < 65536

/-! ## Fields of registers that several rules read -/

def holdNs (s : State) : Nat := fld s.dir.ctl 47 32
def ageNs (s : State) : Nat := max 100 (fld s.dir.ctl 31 16)
def atomMode (s : State) : Nat := fld s.dir.ctl 1 0
def now (s : State) : Nat := s.tb.time.toNat

/-- The perturbation registers are unlocked: a token was accepted, and its duration has not passed (R483). -/
def unlocked (s : State) : Bool :=
  match s.tst.unlockEnd with
  | some t => decide (now s < t.toNat)
  | none => false

/-- Register `k` of a kind of perturbation as it acts: 0 once the duration has passed (R483). -/
def pert (s : State) (l : Tbl Word) (k : Nat) : Word := if unlocked s then tget l 0 k else 0

/-! ## Sticky bits -/

/-- Bit `i` set, once set it stays (R12). -/
def stick (w : Word) (i : Nat) : Word := w ||| put 1 i

/-- Bit `i` set if `b`. -/
def stickIf (w : Word) (i : Nat) (b : Bool) : Word := if b then stick w i else w

end Sys2Proof.Machine
end

