-- ==== Sys2Proof/Machine/Memory.lean ====
section
/-!
DEFINITION. The address map (R240, R241, R260), the bytes of T0 to T2, their codewords (R409), and the caches and the
directory in their plain form: what a line's copies hold and how they are recalled (R332 to R339).
-/
namespace Sys2Proof.Machine
open Sys2Proof

/-! ## The address map -/

/-- Where an address lies. -/
inductive Area where
  | t0 | csr | t1
  | t2 (ch : Nat)
  | t3 (p : HostPort) (seg : Nat)
  | hole
  deriving DecidableEq, Repr

def t0Size : Nat := 576 * 2 ^ 20
def csrBase : Nat := 0x100000000
def t1Base : Nat := 0x1000000000
def t2Base : Nat := 0x10000000000
def t3BaseA : Nat := 0x100000000000
def t3BaseB : Nat := 0x200000000000

/-- The region of an address (R240). -/
def area (a : Nat) : Area :=
  if a < t0Size then .t0
  else if a < csrBase then .hole
  else if a < 0x200000000 then .csr
  else if a < t1Base then .hole
  else if a < 0x2000000000 then .t1
  else if a < t2Base then .hole
  else if a < 0x30000000000 then .t2 ((a - t2Base) / 0x100000000)
  else if a < t3BaseA then .hole
  else if a < t3BaseB then .t3 .a ((a - t3BaseA) / 0x40000000)
  else if a < 0x300000000000 then .t3 .b ((a - t3BaseB) / 0x40000000)
  else .hole

def portNum : HostPort → Nat
  | .a => 0
  | .b => 1

/-- The key of a window segment in the window tables. -/
def segKey (p : HostPort) (seg : Nat) : Nat := portNum p * 16384 + seg

def segMapped (s : State) (p : HostPort) (seg : Nat) : Bool := tget s.tiers.windows false (segKey p seg)

/-- The windows of CSR space that R490 lists. -/
def csrListed (w : Nat) : Bool := w ≤ 0xC || w = 0x10 || (0x20 ≤ w && w ≤ 0x28)

/-- The address is mapped: inside a region, in a channel that is not retired, a listed window, a mapped segment. -/
def mapped (s : State) (a : Nat) : Bool :=
  match area a with
  | .t0 | .t1 => true
  | .t2 ch => ch ∉ s.mem.retiredCh
  | .csr => csrListed ((a - csrBase) / 65536)
  | .t3 p seg => segMapped s p seg
  | .hole => false

/-- The address lies in node memory T0, T1 or T2. -/
def inNode (a : Nat) : Bool :=
  match area a with
  | .t0 | .t1 | .t2 _ => true
  | _ => false

def inT0 (a : Nat) : Bool := area a = .t0

/-- Tier number of an address, where it has one. -/
def tierOf (a : Nat) : Option Nat :=
  match area a with
  | .t0 => some 0
  | .t1 => some 1
  | .t2 _ => some 2
  | .t3 _ _ => some 3
  | _ => none

/-- The layer of an address of T1 (R241). -/
def t1Layer (a : Nat) : Nat := (a - t1Base) / 4096 % 4

/-- `n` bytes from `a` lie within one tier (for T2 within T2 as a whole), in mapped space (R94 step 8). -/
def withinTier (s : State) (a n : Nat) : Bool :=
  n = 0 || (tierOf a != none && tierOf a = tierOf (a + n - 1) && a + n ≤ 2 ^ 56 &&
    (match area a, area (a + n - 1) with
     | .t2 c, .t2 d => (List.range (d - c + 1)).all (fun i => !(s.mem.retiredCh.contains (c + i)))
     | .t3 p x, .t3 q y => p = q && (List.range (y - x + 1)).all (fun i => segMapped s p (x + i))
     | _, _ => true))

/-! ## Code regions (R72, R450) -/

def stagingBase : Nat := 0x23000000

/-- The range of a region that holds a program or is reserved for one. -/
def inRegion (r : Region) (a : Nat) : Bool := r.units != 0 && r.base ≤ a && a < r.base + r.units * 65536

/-- The address lies in a range that no store may alter: a code region, or the staging area while STAGED is 1. -/
def protected_ (s : State) (a : Nat) : Bool :=
  s.sec.regions.any (fun e => inRegion e.2 a) || (s.boot.staged && stagingBase ≤ a && a < stagingBase + 2 ^ 24)

/-- The region a Sequencer may fetch from at `a`, if any. -/
def fetchRegion (s : State) (a : Nat) : Option Nat :=
  match s.sec.regions.find? (fun e => e.2.valid && inRegion e.2 a) with
  | some e => some e.1
  | none => none

/-! ## Bytes -/

/-- The byte at an address of node memory; an address not listed reads as zero (R446 step 5). -/
def cellGet : List Host.Cell → Nat → Byte
  | [], _ => 0
  | (b, v) :: r, a => if b = a then v else cellGet r a

/-- Inserts a byte that is not zero, in rising order of address. -/
def cellPut : List Host.Cell → Nat → Byte → List Host.Cell
  | [], a, v => [(a, v)]
  | (b, w) :: r, a, v =>
    if b = a then (a, v) :: r
    else if a < b then (a, v) :: (b, w) :: r
    else (b, w) :: cellPut r a v

/-- Writes one byte; writing zero removes the entry. -/
def cellSet (m : List Host.Cell) (a : Nat) (v : Byte) : List Host.Cell :=
  if v = 0 then m.filter (fun e => e.1 != a) else cellPut m a v

/-- Strictly rising addresses, no zero listed. -/
def cellsWf : List Host.Cell → Bool
  | [] => true
  | [(_, v)] => v != 0
  | (a, v) :: (b, w) :: r => v != 0 && decide (a < b) && cellsWf ((b, w) :: r)

/-- The canonical form of node memory. -/
abbrev Memory.wf (m : Memory) : Prop := cellsWf m.cells = true

def cellsGet (m : List Host.Cell) (a n : Nat) : List Byte := (List.range n).map (fun i => cellGet m (a + i))

def cellsSet : List Host.Cell → Nat → List Byte → List Host.Cell
  | m, _, [] => m
  | m, a, b :: r => cellsSet (cellSet m a b) (a + 1) r

/-- The bytes of node memory as its tier holds them. -/
def memGet (s : State) (a n : Nat) : List Byte := cellsGet s.mem.cells a n

def memSet (s : State) (a : Nat) (l : List Byte) : State :=
  { s with mem := { s.mem with cells := cellsSet s.mem.cells a l } }

/-! ## Codewords (R409) -/

/-- Bytes of a codeword at an address: 8 in T0, 32 in T1 and T2. -/
def cwSize (a : Nat) : Nat := if inT0 a then 8 else 32

/-- The first address of the codeword that holds `a`. -/
def cwBase (a : Nat) : Nat := a / cwSize a * cwSize a

/-- The codewords that `n` bytes from `a` touch, by first address. -/
def cwsOf (a n : Nat) : List Nat :=
  if n = 0 then [] else
    let z := cwSize a
    (List.range ((a + n - 1) / z - a / z + 1)).map (fun i => (a / z + i) * z)

/-- The codeword lies in a channel that was lost, and nothing has replaced it since (R461). -/
def cwLost (s : State) (c : Nat) : Bool :=
  match area c with
  | .t2 ch => s.mem.lostCh.contains ch && !(s.mem.rewritten.contains c)
  | _ => false

/-- The codeword is uncorrectable. -/
def cwBad (s : State) (c : Nat) : Bool := s.mem.ue.contains c || cwLost s c

/-- The first uncorrectable codeword that `n` bytes from `a` touch. -/
def ueIn (s : State) (a n : Nat) : Option Nat := (cwsOf a n).find? (cwBad s)

/-- The codewords that `n` bytes from `a` cover whole. -/
def cwsWhole (a n : Nat) : List Nat := (cwsOf a n).filter (fun c => a ≤ c && c + cwSize a ≤ a + n)

/-- The first uncorrectable codeword that a write of `n` bytes from `a` would have to read first. -/
def uePart (s : State) (a n : Nat) : Option Nat :=
  (cwsOf a n).find? (fun c => cwBad s c && !((cwsWhole a n).contains c))

/-- The tier takes the bytes; a codeword replaced whole loses its marks, one rewritten in part loses the corrected one. -/
def tierWrite (s : State) (a : Nat) (l : List Byte) : State :=
  let s := memSet s a l
  { s with mem := { s.mem with
      ue := s.mem.ue.filter (fun c => !((cwsWhole a l.length).contains c)),
      rewritten := s.mem.rewritten ++ (cwsWhole a l.length).filter (cwLost s),
      ce := s.mem.ce.filter (fun c => !((cwsOf a l.length).contains c)) } }

/-! ## Counting accesses (R425, R426, R488) -/

/-- A counter advances by `n`, modulo 2^64 (R35). -/
def ctrAdd (s : State) (k n : Nat) : State :=
  { s with ctrs := tmod s.ctrs 0 k (fun w => w + BitVec.ofNat 64 n) }

/-- A delta joins the tally cache, in the order in which deltas became nonzero (R428). -/
def tallyList : List (Nat × Nat) → Nat → Nat → List (Nat × Nat)
  | [], k, n => [(k, n)]
  | (j, d) :: r, k, n => if j = k then (j, d + n) :: r else (j, d) :: tallyList r k n

/-- `n` events of resource `res` counted for a tenant. -/
def tally (s : State) (tenant res n : Nat) : State :=
  if n = 0 then s else { s with feed := { s.feed with cache := tallyList s.feed.cache (tenant * 32 + res) n } }

/-- An access of `n` bytes to tier `t` for a tenant: its bytes are counted, and every 2^EVERY-th access is delayed under
TST_MEMLAT (R484). -/
def tierTouch (s : State) (tenant t n : Nat) : State :=
  let s := tally (ctrAdd s (0x9120 + t) n) tenant (0x10 + t) n
  let m := pert s s.tst.memlat t
  if fld m 19 0 = 0 then s
  else
    let c := tget s.tst.latCount 0 t + 1
    let s := { s with tst := { s.tst with latCount := tset s.tst.latCount t c } }
    if c % 2 ^ fld m 35 32 = 0 then ctrAdd s 0x9051 1 else s

/-! ## Lines, caches and the directory -/

/-- The home slice of a line (R334); a line number is an address divided by 64. -/
def homeSlice (line : Nat) : Nat := (List.range 10).foldl (fun x i => x ^^^ (line / 32 ^ i % 32)) 0

/-- Lines a caching agent holds at most (R332); 0 for the agents that hold none. -/
def cacheLines (g : Nat) : Nat := if g < 128 then 512 else if g < 144 then 4096 else 0

def cacheGet (s : State) (g line : Nat) : Option CLine := tfind (tget s.caches [] g) line

def cachePut (s : State) (g line : Nat) (c : CLine) : State :=
  { s with caches := tset s.caches g (tset (tget s.caches [] g) line c) }

/-- A copy leaves its cache, and the errors in it with it. -/
def cacheDrop (s : State) (g line : Nat) : State :=
  match cacheGet s g line with
  | none => s
  | some _ =>
    { s with
      caches := tset s.caches g (tdel (tget s.caches [] g) line),
      dir := { s.dir with bad := s.dir.bad.filter (fun e => !(e.1 = g && e.2 / 8 = line)) } }

/-- The units of 8 bytes of a copy that hold an uncorrectable error (R409). -/
def badUnits (s : State) (g line : Nat) : List Nat :=
  (s.dir.bad.filter (fun e => e.1 = g && e.2 / 8 = line)).map Prod.snd

def dirGet (s : State) (line : Nat) : Option DirEntry :=
  ((tget s.dir.slices [] (homeSlice line)).find? (fun e => e.1 = line)).map Prod.snd

def dirDel (s : State) (line : Nat) : State :=
  let k := homeSlice line
  { s with dir := { s.dir with
      slices := tset s.dir.slices k ((tget s.dir.slices [] k).filter (fun e => e.1 != line)) } }

/-- The codewords are uncorrectable from now on. -/
def spoilWords (s : State) (l : List Nat) : State := { s with mem := { s.mem with ue := l.foldl sadd s.mem.ue } }

/-- A dirty copy's data is written to the tier, counted for tenant 0 (log 20); a unit of it that is lost leaves its codeword
uncorrectable. -/
def backRaw (s : State) (g line : Nat) : State :=
  match cacheGet s g line with
  | some c =>
    if c.modified then
      spoilWords (tierWrite (tierTouch s 0 ((tierOf (line * 64)).getD 0) 64) (line * 64) c.data)
        ((badUnits s g line).flatMap (fun u => cwsOf (8 * u) 8))
    else s
  | none => s

/-- The byte an observer reads at an address of T0 to T2 that is not in a Sequencer's store buffer: the Modified copy's
where a cache holds one (R335), else the tier's. -/
def byteAt (s : State) (a : Nat) : Byte :=
  match dirGet s (a / 64) with
  | some (.owned o) =>
    match cacheGet s o (a / 64) with
    | some c => c.data.getD (a % 64) 0
    | none => cellGet s.mem.cells a
  | _ => cellGet s.mem.cells a

/-- `n` bytes from `a` as an observer reads them. -/
def seenGet (s : State) (a n : Nat) : List Byte := (List.range n).map (fun i => byteAt s (a + i))

/-! ## Holds (R346) -/

/-- `n` nanoseconds pass: the timebase advances where it is released, and the island's clock, which counts microseconds, while
the island is powered (chapter 19). -/
def passNs (s : State) (n : Nat) : State :=
  if n = 0 then s
  else
    let i := s.island
    { s with
      tb := if s.tb.released then { s.tb with time := s.tb.time + BitVec.ofNat 64 n } else s.tb,
      island := if i.up then
          { i with subNs := (i.subNs + n) % 1000, kept := { i.kept with clock := i.kept.clock + (i.subNs + n) / 1000 } }
        else i }

/-- What is left of the hold under which another cache keeps the line in M: nothing while an aged request waits for it. -/
def holdLeft (s : State) (g line : Nat) : Nat :=
  match dirGet s line with
  | some (.owned o) =>
    if o = g || s.dir.waiting.any (fun r => r.aged && r.line = line) then 0
    else match cacheGet s o line with
      | some c => c.holdEnd - now s
      | none => 0
  | _ => 0

/-- Another cache holds the line in M and its hold has not ended. -/
def heldByOther (s : State) (g line : Nat) : Bool := decide (0 < holdLeft s g line)

/-- An access that is part of a command waits for the end of the hold of another cache (log 34). -/
def waitHold (s : State) (g line : Nat) : State := passNs s (holdLeft s g line)

/-- Every copy of the line leaves the caches, a Modified one by `back` first (R336, R338, R339). -/
def recallBy (back : State → Nat → Nat → State) (s : State) (line : Nat) : State :=
  match dirGet s line with
  | none => s
  | some (.owned o) => cacheDrop (back s o line) o line
  | some (.shared l) => l.foldl (fun s g => cacheDrop s g line) s

/-- Sticky bit `i` of DIR_STATUS of a slice. -/
def dirFlag (s : State) (slice i : Nat) : State :=
  { s with dir := { s.dir with status := tmod s.dir.status 0 slice (fun w => w ||| put 1 i) } }

/-- Nothing waits for the line, and no cache keeps it under a hold. -/
def lineFree (s : State) (line : Nat) : Bool :=
  !(heldByOther s 160 line) && !(s.dir.waiting.any (fun r => r.line = line))

/-- A whole-line non-caching write to T0 that needs no check: the log writer's. -/
def lineWrite (s : State) (line : Nat) (l : List Byte) : State :=
  tierWrite (tierTouch (dirDel (recallBy backRaw s line) line) 0 ((tierOf (line * 64)).getD 0) 64) (line * 64) l

end Sys2Proof.Machine
end

