-- ==== Sys2Proof/Machine/Record.lean ====
section
/-!
DEFINITION. Free values, counters, interrupts, the Inclusion log (R411 to R414), what a tier's controller reads and corrects
(R409), and residue checking (R404 to R406).
-/
namespace Sys2Proof.Machine
open Sys2Proof

/-! ## Free values -/

/-- The choice counter moves on, so that the next free value is a fresh one. -/
def tick1 (s : State) : State := { s with choice := s.choice + 1 }

/-- `n` free bytes of the current choice. -/
def freeBytes (s : State) (n : Nat) : List Byte := (List.range n).map (Config.freeByte s.choice)

/-- The result bytes `l` of a query of stamp `stamp`: undefined where GWE_HORIZON lies above the stamp (R199). -/
def stamped (s : State) (stamp : Nat) (l : List Byte) : List Byte :=
  if stamp < s.cu.horizon.toNat then freeBytes s l.length else l

def emit (s : State) (o : Output) : State := { s with out := s.out ++ [o] }

/-! ## Event counters (R35, R63, R85, R488) -/

/-- The node counters that R488 lists, with the extent each chapter gives its range. -/
def nodeCtr (k : Nat) : Bool :=
  (0x9010 ≤ k && k ≤ 0x9011) || (0x9020 ≤ k && k ≤ 0x9025) || k = 0x9030 || k = 0x9040 || (0x9050 ≤ k && k ≤ 0x9052)
  || (0x9100 ≤ k && k ≤ 0x9108) || (0x9110 ≤ k && k ≤ 0x9118) || (0x9120 ≤ k && k ≤ 0x9123)
  || (0x9128 ≤ k && k ≤ 0x912B) || (0x9200 ≤ k && k ≤ 0x92FF) || (0x9300 ≤ k && k ≤ 0x9301)
  || (0x9400 ≤ k && k ≤ 0x97FF) || (0x9800 ≤ k && k ≤ 0x98CF)

def softCtr (k : Nat) : Bool := 0xFF00 ≤ k && k ≤ 0xFFFF

/-- The number names a counter (R63, R85). -/
def ctrExists (k : Nat) : Bool := (k < 0x9000 && qExists k) || nodeCtr k || softCtr k

/-- A counter's value: a queue's retire counter, the log's last SEQ, or the bank. -/
def ctrGet (s : State) (k : Nat) : Word :=
  if k < 0x9000 then (tget s.queues {} k).retired
  else if k = 0x9020 then BitVec.ofNat 64 s.err.written
  else tget s.ctrs 0 k

/-- A value satisfies a target (R65). -/
def satisfies (c t : Word) : Bool := decide ((c - t).toNat < 2 ^ 63)

/-! ## Interrupts (R362, R371, R495) -/

/-- The port does not reach its host: it was lost, or its link is not up (R372, R375). -/
def hostLost (s : State) (p : HostPort) : Bool :=
  (tget s.host {} (portNum p)).lost || !(tget s.host {} (portNum p)).linkUp

/-- The number of a function's vector in the port's MSI-X tables. -/
def msixKey (fn vec : Nat) : Nat := fn * 64 + vec

/-- Function `fn` (0 the PF with 64 vectors, 1 to 32 a VF with 16) of a port has vector `vec` and may receive it (R361, R362). -/
def vecOk (s : State) (p : HostPort) (fn vec : Nat) : Bool :=
  (fn = 0 && vec < 64) || (fn != 0 && fn ≤ 32 && vec < 16 && bitAt (tget (tget s.host {} (portNum p)).vf 0 (fn - 1)) 12)

/-- A vector is raised: its message leaves, or its pending bit is set while the host masks it (R495, log 63). Nothing leaves a
port that does not reach its host. -/
def raiseIrq (s : State) (p : HostPort) (fn vec : Nat) : State :=
  if hostLost s p || !(vecOk s p fn vec) then s
  else if (tget (tget s.host {} (portNum p)).msix {} (msixKey fn vec)).masked then
    { s with host := tmod s.host {} (portNum p) (fun h => { h with pba := sadd h.pba (msixKey fn vec) }) }
  else emit s (.msix p fn vec)

/-! ## The Inclusion log (R411 to R414) -/

/-- Who makes an access or does an operation, as its records and its coherent requests name it. -/
structure Who where
  cls : Nat
  unit : Nat
  op : Nat := 0
  tenant : Nat := 0
  agent : Nat := 160
  deriving DecidableEq, Repr

/-- SEV of a kind of record (R411). -/
def kindSev : Nat → Nat
  | 0x01 => 1 | 0x02 => 3 | 0x03 => 1 | 0x04 => 3 | 0x05 => 2 | 0x06 => 2 | 0x07 => 2 | 0x08 => 2
  | 0x09 => 3 | 0x0A => 3 | 0x0B => 2 | 0x0C => 2 | 0x0D => 2 | 0x0E => 0 | _ => 2

/-- Bit of ERR_STATUS that a kind of record sets (R424), if any; RETIRED is set under R417 alone. -/
def kindFlag : Nat → Option Nat
  | 0x01 => some 1 | 0x02 => some 2 | 0x03 => some 3 | 0x04 => some 4 | 0x05 => some 4 | 0x09 => some 4
  | 0x06 => some 5 | 0x0B => some 6 | 0x0D => some 8 | _ => none

/-- Node counter that counts a kind of event (R413), if any. -/
def kindCtr : Nat → Option Nat
  | 0x01 => some 0x9022 | 0x02 => some 0x9023 | 0x03 => some 0x9024 | 0x04 => some 0x9025 | _ => none

def errFlag (s : State) (i : Nat) : State := { s with err := { s.err with sticky := s.err.sticky ||| put 1 i } }

def logOn (s : State) : Bool := s.err.base != 0

/-- The 64 bytes of a record. -/
def recBytes (r : LogRec) : List Byte :=
  wordBytes (put (r.seq % 2 ^ 48) 16 ||| put r.kind 8 ||| put r.sev 6) ++ wordBytes r.time ++ wordBytes r.where_
    ++ wordBytes (merge r.cond (put (r.count % 2 ^ 32) 0) (mask 31 0))
    ++ wordBytes r.addr ++ wordBytes r.syndrome ++ wordBytes r.detail ++ wordBytes 0

/-- The line of the ring that holds a record: slot SEQ mod 4,096. -/
def recLine (s : State) (seq : Nat) : Nat := (s.err.base.toNat + seq % 4096 * 64) / 64

/-- The rail controller's readings, in their places in word 3 of a record. -/
def railCond (s : State) : Word := put s.rail.tjQc.toNat 48 ||| put s.rail.railMv.toNat 38

/-- The log writer writes one record, with the rail's readings of that moment, into the ring and the register copies; counter
0x9020 passes it, and the interrupt of R414 is raised. -/
def recWrite (s : State) (r : LogRec) : State :=
  let r := { r with cond := railCond s, wrote := s.tb.time }
  let s := lineWrite s (recLine s r.seq) (recBytes r)
  let s := { s with err := { s.err with
      recs := (r :: s.err.recs).take 4096, written := r.seq, writerAt := s.tb.time + 1000 } }
  let sev := fld s.err.ctl 7 6
  if sev != 0 && r.sev ≥ sev then raiseIrq s (if bitAt s.err.ctl 9 then .b else .a) 0 1 else s

/-- The log writer is free: a microsecond has passed since its last record, or the timebase has stepped back over it. -/
def writerFree (s : State) : Bool := s.err.writerAt.toNat ≤ now s || decide (now s + 1000 < s.err.writerAt.toNat)

/-- The log writer takes the next waiting record. -/
def writeNext (s : State) : State :=
  match s.err.queue with
  | [] => s
  | r :: rest => recWrite { s with err := { s.err with queue := rest } } r

/-- The next waiting record is written once the writer is free and its line of the ring is (R337, log 17). -/
def logPump (s : State) : State :=
  match s.err.queue with
  | [] => s
  | r :: _ => if writerFree s && logOn s && lineFree s (recLine s r.seq) then writeNext s else s

/-- A record whose COUNT has risen is written into the ring again, its line of the ring being free (R337, R412). -/
def logAgain (s : State) : State :=
  match s.err.stale.find? (fun k => lineFree s (recLine s k)) with
  | none => s
  | some k =>
    let s := { s with err := { s.err with stale := sdel s.err.stale k } }
    match s.err.recs.find? (fun r => r.seq = k) with
    | some r => lineWrite s (recLine s k) (recBytes r)
    | none => s

/-- A record that merges with a new event of kind MEM_CE or RESIDUE: written within COAL_MS, still in the ring (R412). -/
def mergeable (s : State) (r : LogRec) : Option LogRec :=
  if r.kind = 1 || r.kind = 3 then
    s.err.recs.find? (fun q => q.kind = r.kind && q.where_.toNat / 2 ^ 48 = r.where_.toNat / 2 ^ 48 && q.addr = r.addr
      && decide (now s ≤ q.wrote.toNat + fld s.err.ctl 63 48 * 1000000)
      && decide (s.err.ringFrom ≤ q.seq) && decide (s.err.written < q.seq + 4096))
  else none

/-- The unit that raised a record of SEV 3 waits for a place in the log writer's 256: the time until the writer takes its next
record passes, with what is left of a hold on the line of the ring (R412, log 17). -/
def logRoom (s : State) : State :=
  match s.err.queue with
  | [] => s
  | r :: _ =>
    if s.err.queue.length < 256 then s
    else writeNext (waitHold (if writerFree s then s else passNs s (s.err.writerAt.toNat - now s)) 160 (recLine s r.seq))

/-- A new record joins the log writer's queue, or is dropped and counted (R412). -/
def recQueue (s : State) (r : LogRec) : State :=
  let n := s.err.queue.length
  if r.sev = 3 || n < 224 then
    let s := logRoom s
    { s with err := { s.err with
        queue := s.err.queue ++ [{ r with seq := s.err.written + s.err.queue.length + 1 }] } }
  else errFlag (ctrAdd { s with err := { s.err with lost := s.err.lost + 1 } } 0x9021 1) 9

/-- A fault or event of a kind is counted, and leaves its status bit (STALL's with its record alone, R424). -/
def noteKind (s : State) (kind : Nat) : State :=
  let s := match kindCtr kind with | some k => ctrAdd s k 1 | none => s
  match kindFlag kind with
  | some i => if kind = 6 && (!(logOn s) || decide (224 ≤ s.err.queue.length)) then s else errFlag s i
  | none => s

/-- A fault or event becomes a record (R411): its counter and status bit always, its record while the log is on. -/
def logRec (s : State) (w : Who) (kind : Nat) (addr syn detail : Word) : State :=
  let s := noteKind s kind
  if logOn s then
    let r : LogRec := {
      seq := 0, kind := kind, sev := kindSev kind, time := s.tb.time,
      where_ := put w.cls 60 ||| put (w.unit % 4096) 48 ||| put (w.op % 65536) 32 ||| put (w.tenant % 4096) 20,
      cond := railCond s, count := 1,
      addr := addr, syndrome := syn, detail := detail }
    match mergeable s r with
    | some q =>
      { s with err := { s.err with
          recs := s.err.recs.map (fun x => if x.seq = q.seq then { q with count := q.count + 1 } else x),
          stale := sadd s.err.stale q.seq } }
    | none => recQueue s r
  else s

/-! ## Checked accesses to the tiers -/

/-- What a read answers: whether it succeeded, its bytes, the state after it. -/
structure Rd where
  ok : Bool
  data : List Byte
  s : State

/-- A codeword error becomes a record; its code syndrome is a free value. -/
def memErr (s : State) (w : Who) (kind cw det : Nat) : State :=
  logRec (tick1 s) w kind (BitVec.ofNat 64 cw) (Config.syndrome s.choice) (BitVec.ofNat 64 det)

/-- Corrected codewords in a read: each gives a MEM_CE record; the controllers of T1 and T2 write it back corrected, a write
that counts for tenant 0 (R426, R488). -/
def correct (s : State) (w : Who) (det : Nat) (back : Bool) (cws : List Nat) : State :=
  cws.foldl (fun s c =>
    if s.mem.ce.contains c then
      let s := if back then
          tierTouch { s with mem := { s.mem with ce := sdel s.mem.ce c } } 0 ((tierOf c).getD 0) (cwSize c)
        else s
      memErr s w 3 c det
    else s) s

/-- A tier's controller reads `n` bytes at `a` (R409). -/
def ctlRead (s : State) (w : Who) (a n : Nat) : Rd :=
  let s := tierTouch s w.tenant ((tierOf a).getD 0) n
  match ueIn s a n with
  | some c => ⟨false, [], memErr s w 4 c 0⟩
  | none => ⟨true, memGet s a n, correct s w 0 (!(inT0 a)) (cwsOf a n)⟩

/-! ## Residue checking (R404 to R406) -/

/-- A mismatch's records; the answer says whether the operation goes on. -/
def residue (s : State) (w : Who) (addr detail : Word) (r : Residue) : Bool × State :=
  match r with
  | .ok => (true, s)
  | .first y => (true, logRec s w 1 addr (y.setWidth 64) detail)
  | .second y z => (false, logRec (logRec s w 1 addr (y.setWidth 64) detail) w 2 addr (z.setWidth 64) detail)

/-- The outcomes of a run of operations, each judged on its own (R406): the records of every mismatch, up to the first
operation whose repeat mismatched too. -/
def residues (s : State) (w : Who) (addr detail : Word) : List Residue → Bool × State
  | [] => (true, s)
  | r :: rest =>
    let z := residue s w addr detail r
    if z.1 then residues z.2 w addr detail rest else z

/-- Some operation mismatched. -/
def mismatch (l : List Residue) : Bool := l.any (fun r => r != .ok)

end Sys2Proof.Machine
end

