-- ==== Sys2Proof/Machine/ChanQueue.lean ====
section
/-!
DEFINITION. Every ordinary access to a T2 channel goes through the channel's queue (R264): the queue, the writes of a
near-bank unit to its banks, and an access of T0 to T2 by the tier's controller.
-/
namespace Sys2Proof.Machine
open Sys2Proof

def chanOf (s : State) (ch : Nat) : Chan := tget s.chans {} ch

def updChan (s : State) (ch : Nat) (f : Chan → Chan) : State := { s with chans := tmod s.chans {} ch f }

/-- A dispatched descriptor of an NBU needs the banks: LOADX never does (R265), nor a SCAN of no rows (R95). -/
def usesBanks (e : Entry) : Bool := hdrOp (hdr e) != 1 && !(hdrOp (hdr e) = 4 && fld (bodyWord e 0) 31 0 = 0)

/-- The channel's NBU has a descriptor waiting for the banks: dispatched and not begun, or with work left (R265). -/
def nbuWaiting (s : State) (ch : Nat) : Bool :=
  (chanOf s ch).more || (tget s.queues {} (mkQ 8 ch 0)).entries.any (fun e =>
    match e.st with
    | .running _ => usesBanks e
    | _ => false)

/-! ## Footprints (R282) -/

/-- Two extents share a byte. -/
def overlaps (a n b m : Nat) : Bool := n != 0 && m != 0 && a < b + m && b < a + n

/-- A write of `n` bytes at `a` meets the footprint of a descriptor; a commit unit's write of a scanned Sprue entry is the
exception that R211 makes (log 40). -/
def inFoot (w : Who) (f : Foot) (a n : Nat) : Bool :=
  overlaps f.outAt f.outSize a n
    || (!(w.agent = 151 && f.op = 4) && f.reads.any (fun e => overlaps e.1 e.2 a n))

/-- A write by an observer into the footprint of a dispatched NBU descriptor leaves the written bytes undefined (R282). -/
def footBytes (s : State) (w : Who) (a : Nat) (l : List Byte) : List Byte × State :=
  if !(s.foot.any (fun f => inFoot w f a l.length)) then (l, s)
  else
    ((List.range l.length).map (fun k =>
        if s.foot.any (fun f => inFoot w f (a + k) 1) then Config.freeByte s.choice k else l.getD k 0),
      tick1 { s with foot := s.foot.map (fun f => { f with dirty := f.dirty || inFoot w f a l.length }) })

/-! ## The banks (R269, R284) -/

/-- The address of channel offset `o` (R271). -/
def chanAddr (u o : Nat) : Nat := t2Base + u * 2 ^ 32 + o

def nbuFlag (s : State) (u i : Nat) : State :=
  { s with nbus := tmod s.nbus {} u (fun x => { x with status := stick x.status i }) }

/-- The codewords that `n` bytes from `a` cover only in part: they are read first (R409). -/
def cwsPart (a n : Nat) : List Nat := (cwsOf a n).filter (fun c => !((cwsWhole a n).contains c))

/-- The NBU writes at a channel offset, to the banks alone; a codeword written in part is read first. -/
def bankWrite (s : State) (w : Who) (o : Nat) (l : List Byte) : Bool × State :=
  let a := chanAddr w.unit o
  let n := l.length
  match uePart s a n with
  | some c => (false, memErr s w 4 c 2)
  | none =>
    let s := if (cwsPart a n).any (fun c => s.mem.ce.contains c) then nbuFlag s w.unit 5 else s
    (true, tierWrite (tierTouch (correct s w 2 false (cwsPart a n)) w.tenant 2 n) a l)

def footWho (f : Foot) : Who := { cls := 8, unit := qUnit f.q, op := f.op, tenant := f.tenant, agent := 150 }

/-- Changes the footprint of a descriptor. -/
def updFoot (s : State) (q : Nat) (i : Word) (f : Foot → Foot) : State :=
  { s with foot := s.foot.map (fun x => if x.q = q && x.i = i then f x else x) }

/-- A broadcast command writes the units of OUT that `pick` chooses; the others wait for a later command (R267, R269). -/
def writePend (s : State) (f : Foot) (pick : Nat → Bool) : State :=
  let s := updFoot s f.q f.i (fun x => { x with pend := x.pend.filter (fun e => !(pick e.1)) })
  (f.pend.filter (fun e => pick e.1)).foldl (fun s e =>
    let p := bankWrite s (footWho f) e.1 e.2
    if p.1 then p.2 else updFoot p.2 f.q f.i (fun x => { x with failed := true })) s

/-- The broadcast command of a channel's NBU ends, with work left for a later one or without: then every unit is written. -/
def bcastEnd (s : State) (ch : Nat) (more : Bool) : State :=
  let c0 := s.choice
  let s := (s.foot.filter (fun f => f.q = mkQ 8 ch 0)).foldl (fun s f =>
    writePend s f (fun o => !more || Config.pick c0 (1 + o) % 2 = 1)) (tick1 s)
  updChan s ch (fun c => { c with bcast := none, more := more })

/-! ## Serving requests -/

/-- Requests that a channel queue holds at most, under TST_CLAMP (R264, R485). -/
def chanDepth (s : State) : Nat :=
  let c := fld (pert s s.tst.clamp 1) 15 0
  if c = 0 then 256 else min 256 c

def chanWho (r : ChanReq) : Who := { cls := 0xB, unit := 0, agent := r.agent }

/-- The tier's controller writes; a codeword written in part is read first, and corrected where it can be (R409). -/
def ctlWrite (s : State) (w : Who) (a : Nat) (l : List Byte) : Bool × State :=
  match uePart s a l.length with
  | some c => (false, memErr s w 4 c 0)
  | none =>
    (true, tierWrite (tierTouch (correct s w 0 true (cwsPart a l.length)) w.tenant ((tierOf a).getD 0) l.length) a l)

/-- The channel serves one request: its HBM controller reads or writes the bytes. -/
def chanServe (s : State) (ch : Nat) (r : ChanReq) : State :=
  match r.data with
  | none =>
    let x := ctlRead s (chanWho r) r.addr r.size
    emit x.s (.chanDone ch r x.ok x.data)
  | some l =>
    let f := footBytes s (chanWho r) r.addr l
    let x := ctlWrite f.2 (chanWho r) r.addr f.1
    emit x.2 (.chanDone ch r x.1 [])

/-- Requests held upstream enter the queue as far as it has room. -/
def chanFill (s : State) (ch : Nat) : State :=
  updChan s ch (fun c =>
    let k := chanDepth s - c.queue.length
    { c with queue := c.queue ++ (c.upstream.take k).map (fun e => (e.1, s.tb.time)), upstream := c.upstream.drop k })

/-- A clamp of the channel queues has changed (R485): what it held upstream goes on where there is room now. -/
def chansFill (s : State) : State := (s.chans.map Prod.fst).foldl chanFill s

/-- The oldest request leaves the queue, served, its wait noted; a request held upstream takes its place. -/
def chanServeOne (s : State) (ch : Nat) : State :=
  match (chanOf s ch).queue with
  | [] => s
  | (r, t) :: rest =>
    let us := (s.tb.time - t).toNat / 1000
    chanServe (chanFill (updChan s ch (fun c => { c with queue := rest, maxWait := max c.maxWait (min us 0xFFFF) })) ch) ch r

def chanServeN : Nat → State → Nat → State
  | 0, s, _ => s
  | k + 1, s, ch => chanServeN k (chanServeOne s ch) ch

/-! ## Accesses that are part of another command -/

/-- The channel is in memory mode and nothing waits for it: an access is served as it comes. -/
def chanFree (c : Chan) : Bool := c.mode = .mem && c.queue.isEmpty && c.upstream.isEmpty

/-- The broadcast command that runs ends, with work left or without, which is free; on the way to processor mode that is the
command which the work left over asks for. On the way back it has ended already. -/
def bcastStop (s : State) (ch : Nat) : State :=
  let c := chanOf s ch
  if (c.mode = .proc && c.bcast != none) || (c.mode = .toProc && c.more) then
    bcastEnd s ch (Config.pick s.choice 0 % 2 = 1)
  else tick1 s

/-- The channel comes to memory mode by the transitions of R265 and opens a window: TO_PROC to PROC, PROC to TO_MEM, the NBU
idle or its broadcast command ended, TO_MEM to MEM. A descriptor of the NBU whose command has not come has not begun (log 33).
How long that took is free. -/
def chanToMem (s : State) (ch : Nat) : State :=
  let us := Config.pick s.choice 1 % 23
  let s := bcastStop s ch
  updChan s ch (fun c => { c with
    mode := .mem, windowStart := some s.tb.time, winSlice := c.slice, maxWait := max c.maxWait us,
    nbuWait := if nbuWaiting s ch then some s.tb.time else none })

/-- An ordinary access that is part of another command comes to a channel (R24, R264, R265). It enters behind the requests
that wait; the channel comes to memory mode by the transitions of R265, a broadcast command that runs ending first; the
requests before it are served, then it is. The command completes with the access, so that the time it waited is not shown:
MAXWAIT_US takes a free value within the bound of R268 (DESIGN CHOICE, log 33). -/
def chanTurn (s : State) (ch : Nat) : State :=
  let c := chanOf s ch
  if chanFree c then s
  else
    let full := c.queue.length ≥ chanDepth s || !c.upstream.isEmpty
    let s := updChan s ch (fun c => { c with held := c.held || full })
    let s := if c.mode = .mem then s else chanToMem s ch
    chanServeN (c.queue.length + c.upstream.length) s ch

/-- The channel of an address, where it lies in T2, comes to memory mode and to its turn. -/
def chanOpen (s : State) (a : Nat) : State :=
  match area a with
  | .t2 ch => chanTurn s ch
  | _ => s

/-- A read of `n` bytes at `a` from its tier. -/
def tierRead (s : State) (w : Who) (a n : Nat) : Rd := ctlRead (chanOpen s a) w a n

/-- A write at `a` to its tier. -/
def tierPut (s : State) (w : Who) (a : Nat) (l : List Byte) : Bool × State := ctlWrite (chanOpen s a) w a l

end Sys2Proof.Machine
end

