-- ==== Sys2Proof/Machine/Lines.lean ====
section
/-!
DEFINITION. Coherent accesses (R333 to R339), the requests that wait at a home slice (R337, R345 to R347), and the
read-modify-write of an atomic near and far (R56, R341, R344).
-/
namespace Sys2Proof.Machine
open Sys2Proof

/-! ## Copies that go -/

/-- Who a caching agent is, for a record. -/
def cacheWho (g : Nat) : Who := if g < 128 then { cls := 9, unit := g / 2 } else { cls := 0xF, unit := 0 }

/-- A Modified copy is written back to the banks; the units of it that are lost are recorded (R409, R411). -/
def backNoted (s : State) (g line : Nat) : State :=
  backRaw ((badUnits s g line).foldl (fun s u => memErr s (cacheWho g) 4 (8 * u) 0) s) g line

/-- A Modified copy some of whose units are lost leaves its cache by a write-back, which leaves their codewords uncorrectable:
so the request that asks for the line meets them (R409). -/
def shed (s : State) (line : Nat) : State :=
  match dirGet s line with
  | some (.owned o) =>
    if (badUnits s o line).isEmpty then s else dirDel (cacheDrop (backNoted (chanOpen s (line * 64)) o line) o line) line
  | _ => s

/-- A dirty copy's data goes back to the tier. -/
def writeBack (s : State) (g line : Nat) : State :=
  match cacheGet s g line with
  | some c => if c.modified then backNoted (chanOpen s (line * 64)) g line else s
  | none => s

/-- Every copy of the line leaves the caches, a Modified one written back first. -/
def recallLine (s : State) (line : Nat) : State := recallBy writeBack s line

/-- Room for a new entry: the least recently used entry of a full set is back-invalidated, once a hold on it has ended (R338,
R346). -/
def dirRoom (s : State) (line : Nat) : State :=
  let k := homeSlice line
  let set := (tget s.dir.slices [] k).filter (fun e => Config.dirSet e.1 % 512 = Config.dirSet line % 512)
  if set.length < 16 then s
  else match set.getLast? with
    | none => s
    | some e => dirFlag (dirDel (recallLine (waitHold s 160 e.1) e.1) e.1) k 1

/-- The entry becomes the most recently used of its slice. -/
def dirPut (s : State) (line : Nat) (e : DirEntry) : State :=
  let k := homeSlice line
  let s := match dirGet s line with
    | some _ => dirDel s line
    | none => dirRoom s line
  { s with dir := { s.dir with slices := tset s.dir.slices k ((line, e) :: tget s.dir.slices [] k) } }

/-- A full cache gives up one line, Modified lines by PutM (log 11). -/
def cacheRoom (s : State) (g : Nat) : State :=
  let held := tget s.caches [] g
  if held.length < cacheLines g then s
  else match held[Config.victim s.choice % held.length]? with
    | none => s
    | some (line, v) =>
      let s := tick1 s
      if v.modified then cacheDrop (dirDel (writeBack s g line) line) g line else cacheDrop s g line

def install (s : State) (g line : Nat) (m : Bool) (d : List Byte) (hold : Nat) : State :=
  let s := match cacheGet s g line with | some _ => s | none => cacheRoom s g
  cachePut s g line ⟨m, d, hold⟩

/-! ## The rows of R336 -/

/-- Requests that have aged for a line make its hold 0 (R346). -/
def holdEndFor (s : State) (line : Nat) : Nat :=
  if s.dir.waiting.any (fun r => r.aged && r.line = line) then now s else now s + holdNs s

/-- A hit on a copy: it fails where one of the `n` bytes at `a` that it reads is lost (R409). -/
def hit (s : State) (w : Who) (a n : Nat) (c : CLine) : Rd :=
  match (badUnits s w.agent (a / 64)).find? (fun u => overlaps (8 * u) 8 a n) with
  | some u => ⟨false, [], memErr s w 4 (8 * u) 0⟩
  | none => ⟨true, c.data, s⟩

/-- GetS takes effect at the home: the 64 bytes of the line. -/
def homeGetS (s : State) (w : Who) (line : Nat) : Rd :=
  let s := shed s line
  match dirGet s line with
  | some (.owned o) =>
    match cacheGet s o line with
    | some c =>
      let s := cachePut (writeBack s o line) o line ⟨false, c.data, 0⟩
      ⟨true, c.data, install (dirPut s line (.shared [o, w.agent])) w.agent line false c.data 0⟩
    | none =>
      let r := tierRead s w (line * 64) 64
      if r.ok then ⟨true, r.data, install (dirPut r.s line (.shared [w.agent])) w.agent line false r.data 0⟩ else r
  | e =>
    let r := tierRead s w (line * 64) 64
    if r.ok then
      let l := match e with | some (.shared l) => l | _ => []
      ⟨true, r.data, install (dirPut r.s line (.shared (sadd l w.agent))) w.agent line false r.data 0⟩
    else r

/-- A line's other sharers, or its owner, lose their copies and the agent holds it Modified with data `d`. -/
def takeM (s : State) (w : Who) (line : Nat) (d : List Byte) : State :=
  let others := match dirGet s line with
    | some (.shared l) => sdel l w.agent
    | some (.owned o) => sdel [o] w.agent
    | none => []
  let s := others.foldl (fun s g => cacheDrop s g line) s
  install (dirPut s line (.owned w.agent)) w.agent line true d (holdEndFor s line)

/-- GetM takes effect at the home, for `n` bytes at `a` that the agent reads: the data from its own copy where it shares the
line, from the owner, or from the tier. -/
def homeGetM (s : State) (w : Who) (a n : Nat) : Rd :=
  let line := a / 64
  let s := shed s line
  let from_ : Rd :=
    match cacheGet s w.agent line with
    | some c => hit s w a n c
    | none =>
      match (match dirGet s line with | some (.owned o) => cacheGet s o line | _ => none) with
      | some c => ⟨true, c.data, s⟩
      | none => tierRead s w (line * 64) 64
  if from_.ok then ⟨true, from_.data, takeM from_.s w line from_.data⟩ else from_

/-- A non-caching read of `n` bytes within one line takes effect at the home. -/
def homeRead (s : State) (w : Who) (a n : Nat) : Rd :=
  let line := a / 64
  let s := shed s line
  let s := match dirGet s line with
    | some (.owned o) =>
      match cacheGet s o line with
      | some c => dirPut (cachePut (writeBack s o line) o line ⟨false, c.data, 0⟩) line (.shared [o])
      | none => s
    | _ => s
  tierRead s w a n

/-- A non-caching write within one line takes effect: every copy invalidated first; a codeword written in part must be
readable. -/
def homeWrite (s : State) (w : Who) (a : Nat) (l : List Byte) : Bool × State :=
  tierPut (dirDel (recallLine s (a / 64)) (a / 64)) w a l

/-! ## Atomics -/

/-- The new memory value of R56, on `n` bits. -/
def amoNew (op : AmoOp) (n old src cmp : Nat) : Nat :=
  let m := fun (x : Nat) => x % 2 ^ n
  let old := m old
  let src := m src
  match op with
  | .swap => src
  | .add => m (old + src)
  | .and => old &&& src
  | .or => old ||| src
  | .xor => old ^^^ src
  | .min => if sint n src < sint n old then src else old
  | .max => if sint n old < sint n src then src else old
  | .minu => min old src
  | .maxu => max old src
  | .cas => if old = m cmp then src else old

/-- Bytes of an atomic. -/
def amoSize (dbl : Bool) : Nat := if dbl then 8 else 4

/-- The old value as rd receives it. -/
def amoOld (dbl : Bool) (l : List Byte) : Word := if dbl then bytesWord l else sext 32 (leNat l)

def amoBytes (op : AmoOp) (dbl : Bool) (l : List Byte) (src cmp : Word) : List Byte :=
  leBytes (amoSize dbl) (amoNew op (8 * amoSize dbl) (leNat l) src.toNat cmp.toNat)

/-- The compare of a CAS failed: it writes nothing (R57). -/
def casFails (op : AmoOp) (dbl : Bool) (l : List Byte) (cmp : Word) : Bool :=
  op = .cas && leNat l != cmp.toNat % 2 ^ (8 * amoSize dbl)

/-- How an atomic ended. -/
inductive AtomEnd where
  | done (old : Word)
  | memerr
  | arith
  deriving DecidableEq, Repr

/-- Replaces the bytes of `d` from `o` on by `l`. -/
def splice (d : List Byte) (o : Nat) (l : List Byte) : List Byte := d.take o ++ l ++ d.drop (o + l.length)

/-- The read-modify-write at the home slice; a second mismatch leaves memory unchanged (R344). -/
def nearDo (s : State) (w : Who) (a : Nat) (op : AmoOp) (dbl : Bool) (src cmp : Word) (r : Residue) : AtomEnd × State :=
  let s := dirDel (recallLine s (a / 64)) (a / 64)
  let x := tierRead s w a (amoSize dbl)
  if !x.ok then (.memerr, x.s)
  else
    let z := residue x.s { cls := 0xA, unit := homeSlice (a / 64), tenant := w.tenant } (BitVec.ofNat 64 a) 0 r
    if !z.1 then (.arith, z.2)
    else if casFails op dbl x.data cmp then (.done (amoOld dbl x.data), z.2)
    else
      let f := footBytes z.2 w a (amoBytes op dbl x.data src cmp)
      (.done (amoOld dbl x.data), (ctlWrite f.2 w a f.1).2)

/-- The read-modify-write in the requester's data cache, which holds the line Modified after `x`; the line stays M (R341). -/
def farEnd (x : Rd) (w : Who) (a : Nat) (op : AmoOp) (dbl : Bool) (src cmp : Word) (r : Residue) : AtomEnd × State :=
  if !x.ok then (.memerr, x.s)
  else
    let z := residue x.s w (BitVec.ofNat 64 a) 0 r
    if !z.1 then (.arith, z.2)
    else
      let old := (x.data.drop (a % 64)).take (amoSize dbl)
      if casFails op dbl old cmp then (.done (amoOld dbl old), z.2)
      else
        let f := footBytes z.2 w a (amoBytes op dbl old src cmp)
        let s := match cacheGet f.2 w.agent (a / 64) with
          | some c => cachePut f.2 w.agent (a / 64) { c with data := splice x.data (a % 64) f.1 }
          | none => f.2
        (.done (amoOld dbl old), s)

/-! ## Requests that wait at the home slice -/

def dirWho (g : Nat) : Who := { cls := 0xA, unit := 0, agent := g }

/-- The answer of a request for a line: its data. -/
def answer (g line : Nat) (r : Rd) : State := if r.ok then emit r.s (.lineData g line r.data) else r.s

def getsEffect (g line : Nat) (s : State) : State :=
  answer g line (match cacheGet s g line with
    | some c => hit s (dirWho g) (line * 64) 64 c
    | none => homeGetS s (dirWho g) line)

def getmEffect (g line : Nat) (s : State) : State :=
  answer g line (match cacheGet s g line with
    | some c => if c.modified then hit s (dirWho g) (line * 64) 64 c else homeGetM s (dirWho g) (line * 64) 64
    | none => homeGetM s (dirWho g) (line * 64) 64)

def ncReadEffect (g line : Nat) (s : State) : State := answer g line (homeRead s (dirWho g) (line * 64) 64)

def ncWriteEffect (g addr : Nat) (data : List Byte) (s : State) : State :=
  let x := footBytes s (dirWho g) addr data
  (homeWrite x.2 (dirWho g) addr x.1).2

/-- An atomic takes effect, near or far as its arrival decided. -/
def atomicEffect (near : Bool) (g a : Nat) (op : AmoOp) (dbl : Bool) (src cmp : Word) (r : Residue) (s : State) : State :=
  let x := if near then nearDo s (dirWho g) a op dbl src cmp r
    else farEnd (homeGetM s (dirWho g) a (amoSize dbl)) (dirWho g) a op dbl src cmp r
  match x.1 with
  | .done v => emit x.2 (.oldValue g v)
  | _ => x.2

/-- The effect of a waiting request; a write to a range that was reserved for a program meanwhile alters nothing (R72, R472). -/
def dirServe (r : DirWait) (s : State) : State :=
  match r.cmd with
  | .gets g line => getsEffect g.toNat line.toNat s
  | .getm g line => getmEffect g.toNat line.toNat s
  | .ncRead g line => ncReadEffect g.toNat line.toNat s
  | .ncWrite g addr data => if protected_ s addr.toNat then s else ncWriteEffect g.toNat addr.toNat data s
  | .nearAtomic g addr op dbl src cmp z =>
    if protected_ s addr.toNat then s else atomicEffect r.near g.toNat addr.toNat op dbl src cmp z s
  | _ => s

/-- The older of two requests: the smaller stamp, then the lower agent number (R345). -/
def olderOf (x y : DirWait) : DirWait :=
  if y.stamp.toNat < x.stamp.toNat || (y.stamp = x.stamp && y.agent < x.agent) then y else x

/-- The next request to serve for a line: the oldest aged one, else the one the slice's round-robin comes to, which the spec
does not give and is free (R347, log 34). -/
def nextWait (s : State) (line : Nat) : Option DirWait :=
  let l := s.dir.waiting.filter (fun r => r.line = line)
  match l.filter (·.aged) with
  | x :: r => some (r.foldl olderOf x)
  | [] => l[Config.pick s.choice 0 % l.length]?

/-- Requests waiting for a line are served, one after the other, each once `come` has brought its turn, until one must wait on. -/
def serveLine (come : State → DirWait → Option State) : Nat → State → Nat → State
  | 0, s, _ => s
  | k + 1, s, line =>
    match nextWait s line with
    | none => s
    | some r =>
      match come s r with
      | none => s
      | some t => serveLine come k
        (dirServe r (tick1 { t with dir := { t.dir with waiting := t.dir.waiting.erase r } })) line

/-- Waiting requests for a line are served until one must wait for the end of a hold. -/
def serveWaiting (s : State) (line : Nat) : State :=
  serveLine (fun s r => if heldByOther s r.agent line then none else some s) s.dir.waiting.length s line

/-- A request of agent `g` that is part of another command comes to a line's home: those that wait there go first (R337, R347:
DESIGN CHOICE, log 34), and each, and then it, waits for the end of another cache's hold (R346). -/
def lineTurn (s : State) (g line : Nat) : State :=
  waitHold (serveLine (fun s r => some (waitHold s r.agent line)) s.dir.waiting.length s line) g line

/-! ## Coherent accesses that are part of a command -/

/-- GetS by a caching agent that reads `n` bytes at `a`: the 64 bytes of the line. -/
def getS (s : State) (w : Who) (a n : Nat) : Rd :=
  match cacheGet s w.agent (a / 64) with
  | some c => hit s w a n c
  | none =>
    let s := lineTurn s w.agent (a / 64)
    match cacheGet s w.agent (a / 64) with
    | some c => hit s w a n c
    | none => homeGetS s w (a / 64)

/-- GetM by a caching agent that reads `n` bytes at `a`: every other copy goes, and the agent holds the line Modified. -/
def getM (s : State) (w : Who) (a n : Nat) : Rd :=
  match cacheGet s w.agent (a / 64) with
  | some c => if c.modified then hit s w a n c else homeGetM (lineTurn s w.agent (a / 64)) w a n
  | none => homeGetM (lineTurn s w.agent (a / 64)) w a n

/-- A non-caching read of `n` bytes within one line. -/
def ncRead (s : State) (w : Who) (a n : Nat) : Rd := homeRead (lineTurn s w.agent (a / 64)) w a n

/-- A non-caching write within one line. -/
def ncWrite (s : State) (w : Who) (a : Nat) (l : List Byte) : Bool × State := homeWrite (lineTurn s w.agent (a / 64)) w a l

/-- The read-modify-write in the requester's data cache. -/
def farDo (s : State) (w : Who) (a : Nat) (op : AmoOp) (dbl : Bool) (src cmp : Word) (r : Residue) : AtomEnd × State :=
  farEnd (getM s w a (amoSize dbl)) w a op dbl src cmp r

end Sys2Proof.Machine
end

