-- ==== Sys2Proof/Machine/Ops.lean ====
section
/-!
DEFINITION. The named operations every family shares: checked accesses to memory through the caches and to host memory, the
registers of a Sequencer, and taking a trap.
-/
namespace Sys2Proof.Machine
open Sys2Proof

/-- The answer of every meaning. -/
abbrev Ans := Host.Outcome State Fault Refusal

/-! ## Accesses of any length -/

/-- `n` bytes from `a` cut at line boundaries: address and length of each piece. -/
def pieces (a n : Nat) : List (Nat × Nat) :=
  if n = 0 then [] else
    (List.range ((a + n - 1) / 64 - a / 64 + 1)).map (fun i =>
      let lo := max a ((a / 64 + i) * 64)
      (lo, min (a + n) ((a / 64 + i + 1) * 64) - lo))

/-- A read of T0 to T2 by any agent, through its cache where it has one. -/
def nodeRead (s : State) (w : Who) (a n : Nat) : Rd :=
  (pieces a n).foldl (fun r p =>
    if r.ok then
      if cacheLines w.agent != 0 then
        let q := getS r.s w p.1 p.2
        ⟨q.ok, if q.ok then r.data ++ (q.data.drop (p.1 % 64)).take p.2 else r.data, q.s⟩
      else
        let q := ncRead r.s w p.1 p.2
        ⟨q.ok, r.data ++ q.data, q.s⟩
    else r) ⟨true, [], s⟩

/-- The bytes within the units of 8 that a write of `n` bytes at `a` covers only in part, which it reads first (R409): the
whole run, where it lies within one unit or two; none, where it covers its units whole. -/
def partRead (a n : Nat) : Nat := if a % 8 = 0 && n % 8 = 0 then 0 else n

/-- The units of a copy that a write covers whole are good again (R409). -/
def mend (s : State) (g a n : Nat) : State :=
  { s with dir := { s.dir with bad := s.dir.bad.filter (fun e => !(e.1 = g && a ≤ 8 * e.2 && 8 * e.2 + 8 ≤ a + n)) } }

/-- A write within one line by any agent (R333), outside the footprints of NBU descriptors. -/
def pieceWrite0 (s : State) (w : Who) (a : Nat) (l : List Byte) : Bool × State :=
  if cacheLines w.agent != 0 && l.length != 64 then
    let q := getM s w a (partRead a l.length)
    if q.ok then
      match cacheGet q.s w.agent (a / 64) with
      | some c => (true, mend (cachePut q.s w.agent (a / 64) { c with data := splice q.data (a % 64) l }) w.agent a l.length)
      | none => (true, q.s)
    else (false, q.s)
  else ncWrite s w a l

/-- A write within one line by any agent. -/
def pieceWrite (s : State) (w : Who) (a : Nat) (l : List Byte) : Bool × State :=
  let x := footBytes s w a l
  pieceWrite0 x.2 w a x.1

/-- A write of T0 to T2; what was written before a failing piece stands. -/
def nodeWrite (s : State) (w : Who) (a : Nat) (l : List Byte) : Bool × State :=
  (pieces a l.length).foldl (fun r p =>
    if r.1 then pieceWrite r.2 w p.1 ((l.drop (p.1 - a)).take p.2) else r) (true, s)

/-! ## Host memory through a T3 window (R260 to R262) -/

def windowBase : HostPort → Nat
  | .a => t3BaseA
  | .b => t3BaseB

def hostFlag (s : State) (p : HostPort) (i : Nat) : State :=
  { s with host := tmod s.host {} (portNum p) (fun x => { x with sticky := stick x.sticky i }) }

/-- Why an access to a window fails, if it does (R262): a lost host, an unmapped segment. -/
def t3Fault (s : State) (p : HostPort) (a n : Nat) : Option Nat :=
  let o := a - windowBase p
  if hostLost s p then some 0
  else if n != 0 && (List.range ((o + n - 1) / 2 ^ 30 - o / 2 ^ 30 + 1)).any (fun k => !(segMapped s p (o / 2 ^ 30 + k))) then
    some 2
  else none

/-- The record of a failed access to a window. -/
def t3Loss (s : State) (w : Who) (p : HostPort) (cause : Nat) : State :=
  logRec s w 8 (BitVec.ofNat 64 (windowBase p)) (BitVec.ofNat 64 cause) (BitVec.ofNat 64 (portNum p))

/-- `n` bytes from `a` of a window cut where segments end: address and length of each access (R260). -/
def segments (p : HostPort) (a n : Nat) : List (Nat × Nat) :=
  let o := a - windowBase p
  if n = 0 then [(a, 0)] else
    (List.range ((o + n - 1) / 2 ^ 30 - o / 2 ^ 30 + 1)).map (fun i =>
      let lo := max o ((o / 2 ^ 30 + i) * 2 ^ 30)
      (windowBase p + lo, min (o + n) ((o / 2 ^ 30 + i + 1) * 2 ^ 30) - lo))

/-- A read within one segment: the bytes are the host's (log 7). A lost host or an unmapped segment fails it, and so does a
host that does not complete it within CTO_MS, which is the host's to choose (R373). -/
def segRead (s : State) (w : Who) (p : HostPort) (a n : Nat) : Rd :=
  match t3Fault s p a n with
  | some c => ⟨false, [], t3Loss s w p c⟩
  | none =>
    if Config.hostLate s.choice then ⟨false, [], t3Loss (hostFlag (tick1 s) p 3) w p 1⟩
    else ⟨true, (List.range n).map (fun i => Config.hostByte s.choice (a + i)), tierTouch (tick1 s) w.tenant 3 n⟩

def segWrite (s : State) (w : Who) (p : HostPort) (a : Nat) (l : List Byte) : Bool × State :=
  match t3Fault s p a l.length with
  | some c => (false, t3Loss s w p c)
  | none => (true, emit (tierTouch s w.tenant 3 l.length) (.hostWrite p (a - windowBase p) l))

/-- A read of host memory, segment by segment. -/
def t3Read (s : State) (w : Who) (p : HostPort) (a n : Nat) : Rd :=
  (segments p a n).foldl (fun r e =>
    if r.ok then
      let q := segRead r.s w p e.1 e.2
      ⟨q.ok, r.data ++ q.data, q.s⟩
    else r) ⟨true, [], s⟩

/-- A write of host memory, segment by segment; what was written before a failing one stands. -/
def t3Write (s : State) (w : Who) (p : HostPort) (a : Nat) (l : List Byte) : Bool × State :=
  (segments p a l.length).foldl (fun r e =>
    if r.1 then segWrite r.2 w p e.1 ((l.drop (e.1 - a)).take e.2) else r) (true, s)

/-- A read of any tier. -/
def anyRead (s : State) (w : Who) (a n : Nat) : Rd :=
  match area a with
  | .t3 p _ => t3Read s w p a n
  | _ => nodeRead s w a n

def anyWrite (s : State) (w : Who) (a : Nat) (l : List Byte) : Bool × State :=
  match area a with
  | .t3 p _ => t3Write s w p a l
  | _ => nodeWrite s w a l

/-! ## Sequencers: registers and traps -/

def seqOf (s : State) (n : Fin 64) : Seq := tget s.seqs {} n.val

def updSeq (s : State) (n : Fin 64) (f : Seq → Seq) : State := { s with seqs := tmod s.seqs {} n.val f }

/-- A read of a general register: g0 reads as zero (R44). -/
def reg (q : Seq) (r : BitVec 6) : Word := if r = 0 then 0 else tget q.g 0 r.toNat

/-- A write of a general register: a write of g0 is discarded (R44). -/
def setReg (q : Seq) (r : BitVec 6) (v : Word) : Seq := if r = 0 then q else { q with g := tset q.g r.toNat v }

/-- The instruction retires: the PC moves on by its length (R47) and ICOUNT counts it (R45). -/
def retire (q : Seq) (len : Nat) : Seq := { q with pc := q.pc + BitVec.ofNat 56 len, icount := q.icount + 1 }

/-- The Sequencer leaves the USERS masks of the regions that `entry` is outside of (R473). -/
def dropUsers (s : State) (n : Fin 64) (entry : Nat) : State :=
  { s with sec := { s.sec with regions := s.sec.regions.map (fun e =>
      if inRegion e.2 entry then e else (e.1, { e.2 with users := sdel e.2.users n.val })) } }

/-- The Sequencer halts; the node writes the resume address to SEQ_ENTRY (R74, R75). -/
def haltSeq (s : State) (n : Fin 64) (resume : BitVec 56) : State :=
  dropUsers (updSeq s n (fun q => { q with
    running := false, stopping := false, wait := .idle, entry := resume, haltAddr := resume })) n resume.toNat

/-- Trap causes (R69). -/
inductive Cause where
  | misalignPc | fetchFault | illegal | brk | misalign | unmapped | region | codeWrite | csrSize
  | queueId | queueOffline | descAddr | descLen | counterId | memerr | arith
  deriving DecidableEq, Repr

def causeCode : Cause → Nat
  | .misalignPc => 0x02 | .fetchFault => 0x03 | .illegal => 0x01 | .brk => 0x0D | .misalign => 0x04
  | .unmapped => 0x05 | .region => 0x06 | .codeWrite => 0x10 | .csrSize => 0x0F | .queueId => 0x08
  | .queueOffline => 0x09 | .descAddr => 0x0A | .descLen => 0x0B | .counterId => 0x0C | .memerr => 0x07
  | .arith => 0x0E

/-- Who a Sequencer is, for records and coherent requests of its data cache. -/
def seqWho (s : State) (n : Fin 64) (op : Nat) : Who :=
  { cls := 9, unit := n.val, op := op, tenant := (seqOf s n).tenant.toNat, agent := 2 * n.val + 1 }

/-- Taking a trap (R69, R71). `op` is major opcode x 256 + funct8, for the record of a halting trap. -/
def takeTrap (s : State) (n : Fin 64) (op : Nat) (c : Cause) (tval : Word) : State :=
  let q := seqOf s n
  let code := BitVec.ofNat 8 (causeCode c)
  let saved := updSeq s n (fun q => { q with tpc := q.pc, tcause := code, tval := tval, wait := .idle })
  if q.th = false ∧ q.tvec ≠ 0 then
    updSeq saved n (fun r => { r with th := true, pc := q.tvec })
  else
    let s := updSeq saved n (fun r => { r with
      lastCause := code, sticky := stickIf (stickIf r.sticky 2 (q.tvec = 0)) 3 q.th })
    logRec (haltSeq s n q.pc) (seqWho s n op) 7 (q.pc.setWidth 64) (code.setWidth 64) tval

/-- Return from a trap (R68): the PC from TPC, STATUS.TH cleared. -/
def trapReturn (q : Seq) : Seq := { q with pc := q.tpc, th := false, icount := q.icount + 1 }

/-! ## The store buffer of a Sequencer (R48, R49, log 5) -/

/-- A buffered store's overlap with an 8-byte-or-less load, newest last: each byte comes from the newest store to it. -/
def forward (stores : List (Nat × List Byte)) (a : Nat) (d : List Byte) : List Byte :=
  stores.foldl (fun d e =>
    (List.range d.length).map (fun i =>
      if e.1 ≤ a + i ∧ a + i < e.1 + e.2.length then e.2.getD (a + i - e.1) 0 else d.getD i 0)) d

/-- One buffered store becomes visible: its line is taken in M and the store completed with it (R346). Where the line has gone
meanwhile and cannot be filled again, the store goes to the home without its line, so that it is lost with no codeword but its
own (R54, log 5). -/
def storeOut (s : State) (w : Who) (a : Nat) (l : List Byte) : State :=
  let x := pieceWrite s w a l
  if x.1 || (uePart x.2 a l.length).isSome then x.2 else (ncWrite x.2 w a l).2

/-- The earlier stores of a Sequencer become visible to all observers, in program order. -/
def drain (s : State) (n : Fin 64) : State :=
  let q := seqOf s n
  let s := q.stores.foldl (fun s e => storeOut s (seqWho s n 0) e.1 e.2) s
  updSeq s n (fun q => { q with stores := [] })

/-- The Sequencers' buffered stores become visible, lowest number first, but for those that `keep` holds back. -/
def drainAll (s : State) (keep : Nat → Bool := fun _ => false) : State :=
  (List.finRange 64).foldl (fun s n => if (seqOf s n).stores.isEmpty || keep n.val then s else drain s n) s

/-! ## Units and queues -/

def queueOf (s : State) (q : Nat) : Queue := tget s.queues {} q

def updQueue (s : State) (q : Nat) (f : Queue → Queue) : State := { s with queues := tmod s.queues {} q f }

def unitKey (cls unit : Nat) : Nat := cls * 1024 + unit

def unitOf (s : State) (cls unit : Nat) : UnitSt := tget s.units {} (unitKey cls unit)

def updUnit (s : State) (cls unit : Nat) (f : UnitSt → UnitSt) : State :=
  { s with units := tmod s.units {} (unitKey cls unit) f }

/-- The agent of an engine unit's accesses (R332, R333); a unit served by several engine caches uses the first
(DESIGN CHOICE, log 18). -/
def engineAgent (cls unit : Nat) : Nat :=
  match cls with
  | 0 => 128 + unit
  | 1 => 128 + unit / 2
  | 2 => 128 + unit / 4
  | 3 => 128 + unit
  | 4 => 128 + unit * 2
  | 5 => 128 + unit * 4
  | 6 => 128 + unit * 4
  | 7 => 146 + unit
  | _ => 150

end Sys2Proof.Machine
end

