-- ==== Sys2Proof/Machine/Flags.lean ====
section
/-!
DEFINITION. Sticky status bits (R11, R12), the status bits of each block's registers, and the comparisons of the
Sequencer.
-/
namespace Sys2Proof.Machine
open Sys2Proof

/-- A write of W1C bits: each 1 under `m` clears its bit (R11). -/
def w1c (cur v m : Word) : Word := cur &&& ~~~(v &&& m)

def railFlag (s : State) (i : Nat) (b : Bool) : State :=
  { s with rail := { s.rail with sticky := stickIf s.rail.sticky i b } }
def tbFlag (s : State) (i : Nat) : State := { s with tb := { s.tb with sticky := stick s.tb.sticky i } }
def mbxFlag (s : State) (m i : Nat) : State :=
  { s with mbx := tmod s.mbx {} m (fun x => { x with sticky := stick x.sticky i }) }
def gweFlag (s : State) (u i : Nat) : State :=
  { s with gwe := tmod s.gwe {} u (fun x => { x with status := stick x.status i }) }
def dseFlag (s : State) (u i : Nat) : State :=
  { s with dse := tmod s.dse {} u (fun x => { x with status := stick x.status i }) }
def sleFlag (s : State) (u i : Nat) : State := { s with sle := tmod s.sle 0 u (fun x => stick x i) }
def ldlFlag (s : State) (u i : Nat) : State := { s with ldl := tmod s.ldl 0 u (fun x => stick x i) }
def gteFlag (s : State) (u i : Nat) : State :=
  { s with gte := { s.gte with status := tmod s.gte.status 0 u (fun x => stick x i) } }
def cuFlag (s : State) (i : Nat) : State := { s with cu := { s.cu with sticky := stick s.cu.sticky i } }
def bootFlag (s : State) (i : Nat) : State := { s with boot := { s.boot with sticky := stick s.boot.sticky i } }
def secFlag (s : State) (i : Nat) : State := { s with sec := { s.sec with sticky := stick s.sec.sticky i } }
def tstFlag (s : State) (i : Nat) : State := { s with tst := { s.tst with sticky := stick s.tst.sticky i } }

/-! ## Who may reach a register (R363, R449, R494) -/

/-- The accessor reaches the registers: a Sequencer or a physical function of a ready node whose port is not lost. After
FAIL a physical function still reaches the BOOT window. -/
def accOk (s : State) (a : Acc) (bootWindow : Bool := false) : Bool :=
  match a with
  | .seq _ => s.boot.ready
  | .pf p => !(hostLost s p) && (s.boot.ready || (s.boot.fail && bootWindow))
  | .vf _ _ => false

/-- A Sequencer's access to a register has class U: its earlier stores are performed first (R48). -/
def accDrain (s : State) (a : Acc) : State :=
  match a with
  | .seq n => if (seqOf s n).stores.isEmpty then s else drain s n
  | _ => s

/-- An access by `a` to a register, with effect `f` where the accessor reaches the registers. -/
def accDo (s : State) (a : Acc) (f : State → State) (bootWindow : Bool := false) : State :=
  if accOk s a bootWindow then f (accDrain s a) else s

/-- A read that completes as Unsupported Request (R362, R363); a lost port completes nothing. -/
def refuseRead (s : State) (a : Acc) : State :=
  match a with
  | .seq _ => s
  | .pf p => if hostLost s p then s else emit s (.hostUR a)
  | .vf p _ => if hostLost s p then s else emit s (.hostUR a)

def isPF : Acc → Bool
  | .pf _ => true
  | _ => false

/-! ## Comparisons (R50, R58) -/

def slt (a b : Word) : Bool := a.toInt < b.toInt
def ult (a b : Word) : Bool := a.toNat < b.toNat

end Sys2Proof.Machine
end

