-- ==== Sys2Proof/Machine/SeqAlu.lean ====
section
/-!
DEFINITION. Chapter 03: running one instruction of a Sequencer, and the scalar instructions (R50 to R52, R70).
-/
namespace Sys2Proof.Machine
open Sys2Proof

/-! ## Running one instruction -/

/-- The Sequencer takes its next instruction: it runs and waits for nothing. -/
def seqLive (s : State) (n : Fin 64) : Bool := (seqOf s n).running && decide ((seqOf s n).wait = .idle)

/-- The Sequencer joins the USERS mask of the region it fetches from (R473). -/
def addUser (s : State) (n : Fin 64) (k : Nat) : State :=
  { s with sec := { s.sec with regions := tmod s.sec.regions {} k (fun r => { r with users := sadd r.users n.val }) } }

/-- One instruction at the PC: the fetch must lie in a code region and be readable (R58, R69, R72), the encoding must be
legal (`bad` says it is not, R47); then `f`. A Sequencer that is not running or that waits does nothing (log 2). An
uncorrectable codeword raises FETCH_FAULT where it holds a byte of the instruction, not where it stands elsewhere in the
64-byte line (DESIGN CHOICE, log 124). -/
def runInsn (s : State) (n : Fin 64) (op : Nat) (word : Word) (bad : Bool) (f : State → State) : State :=
  if seqLive s n then
    let pc := (seqOf s n).pc
    match fetchRegion s pc.toNat with
    | none => takeTrap s n op .fetchFault (pc.setWidth 64)
    | some k =>
      match ueIn s pc.toNat 4 with
      | some c => takeTrap (memErr s (seqWho s n op) 4 c 0) n op .fetchFault (pc.setWidth 64)
      | none =>
        let s := addUser s n k
        if bad then takeTrap s n op .illegal word else f s
  else s

/-- An extended pair: its second word must lie in a code region and be readable too (R58, R69, R72); a fault there shows
the second word's address as TVAL, with the pair's address in TPC. -/
def runPair (s : State) (n : Fin 64) (op : Nat) (word : Word) (bad : Bool) (f : State → State) : State :=
  let a := (seqOf s n).pc + 4
  let second := fetchRegion s a.toNat
  let ue := ueIn s a.toNat 4
  runInsn s n op word false (fun s =>
    match second with
    | none => takeTrap s n op .fetchFault (a.setWidth 64)
    | some k =>
      match ue with
      | some c => takeTrap (memErr s (seqWho s n op) 4 c 0) n op .fetchFault (a.setWidth 64)
      | none =>
        let s := addUser s n k
        if bad then takeTrap s n op .illegal word else f s)

/-- A value computed under residue checking is written to `rd`, or ARITH is raised (R70). -/
def finishAlu (s : State) (n : Fin 64) (op : Nat) (word : Word) (rd : BitVec 6) (v : Word) (len : Nat) (r : Residue) :
    State :=
  let c := residue s (seqWho s n op) ((seqOf s n).pc.setWidth 64) word r
  if c.1 then updSeq c.2 n (fun q => retire (setReg q rd v) len) else takeTrap c.2 n op .arith word

/-- Format R of major opcode 0x00: `rd` receives `f rs1 rs2`. -/
def aluR (s : State) (n : Fin 64) (funct : Nat) (rd rs1 rs2 : BitVec 6) (bad : Bool) (r : Residue)
    (f : Word → Word → Word) : State :=
  let word := wordR 0 rd.toNat rs1.toNat rs2.toNat funct
  runInsn s n funct word bad (fun s =>
    finishAlu s n funct word rd (f (reg (seqOf s n) rs1) (reg (seqOf s n) rs2)) 4 r)

/-- Format I: `rd` receives `f rs1`; `imm` is the encoded immediate. -/
def aluI (s : State) (n : Fin 64) (op : Nat) (rd rs1 : BitVec 6) (imm : Nat) (bad : Bool) (r : Residue)
    (f : Word → Word) : State :=
  let word := wordI op rd.toNat rs1.toNat imm
  runInsn s n (op * 256) word bad (fun s =>
    finishAlu s n (op * 256) word rd (f (reg (seqOf s n) rs1)) 4 r)

/-- Format X: `rd` receives `f rs1 rd`. -/
def aluX (s : State) (n : Fin 64) (xop : Nat) (rd rs1 : BitVec 6) (imm : BitVec 40) (bad : Bool) (r : Residue)
    (f : Word → Word → Word) : State :=
  let word := wordX rd.toNat rs1.toNat xop imm
  let op := 0x3F00
  runPair s n op word bad (fun s =>
    finishAlu s n op word rd (f (reg (seqOf s n) rs1) (reg (seqOf s n) rd)) 8 r)

/-! ## Values (R50, R51) -/

def shamt (b : Word) : Nat := b.toNat % 64

def minS (a b : Word) : Word := if slt a b then a else b
def maxS (a b : Word) : Word := if slt a b then b else a
def minU (a b : Word) : Word := if ult a b then a else b
def maxU (a b : Word) : Word := if ult a b then b else a

def mulh (a b : Word) : Word := BitVec.ofInt 64 (a.toInt * b.toInt / 2 ^ 64)
def mulhu (a b : Word) : Word := BitVec.ofNat 64 (a.toNat * b.toNat / 2 ^ 64)

/-- Signed division truncated towards zero; all ones for a zero divisor (R51). -/
def divS (a b : Word) : Word := if b = 0 then -1 else BitVec.ofInt 64 (a.toInt.tdiv b.toInt)
def divU (a b : Word) : Word := if b = 0 then -1 else BitVec.ofNat 64 (a.toNat / b.toNat)
def remS (a b : Word) : Word := if b = 0 then a else BitVec.ofInt 64 (a.toInt.tmod b.toInt)
def remU (a b : Word) : Word := if b = 0 then a else BitVec.ofNat 64 (a.toNat % b.toNat)

/-- Leading zeros of the low `n` bits. -/
def clzN : Nat → Nat → Nat
  | 0, _ => 0
  | n + 1, v => if v.testBit n then 0 else 1 + clzN n v

/-- Trailing zeros of `n` bits. -/
def ctzN : Nat → Nat → Nat
  | 0, _ => 0
  | n + 1, v => if v.testBit 0 then 0 else 1 + ctzN n (v / 2)

/-- Ones in the low `n` bits. -/
def popN : Nat → Nat → Nat
  | 0, _ => 0
  | n + 1, v => v % 2 + popN n (v / 2)

def clz (a : Word) : Word := BitVec.ofNat 64 (clzN 64 a.toNat)
def ctz (a : Word) : Word := BitVec.ofNat 64 (ctzN 64 a.toNat)
def popc (a : Word) : Word := BitVec.ofNat 64 (popN 64 a.toNat)

def flag (b : Bool) : Word := if b then 1 else 0

/-! ## Major opcode 0x00 (R50) -/

def execAdd (n : Fin 64) (rd rs1 rs2 : BitVec 6) (r : Residue) (s : State) : Ans :=
  .next (aluR s n 0x00 rd rs1 rs2 false r (fun a b => a + b))
def execSub (n : Fin 64) (rd rs1 rs2 : BitVec 6) (r : Residue) (s : State) : Ans :=
  .next (aluR s n 0x01 rd rs1 rs2 false r (fun a b => a - b))
def execAnd (n : Fin 64) (rd rs1 rs2 : BitVec 6) (s : State) : Ans :=
  .next (aluR s n 0x02 rd rs1 rs2 false .ok (fun a b => a &&& b))
def execOr (n : Fin 64) (rd rs1 rs2 : BitVec 6) (s : State) : Ans :=
  .next (aluR s n 0x03 rd rs1 rs2 false .ok (fun a b => a ||| b))
def execXor (n : Fin 64) (rd rs1 rs2 : BitVec 6) (s : State) : Ans :=
  .next (aluR s n 0x04 rd rs1 rs2 false .ok (fun a b => a ^^^ b))
def execSll (n : Fin 64) (rd rs1 rs2 : BitVec 6) (s : State) : Ans :=
  .next (aluR s n 0x05 rd rs1 rs2 false .ok (fun a b => a <<< shamt b))
def execSrl (n : Fin 64) (rd rs1 rs2 : BitVec 6) (s : State) : Ans :=
  .next (aluR s n 0x06 rd rs1 rs2 false .ok (fun a b => a >>> shamt b))
def execSra (n : Fin 64) (rd rs1 rs2 : BitVec 6) (s : State) : Ans :=
  .next (aluR s n 0x07 rd rs1 rs2 false .ok (fun a b => a.sshiftRight (shamt b)))
def execSlt (n : Fin 64) (rd rs1 rs2 : BitVec 6) (s : State) : Ans :=
  .next (aluR s n 0x08 rd rs1 rs2 false .ok (fun a b => flag (slt a b)))
def execSltu (n : Fin 64) (rd rs1 rs2 : BitVec 6) (s : State) : Ans :=
  .next (aluR s n 0x09 rd rs1 rs2 false .ok (fun a b => flag (ult a b)))
def execMin (n : Fin 64) (rd rs1 rs2 : BitVec 6) (s : State) : Ans :=
  .next (aluR s n 0x0A rd rs1 rs2 false .ok minS)
def execMax (n : Fin 64) (rd rs1 rs2 : BitVec 6) (s : State) : Ans :=
  .next (aluR s n 0x0B rd rs1 rs2 false .ok maxS)
def execMinu (n : Fin 64) (rd rs1 rs2 : BitVec 6) (s : State) : Ans :=
  .next (aluR s n 0x0C rd rs1 rs2 false .ok minU)
def execMaxu (n : Fin 64) (rd rs1 rs2 : BitVec 6) (s : State) : Ans :=
  .next (aluR s n 0x0D rd rs1 rs2 false .ok maxU)
def execMul (n : Fin 64) (rd rs1 rs2 : BitVec 6) (r : Residue) (s : State) : Ans :=
  .next (aluR s n 0x10 rd rs1 rs2 false r (fun a b => a * b))
def execMulh (n : Fin 64) (rd rs1 rs2 : BitVec 6) (r : Residue) (s : State) : Ans :=
  .next (aluR s n 0x11 rd rs1 rs2 false r mulh)
def execMulhu (n : Fin 64) (rd rs1 rs2 : BitVec 6) (r : Residue) (s : State) : Ans :=
  .next (aluR s n 0x12 rd rs1 rs2 false r mulhu)
def execDiv (n : Fin 64) (rd rs1 rs2 : BitVec 6) (r : Residue) (s : State) : Ans :=
  .next (aluR s n 0x14 rd rs1 rs2 false r divS)
def execDivu (n : Fin 64) (rd rs1 rs2 : BitVec 6) (r : Residue) (s : State) : Ans :=
  .next (aluR s n 0x15 rd rs1 rs2 false r divU)
def execRem (n : Fin 64) (rd rs1 rs2 : BitVec 6) (r : Residue) (s : State) : Ans :=
  .next (aluR s n 0x16 rd rs1 rs2 false r remS)
def execRemu (n : Fin 64) (rd rs1 rs2 : BitVec 6) (r : Residue) (s : State) : Ans :=
  .next (aluR s n 0x17 rd rs1 rs2 false r remU)
/-- rs2 must be 0 (R50). -/
def execClz (n : Fin 64) (rd rs1 rs2 : BitVec 6) (s : State) : Ans :=
  .next (aluR s n 0x18 rd rs1 rs2 (rs2 != 0) .ok (fun a _ => clz a))
/-- rs2 must be 0 (R50). -/
def execCtz (n : Fin 64) (rd rs1 rs2 : BitVec 6) (s : State) : Ans :=
  .next (aluR s n 0x19 rd rs1 rs2 (rs2 != 0) .ok (fun a _ => ctz a))
/-- rs2 must be 0 (R50). -/
def execPopc (n : Fin 64) (rd rs1 rs2 : BitVec 6) (s : State) : Ans :=
  .next (aluR s n 0x1A rd rs1 rs2 (rs2 != 0) .ok (fun a _ => popc a))

/-! ## Immediate and extended instructions (R52) -/

def execAddi (n : Fin 64) (rd rs1 : BitVec 6) (imm : BitVec 14) (r : Residue) (s : State) : Ans :=
  .next (aluI s n 0x01 rd rs1 imm.toNat false r (fun a => a + imm14 imm))
def execAndi (n : Fin 64) (rd rs1 : BitVec 6) (imm : BitVec 14) (s : State) : Ans :=
  .next (aluI s n 0x02 rd rs1 imm.toNat false .ok (fun a => a &&& imm14 imm))
def execOri (n : Fin 64) (rd rs1 : BitVec 6) (imm : BitVec 14) (s : State) : Ans :=
  .next (aluI s n 0x03 rd rs1 imm.toNat false .ok (fun a => a ||| imm14 imm))
def execXori (n : Fin 64) (rd rs1 : BitVec 6) (imm : BitVec 14) (s : State) : Ans :=
  .next (aluI s n 0x04 rd rs1 imm.toNat false .ok (fun a => a ^^^ imm14 imm))
def execSlti (n : Fin 64) (rd rs1 : BitVec 6) (imm : BitVec 14) (s : State) : Ans :=
  .next (aluI s n 0x05 rd rs1 imm.toNat false .ok (fun a => flag (slt a (imm14 imm))))
def execSltiu (n : Fin 64) (rd rs1 : BitVec 6) (imm : BitVec 14) (s : State) : Ans :=
  .next (aluI s n 0x06 rd rs1 imm.toNat false .ok (fun a => flag (ult a (imm14 imm))))

/-- SHIFTI: imm14[11:6] must be 0; `k` is imm14[13:12]. -/
def shiftI (s : State) (n : Fin 64) (k : Nat) (rd rs1 : BitVec 6) (imm : BitVec 12) (f : Word → Nat → Word) : State :=
  aluI s n 0x07 rd rs1 (k * 4096 + imm.toNat) (imm.toNat / 64 != 0) .ok (fun a => f a (imm.toNat % 64))

def execSlli (n : Fin 64) (rd rs1 : BitVec 6) (imm : BitVec 12) (s : State) : Ans :=
  .next (shiftI s n 0 rd rs1 imm (fun a k => a <<< k))
def execSrli (n : Fin 64) (rd rs1 : BitVec 6) (imm : BitVec 12) (s : State) : Ans :=
  .next (shiftI s n 1 rd rs1 imm (fun a k => a >>> k))
def execSrai (n : Fin 64) (rd rs1 : BitVec 6) (imm : BitVec 12) (s : State) : Ans :=
  .next (shiftI s n 2 rd rs1 imm (fun a k => a.sshiftRight k))

/-- rs1 must be 0. -/
def execLix (n : Fin 64) (rd rs1 : BitVec 6) (imm : BitVec 40) (s : State) : Ans :=
  .next (aluX s n 0x00 rd rs1 imm (rs1 != 0) .ok (fun _ _ => imm40 imm))
/-- imm[39:24] and rs1 must be 0. -/
def execLihx (n : Fin 64) (rd rs1 : BitVec 6) (imm : BitVec 40) (s : State) : Ans :=
  .next (aluX s n 0x01 rd rs1 imm (rs1 != 0 || imm.toNat / 2 ^ 24 != 0) .ok
    (fun _ d => setFld d 63 40 (imm.toNat % 2 ^ 24)))
def execAddix (n : Fin 64) (rd rs1 : BitVec 6) (imm : BitVec 40) (r : Residue) (s : State) : Ans :=
  .next (aluX s n 0x02 rd rs1 imm false r (fun a _ => a + imm40 imm))
def execAndix (n : Fin 64) (rd rs1 : BitVec 6) (imm : BitVec 40) (s : State) : Ans :=
  .next (aluX s n 0x03 rd rs1 imm false .ok (fun a _ => a &&& imm40 imm))

end Sys2Proof.Machine
end

