-- ==== Sys2Proof/Machine/Issue.lean ====
section
/-!
DEFINITION. Queues as the Sequencers see them (R60, R79 to R82, R86): credits, pushing a descriptor; a Sequencer's loads
(R49, R54); fences over issued descriptors (R66, R281).
-/
namespace Sys2Proof.Machine
open Sys2Proof

/-! ## Loads through the data cache and the store buffer -/

/-- A load of `n` bytes within a line of T0 to T2: the line's data, with the Sequencer's own earlier stores (R49). -/
def seqLoad (s : State) (n : Fin 64) (op a size : Nat) : Rd :=
  let r := getS s (seqWho s n op) a size
  if r.ok then
    ⟨true, forward (seqOf r.s n).stores a ((r.data.drop (a % 64)).take size), r.s⟩
  else r

/-- The words of a descriptor at `a` (R61). -/
def loadWords (s : State) (n : Fin 64) (op : Nat) : Nat → Nat → Bool × List Word × State
  | 0, _ => (true, [], s)
  | k + 1, a =>
    let r := seqLoad s n op a 8
    if r.ok then
      let q := loadWords r.s n op k (a + 8)
      (q.1, bytesWord r.data :: q.2.1, q.2.2)
    else (false, [], r.s)

/-! ## Credits -/

/-- Descriptors in the queue that have not been dispatched or retired. -/
def queued (q : Queue) : Nat := (q.entries.filter (fun e => decide (e.st = .queued))).length

/-- Credits withheld from a queue under TST_WITHHOLD (R484, R485). -/
def withheld (s : State) (q : Nat) : Nat :=
  let t := (s.tst.withhold.map (fun e => if bitAt e.2 63 && fld e.2 47 32 = q then fld e.2 15 0 else 0)).foldl (· + ·) 0
  if unlocked s then min t (queueDepth (qClass q) - 1) else 0

def qEnabled (q : Queue) : Bool := bitAt q.ctl 0

/-- Credits available (R81, R82, R485). -/
def credits (s : State) (q : Nat) : Nat :=
  if qEnabled (queueOf s q) then queueDepth (qClass q) - queued (queueOf s q) - withheld s q else 0

/-- Descriptors that have entered a queue (QISSUE, R102). -/
def qIssue (q : Queue) : Word := q.retired + BitVec.ofNat 64 q.entries.length

/-- A request queued at a flash engine stops its background GC (R319). -/
def noteRequest (s : State) (q : Nat) : State :=
  if qClass q = 7 then
    { s with fle := tmod s.fle {} (qUnit q) (fun f => { f with bgGc := false, lastReq := s.tb.time }) }
  else s

/-- The words enter the queue as one descriptor. -/
def pushDesc (s : State) (q : Nat) (n : Fin 64) (words : List Word) : State :=
  let e : Entry := { words := words, tenant := (seqOf s n).tenant, issuer := n.val, st := .queued }
  updQueue (noteRequest s q) q (fun x => { x with entries := x.entries ++ [e] })

/-- Step 6 of R60: the descriptor is pushed and the issue count before it goes to rd. -/
def issue (s : State) (q : Nat) (n : Fin 64) (rd : BitVec 6) (words : List Word) : State :=
  let k := qIssue (queueOf s q)
  updSeq (pushDesc s q n words) n (fun r => { retire (setReg r rd k) 4 with wait := .idle })

/-- The unit is retired, or failed its recovery tests, and no spare serves its number (R60, R99, R418). -/
def unitOffline (s : State) (cls unit : Nat) : Bool :=
  let u := unitOf s cls unit
  (decide (u.mode = .retired) && decide (u.spare = .none)) || u.offline

/-! ## Fences over descriptors -/

def entryDone (e : Entry) : Bool :=
  match e.st with
  | .retired _ => true
  | _ => false

/-- Every descriptor that Sequencer `n` issued (to an NBU queue, where `nbu`) has completed. -/
def issuedDone (s : State) (n : Nat) (nbu : Bool) : Bool :=
  s.queues.all (fun e => (nbu && qClass e.1 != 8) || e.2.entries.all (fun d => d.issuer != n || entryDone d))

/-- The lines of an extent that the directory lists. -/
def dirLines (s : State) (a n : Nat) : List Nat :=
  ((s.dir.slices.map (fun e => e.2.map Prod.fst)).flatten).filter (fun l => overlaps (l * 64) 64 a n)

/-- Every copy of the lines of an extent leaves the caches, once the hold on a Modified one has ended. -/
def invalidateExt (s : State) (a n : Nat) : State :=
  (dirLines s a n).foldl (fun s l => dirDel (recallLine (waitHold s 160 l) l) l) s

/-- Rule 3 of R281: the OUT extents of the Sequencer's completed NBU commands leave every cache. -/
def releaseOuts (s : State) (n : Fin 64) : State :=
  let s := (seqOf s n).outs.foldl (fun s e => invalidateExt s e.1 e.2) s
  updSeq s n (fun q => { q with outs := [] })

/-- The conditions of a fence's mask hold (R66); stores and uncached accesses are complete once the buffer is drained. -/
def fenceReady (s : State) (n : Fin 64) (m : Nat) : Bool :=
  (!(m.testBit 2) || issuedDone s n.val true) && (!(m.testBit 4) || issuedDone s n.val false)

/-- The fence retires; a STOP that came while it waited then halts the Sequencer at this boundary (R75). -/
def fenceEnd (s : State) (n : Fin 64) (m : Nat) : State :=
  let s := if m.testBit 2 || m.testBit 4 then releaseOuts s n else s
  let s := updSeq s n (fun q => { retire q 4 with wait := .idle })
  if (seqOf s n).stopping then haltSeq s n (seqOf s n).pc else s

end Sys2Proof.Machine
end

