-- ==== Sys2Proof/Machine/QueueOps.lean ====
section
/-!
DEFINITION. Chapter 04: the entries of a queue, finishing and retiring them (R86, R87, R96, R97), the checks of R94 in
their order.
-/
namespace Sys2Proof.Machine
open Sys2Proof

/-! ## Codes of R100 -/

def cBadOpcode : Nat := 0x01
def cBadLen : Nat := 0x02
def cReserved : Nat := 0x03
def cBadField : Nat := 0x04
def cOverLimit : Nat := 0x05
def cBadAddr : Nat := 0x06
def cBadAlign : Nat := 0x07
def cBufOverrun : Nat := 0x08
def cOverlap : Nat := 0x09
def cBadWaitCtr : Nat := 0x0A
def cBadSigCtr : Nat := 0x0B
def cBadFormat : Nat := 0x0C
def cWaitTimeout : Nat := 0x0D
def cMemerr : Nat := 0x20
def cArith : Nat := 0x21
def cFlashErr : Nat := 0x22
def cCancelled : Nat := 0x23
def cUnitLost : Nat := 0x24

/-! ## Entries -/

/-- The entry with queue index `i`, if the retire counter has not passed it. -/
def entryAt (s : State) (q : Nat) (i : Word) : Option Entry :=
  let x := queueOf s q
  x.entries[(i - x.retired).toNat]?

def setEntry (s : State) (q : Nat) (i : Word) (e : Entry) : State :=
  updQueue s q (fun x => { x with entries := lset x.entries (i - x.retired).toNat e })

/-- Position of the head: the first entry not yet dispatched. -/
def headPos (x : Queue) : Nat := x.entries.findIdx (fun e => decide (e.st = .queued))

def headEntry (x : Queue) : Option Entry := x.entries[headPos x]?

/-- Queue index of the head. -/
def headIndex (x : Queue) : Word := x.retired + BitVec.ofNat 64 (headPos x)

/-- Dispatched and not yet retired. -/
def inFlight (e : Entry) : Bool :=
  match e.st with
  | .running _ => true
  | .finished _ => true
  | _ => false

/-- The queues of a unit. -/
def unitQueues (cls unit : Nat) : List Nat := (List.range (queueCount cls)).map (mkQ cls unit)

/-- Descriptors of a unit in its execution slots, on the unit itself or on its stand-in. -/
def slotsUsed (s : State) (cls unit : Nat) (spare : Bool) : Nat :=
  ((unitQueues cls unit).map (fun q =>
    ((queueOf s q).entries.filter (fun e => inFlight e && e.onSpare == spare)).length)).foldl (· + ·) 0

/-- The indices of a queue's descriptors that satisfy `p`, oldest first. -/
def indicesOf (x : Queue) (p : Entry → Bool) : List Word :=
  ((List.range x.entries.length).filter (fun k => match x.entries[k]? with | some e => p e | none => false)).map
    (fun k => x.retired + BitVec.ofNat 64 k)

/-! ## Retirement -/

/-- A rejection or a failure is noted; an OK retirement is counted; a cancellation is neither (R97). -/
def noteResult (s : State) (q : Nat) (i : Word) (code : Nat) : State :=
  if code = 0 then
    ctrAdd (updQueue s q (fun x => { x with completed := x.completed + 1 })) (0x9100 + qClass q) 1
  else if code = cCancelled then s
  else updQueue s q (fun x => { x with
    rejects := x.rejects + 1, sticky := stick x.sticky 1,
    lastErr := put (i.toNat % 2 ^ 40) 8 ||| put code 0,
    halted := x.halted || bitAt x.ctl 2 })

/-- SG increments SIG_CTR when the counter passes the descriptor (R87). -/
def signal (s : State) (e : Entry) : State :=
  let w := hdr e
  if hdrSG w && softCtr (hdrSigCtr w) then ctrAdd s (hdrSigCtr w) 1 else s

/-- The retire counter passes the retired prefix (R86). -/
def passPrefix : Nat → State → Nat → State
  | 0, s, _ => s
  | k + 1, s, q =>
    match (queueOf s q).entries with
    | e :: rest =>
      if entryDone e then
        passPrefix k (signal (updQueue s q (fun x => { x with entries := rest, retired := x.retired + 1 })) e) q
      else s
    | [] => s

/-- The entry retires with a code; the counter passes what it can. -/
def retireEntry (s : State) (q : Nat) (i : Word) (code : Nat) : State :=
  match entryAt s q i with
  | none => s
  | some e =>
    let s := noteResult (setEntry s q i { e with st := .retired code }) q i code
    passPrefix (queueOf s q).entries.length s q

/-- A running descriptor has done its work, with a code. -/
def finish (s : State) (q : Nat) (i : Word) (code : Nat) : State :=
  match entryAt s q i with
  | none => s
  | some e => setEntry s q i { e with st := .finished code }

/-- A running descriptor's work moves on. -/
def setWork (s : State) (q : Nat) (i : Word) (w : Work) : State :=
  match entryAt s q i with
  | none => s
  | some e => setEntry s q i { e with st := .running w }

/-- The descriptor with index `i` of a queue of class `cls` runs and has opcode `op`: its entry and its work. -/
def runningOp (s : State) (q : Nat) (i : Word) (cls op : Nat) : Option (Entry × Work) :=
  match entryAt s q i with
  | some e =>
    match e.st with
    | .running w => if qClass q = cls && qExists q && hdrOp (hdr e) = op then some (e, w) else none
    | _ => none
  | none => none

/-- Who a descriptor is, for its accesses and records. -/
def descWho (q : Nat) (e : Entry) : Who :=
  { cls := qClass q, unit := qUnit q, op := hdrOp (hdr e), tenant := e.tenant.toNat,
    agent := engineAgent (qClass q) (qUnit q) }

/-- Work of a class counted (R425, R488). -/
def countWork (s : State) (cls : Nat) (e : Entry) (n : Nat) : State :=
  tally (ctrAdd s (0x9110 + cls) n) e.tenant.toNat cls n

/-- The residue checks of a descriptor's operations: their mismatches are recorded; `flag` sets its unit's bit (R406). -/
def descResidue (s : State) (q : Nat) (i : Word) (e : Entry) (r : List Residue) (flag : State → State) : Bool × State :=
  let c := residues s (descWho q e) i 0 r
  (c.1, if mismatch r then flag c.2 else c.2)

/-- The part of `n` operations that was done before the one that failed: free, since nothing says where it lay. -/
def partOf (s : State) (n : Nat) : Nat := Config.pick s.choice 0 % (n + 1)

/-- The work done before a failure of R96, which is counted (R426). -/
def countPart (s : State) (cls : Nat) (e : Entry) (n : Nat) : State := countWork (tick1 s) cls e (partOf s n)

/-- `d`, the bytes from `b` on, with those that `l`, the bytes from `a` on, also gives taken from `l`. -/
def overlay (b : Nat) (d : List Byte) (a : Nat) (l : List Byte) : List Byte :=
  (List.range d.length).map (fun k => if a ≤ b + k && b + k < a + l.length then l.getD (b + k - a) 0 else d.getD k 0)

/-- `n` bytes from `a` are undefined from now on: free bytes, in their tier and in every copy of their lines. That is no access:
nothing is counted, and no code is checked. Host memory is the host's. -/
def undefine (s : State) (a n : Nat) : State :=
  if n = 0 || !(inNode a) then s
  else
    let l := freeBytes s n
    let s := memSet (tick1 s) a l
    { s with caches := s.caches.map (fun g => (g.1, g.2.map (fun e =>
        if overlaps (64 * e.1) 64 a n then (e.1, { e.2 with data := overlay (64 * e.1) e.2.data a l }) else e))) }

/-! ## The checks of R94 -/

/-- One check: its place in the order of R94, whether it fails, its code. -/
abbrev Chk := Nat × Bool × Nat

/-- The first check that fails, by the order of R94 and then as listed. -/
def firstFail (l : List Chk) : Option Nat :=
  (List.range 11).findSome? (fun k => (l.find? (fun c => c.1 = k && c.2.1)).map (fun c => c.2.2))

/-- A buffer of a descriptor: base, size, the bytes its counts need, whether the descriptor writes it. -/
structure Buf where
  base : Nat
  size : Nat
  need : Nat
  out : Bool

/-- The address lies where a buffer may: node memory, or a window where the engine's chapter allows it (R242). -/
def bufArea (a : Nat) (t3 : Bool) : Bool :=
  match area a with
  | .t3 _ _ => t3
  | _ => inNode a

/-- Some output overlaps another buffer. -/
def anyOverlap : List Buf → Bool
  | [] => false
  | b :: r => r.any (fun c => (b.out || c.out) && overlaps b.base b.size c.base c.size) || anyOverlap r

/-- Steps 7 to 9 for each buffer and step 10 for all (R94, R95). -/
def bufChecks (s : State) (t3 : Bool) (l : List Buf) : List Chk :=
  [(7, l.any (fun b => b.size != 0 && b.base % 64 != 0), cBadAlign),
   (8, l.any (fun b => b.size != 0 && !(bufArea b.base t3 && withinTier s b.base b.size)), cBadAddr),
   (9, l.any (fun b => decide (b.size < b.need)), cBufOverrun),
   (10, anyOverlap l, cOverlap)]

/-- A status record or report of `n` bytes at `a` in T0 or T1, 0 for none. -/
def recChecks (s : State) (a n : Nat) (t01 : Bool) : List Chk :=
  if a = 0 then []
  else
    let ok := bufArea a false && withinTier s a n && (!t01 || tierOf a != some 2)
    [(7, a % 64 != 0, cBadAlign), (8, !ok, cBadAddr)]

/-! ## Shapes of descriptors: body length and reserved bits (R83, R84) -/

/-- The masks of reserved bits of each body word. -/
abbrev Shape := List Word

def m6356 : Word := mask 63 56

/-- Steps 1 to 3 of R94, which run at the head. -/
def headChecks (e : Entry) (shape : Option Shape) : Option Nat :=
  let w := hdr e
  match shape with
  | none => some cBadOpcode
  | some l =>
    firstFail [
      (1, hdrLen w != 1 + bit (hdrWT w) + l.length, cBadLen),
      (2, (w &&& (mask 31 24 ||| mask 15 11 ||| mask 7 5)) != 0 || (!(hdrWT w) && hdrWaitCtr w != 0)
        || (!(hdrSG w) && hdrSigCtr w != 0)
        || (List.range l.length).any (fun k => (bodyWord e k &&& l.getD k 0) != 0), cReserved),
      (3, hdrWT w && !((hdrWaitCtr w < 0x9000 && qExists (hdrWaitCtr w)) || softCtr (hdrWaitCtr w)), cBadWaitCtr),
      (3, hdrSG w && !(softCtr (hdrSigCtr w)), cBadSigCtr)]

end Sys2Proof.Machine
end

