-- ==== Sys2Proof/Machine/Channels.lean ====
section
/-!
DEFINITION. Chapter 12: the channels, their queues and their modes (R264 to R270).
-/
namespace Sys2Proof.Machine
open Sys2Proof

/-! ## The channel queue -/

/-- A request enters the channel queue, or waits upstream where it is full (R264). -/
def chanEnter (s : State) (ch : Nat) (r : ChanReq) : State :=
  updChan s ch (fun c =>
    if c.queue.length < chanDepth s && c.upstream.isEmpty then { c with queue := c.queue ++ [(r, s.tb.time)] }
    else { c with upstream := c.upstream ++ [(r, s.tb.time)], held := true })

/-- The request lies within one 64-byte unit of the channel. -/
def chanReqOk (ch : Nat) (r : ChanReq) : Bool :=
  area r.addr = .t2 ch && r.size != 0 && r.addr % 64 + r.size ≤ 64
    && (match r.data with | some l => l.length = r.size | none => true)

/-- CHANNEL_REQUEST (R264). -/
def execChannelRequest (ch : Fin 512) (req : ChanReq) (s : State) : Ans :=
  .next (if chanReqOk ch.val req && mapped s req.addr then chanEnter s ch.val req else s)

/-! ## Modes (R265) -/

/-- The channel queue stops issuing, and the channel leaves memory mode. -/
def toProc (s : State) (ch : Nat) : State := updChan s ch (fun c => { c with mode := .toProc, windowStart := none })

def toMem (s : State) (ch : Nat) : State := updChan s ch (fun c => { c with mode := .toMem })

/-- MIGRATE brings its channel to memory mode and keeps it there (R459). -/
def chanPinned (s : State) (ch : Nat) : Bool := s.boot.svc = .migrate ch

/-- The transitions out of MEM, with nothing left to serve or the window closed. -/
def memNext (s : State) (ch : Nat) : State :=
  let c := chanOf s ch
  if chanPinned s ch then s
  else if nbuWaiting s ch && (c.queue.isEmpty || c.windowStart = none) then toProc s ch
  else if c.home && c.queue.isEmpty && !(nbuWaiting s ch) then toProc s ch
  else s

/-- CHANNEL_DECISION (R265, R266): in MEM the window serves the requests present and those that enter behind them, then
the channel takes the transition that the table gives; in PROC without a command it gives way to requests or goes home. -/
def execChannelDecision (ch : Fin 512) (s : State) : Ans :=
  .next (
    let ch := ch.val
    let c := chanOf s ch
    match c.mode with
    | .mem => memNext (chanServeN (c.queue.length + c.upstream.length) s ch) ch
    | .proc =>
      if c.bcast != none || nbuWaiting s ch && !(chanPinned s ch) then s
      else if !c.queue.isEmpty || !c.home || chanPinned s ch then toMem s ch
      else s
    | _ => s)

/-- TO_PROC_DONE (R265): the NBU takes the banks; work left over goes on at once. -/
def execToProcDone (ch : Fin 512) (s : State) : Ans :=
  .next (
    if (chanOf s ch.val).mode = .toProc then
      updChan s ch.val (fun c => { c with mode := .proc, bcast := if c.more then some s.tb.time else none, nbuWait := none })
    else s)

/-- TO_MEM_DONE (R265): the queue resumes and a memory window opens with the slice of MCH_CHMODE. -/
def execToMemDone (ch : Fin 512) (s : State) : Ans :=
  .next (
    if (chanOf s ch.val).mode = .toMem then
      updChan s ch.val (fun c => { c with mode := .mem, windowStart := some s.tb.time, winSlice := c.slice })
    else s)

/-- The moment the slice of an open window counts from (R266). -/
def sliceStart (c : Chan) : Option Nat :=
  match c.windowStart, c.nbuWait with
  | some t, some u => some (max t.toNat u.toNat)
  | _, _ => none

/-- WINDOW_SLICE_EXPIRE (R266): the requests present are served, then the window closes. -/
def execWindowSliceExpire (ch : Fin 512) (s : State) : Ans :=
  .next (
    let ch := ch.val
    let c := chanOf s ch
    match c.mode, sliceStart c with
    | .mem, some t =>
      if nbuWaiting s ch && t + max 1 c.winSlice * 1000 ≤ now s then
        let s := chanServeN c.queue.length s ch
        let s := updChan s ch (fun c => { c with windowStart := none, sticky := stickIf c.sticky 3 (!c.queue.isEmpty) })
        memNext s ch
      else s
    | _, _ => s)

/-- Work remains when a command ends: only a command that reached a row boundary 19.5 µs after it began leaves any, and
which does is not the program's to know (R267). -/
def workLeft (s : State) (t : Word) : Bool := t.toNat + 19500 ≤ now s && Config.pick s.choice 0 % 2 = 1

/-- BROADCAST_END (R265, R267): what the command has written is in the banks. -/
def execBroadcastEnd (ch : Fin 512) (s : State) : Ans :=
  .next (
    let ch := ch.val
    let c := chanOf s ch
    match c.mode, c.bcast with
    | .proc, some t =>
      let more := workLeft s t
      let s := bcastEnd s ch more
      if !c.queue.isEmpty then
        updChan s ch (fun c => { c with mode := .toMem, nbuWait := if more then some s.tb.time else c.nbuWait })
      else if more then updChan s ch (fun c => { c with bcast := some s.tb.time })
      else updChan s ch (fun c => { c with mode := if c.home then .proc else .toMem })
    | _, _ => s)

/-! ## Registers (R270) -/

def wrChmode (s : State) (ch : Nat) (v : Word) : State :=
  updChan s ch (fun c => { c with home := bitAt v 0, slice := fld v 15 8 })

/-- MCH_CHMODE_WRITE. -/
def execMchChmodeWrite (a : Acc) (ch : Fin 512) (v : Word) (s : State) : Ans :=
  .next (accDo s a (fun s => wrChmode s ch.val v))

def rdChmode (s : State) (ch : Nat) : Word :=
  let c := chanOf s ch
  put c.slice 8 ||| put (bit c.home) 0

def chModeCode : ChMode → Nat
  | .mem => 0
  | .toProc => 1
  | .proc => 2
  | .toMem => 3

def rdChstat (s : State) (ch : Nat) : Word :=
  let c := chanOf s ch
  put c.maxWait 48 ||| put c.queue.length 32 ||| put (bit c.held) 4 ||| c.sticky ||| put (chModeCode c.mode) 0

/-- A read of MCH_CHSTAT clears MAXWAIT_US. -/
def clrChstat (s : State) (ch : Nat) : State := updChan s ch (fun c => { c with maxWait := 0 })

def wrChstat (s : State) (ch : Nat) (v : Word) : State :=
  updChan s ch (fun c => { c with held := c.held && !(bitAt v 4), sticky := w1c c.sticky v (mask 3 3) })

end Sys2Proof.Machine
end

