-- ==== Sys2Proof/Machine/Numbers.lean ====
section
/-!
DEFINITION. Chapter 05: the fifteen number formats (R104 to R106), conversion and rounding (R108 to R110), FP32
arithmetic and accumulation in a free order (R126 to R128), block scales (R111 to R114).
Values are exact: a sign, a magnitude m and an exponent e stand for m x 2^e.
-/
namespace Sys2Proof.Machine
open Sys2Proof

inductive Num where
  | nan
  | inf (neg : Bool)
  | fin (neg : Bool) (m : Nat) (e : Int)
  deriving DecidableEq, Repr

def Num_zero : Num := .fin false 0 0

/-- Layout of a floating-point format: exponent bits, mantissa bits, bias, infinity, largest finite exponent field and
its largest mantissa, canonical NaN (none where the format has no NaN). -/
structure Fl where
  eb : Nat
  mb : Nat
  bias : Nat
  hasInf : Bool
  topE : Nat
  topM : Nat
  nan : Option Nat

/-- The floating-point formats by code (R104, R105, R110). -/
def floatFmt : Nat → Option Fl
  | 0x0 => some ⟨8, 23, 127, true, 254, 0x7FFFFF, some 0x7FC00000⟩
  | 0x1 => some ⟨8, 7, 127, true, 254, 0x7F, some 0x7FC0⟩
  | 0x2 => some ⟨5, 10, 15, true, 30, 0x3FF, some 0x7E00⟩
  | 0x3 => some ⟨4, 3, 7, false, 15, 6, some 0x7F⟩
  | 0x4 => some ⟨5, 2, 15, true, 30, 3, some 0x7E⟩
  | 0x5 => some ⟨3, 2, 3, false, 7, 3, none⟩
  | 0x6 => some ⟨2, 3, 1, false, 3, 7, none⟩
  | 0x7 => some ⟨2, 1, 1, false, 3, 1, none⟩
  | _ => none

/-- Width in bits of a format; 0 for the reserved code. -/
def fmtBits : Nat → Nat
  | 0x0 => 32 | 0x1 => 16 | 0x2 => 16 | 0x3 => 8 | 0x4 => 8 | 0x5 => 6 | 0x6 => 6 | 0x7 => 4
  | 0x8 => 32 | 0x9 => 16 | 0xA => 8 | 0xB => 8 | 0xC => 4 | 0xD => 1 | 0xE => 8 | _ => 0

/-- The range of an integer format. -/
def intRange : Nat → Option (Int × Int)
  | 0x8 => some (-2147483648, 2147483647)
  | 0x9 => some (-32768, 32767)
  | 0xA => some (-128, 127)
  | 0xB => some (0, 255)
  | 0xC => some (-8, 7)
  | _ => none

def intNum (i : Int) : Num := .fin (decide (i < 0)) i.natAbs 0

/-- The value of an encoding (R104, R105). -/
def decodeNum (fmt bits : Nat) : Num :=
  match floatFmt fmt with
  | some f =>
    let m := bits % 2 ^ f.mb
    let e := bits / 2 ^ f.mb % 2 ^ f.eb
    let neg := decide (bits / 2 ^ (f.mb + f.eb) % 2 = 1)
    if e = 2 ^ f.eb - 1 && f.hasInf then (if m = 0 then .inf neg else .nan)
    else if f.nan.isSome && !f.hasInf && e = 2 ^ f.eb - 1 && m = 2 ^ f.mb - 1 then .nan
    else if e = 0 then .fin neg m (1 - (f.bias : Int) - f.mb)
    else .fin neg (m + 2 ^ f.mb) ((e : Int) - f.bias - f.mb)
  | none =>
    match fmt with
    | 0xB => .fin false (bits % 256) 0
    | 0xD => .fin (decide (bits % 2 = 0)) 1 0
    | 0xE => if bits % 256 = 255 then .nan else .fin false 1 ((bits % 256 : Nat) - 127)
    | _ => intNum (sint (fmtBits fmt) bits)

/-- Rounding of m x 2^e, m > 0, to `p` bits with no bit below 2^emin; mode 0 RNE, 1 RTZ, 2 RNA (R108). -/
def roundMag (mode m : Nat) (e : Int) (p : Nat) (emin : Int) : Nat × Int :=
  let bl := m.log2 + 1
  let e' := max (e + bl - p) emin
  if e' ≤ e then (m * 2 ^ (e - e').toNat, e')
  else
    let sh := (e' - e).toNat
    let q := m >>> sh
    let r := m - q <<< sh
    let half := 1 <<< (sh - 1)
    let up := if mode = 1 then false else if mode = 2 then decide (r ≥ half)
      else decide (r > half) || (r = half && q % 2 = 1)
    (if up then q + 1 else q, e')

/-- What a conversion answers: the encoding and whether the element counts SAT, UFL or NANIN. -/
structure Conv where
  bits : Nat
  sat : Bool := false
  ufl : Bool := false
  nanIn : Bool := false
  deriving DecidableEq, Repr

/-- Conversion to a floating-point format (R108 to R110). -/
def toFloat (f : Fl) (mode : Nat) (sat : Bool) (x : Num) : Conv :=
  let sgn := fun (neg : Bool) => if neg then 2 ^ (f.eb + f.mb) else 0
  let big := fun (neg : Bool) => f.topE * 2 ^ f.mb + f.topM + sgn neg
  let infE := (2 ^ f.eb - 1) * 2 ^ f.mb
  match x with
  | .nan => ⟨f.nan.getD 0, false, false, true⟩
  | .inf neg => if f.hasInf then ⟨infE + sgn neg, false, false, false⟩ else ⟨big neg, true, false, false⟩
  | .fin neg m e =>
    if m = 0 then ⟨sgn neg, false, false, false⟩
    else
      let emin := 1 - (f.bias : Int) - f.mb
      let r := roundMag mode m e (f.mb + 1) emin
      if r.1 = 0 then ⟨sgn neg, false, true, false⟩
      else
        let q := if r.1 = 2 ^ (f.mb + 1) then (2 ^ f.mb, r.2 + 1) else r
        if q.1 < 2 ^ f.mb then ⟨q.1 + sgn neg, false, false, false⟩
        else
          let ef := q.2 + f.mb + f.bias
          if ef > f.topE || (ef = f.topE && q.1 - 2 ^ f.mb > f.topM) then
            (if f.hasInf && !sat && mode != 1 then ⟨infE + sgn neg, true, false, false⟩ else ⟨big neg, true, false, false⟩)
          else ⟨ef.toNat * 2 ^ f.mb + (q.1 - 2 ^ f.mb) + sgn neg, false, false, false⟩

/-- Rounding to an integer. -/
def toInteger (mode : Nat) (neg : Bool) (m : Nat) (e : Int) : Int :=
  let v := if e ≥ 0 then m * 2 ^ e.toNat else (roundMag mode m e (m.log2 + 2) 0).1
  let v := if m = 0 then 0 else v
  if neg then -(v : Int) else v

/-- Conversion of a value to any element format. -/
def convNum (fmt mode : Nat) (sat : Bool) (x : Num) : Conv :=
  match floatFmt fmt with
  | some f => toFloat f mode sat x
  | none =>
    if fmt = 0xD then
      match x with
      | .nan => ⟨0, false, false, true⟩
      | .inf neg => ⟨bit (!neg), false, false, false⟩
      | .fin neg m _ => ⟨bit (!neg && m != 0), false, false, false⟩
    else
      match intRange fmt with
      | none => ⟨0, false, false, false⟩
      | some (lo, hi) =>
        let enc := fun (i : Int) => (BitVec.ofInt (fmtBits fmt) i).toNat
        match x with
        | .nan => ⟨0, false, false, true⟩
        | .inf neg => ⟨enc (if neg then lo else hi), true, false, false⟩
        | .fin neg m e =>
          let i := toInteger mode neg m e
          if i < lo then ⟨enc lo, true, false, false⟩
          else if i > hi then ⟨enc hi, true, false, false⟩
          else ⟨enc i, false, false, false⟩

/-! ## Exact arithmetic and rounding to FP32 -/

/-- The value as a multiple of 2^e, e at most its own exponent. -/
def scaled (neg : Bool) (m : Nat) (e e0 : Int) : Int :=
  let v := (m : Int) * 2 ^ (e - e0).toNat
  if neg then -v else v

def isNan : Num → Bool
  | .nan => true
  | _ => false

def numNeg : Num → Num
  | .nan => .nan
  | .inf n => .inf (!n)
  | .fin n m e => .fin (!n) m e

def numAbs : Num → Num
  | .nan => .nan
  | .inf _ => .inf false
  | .fin _ m e => .fin false m e

/-- The exact sum; ∞ − ∞ is NaN. -/
def numAdd (x y : Num) : Num :=
  match x, y with
  | .nan, _ => .nan
  | _, .nan => .nan
  | .inf a, .inf b => if a = b then .inf a else .nan
  | .inf a, _ => .inf a
  | _, .inf b => .inf b
  | .fin a m e, .fin b k f =>
    let e0 := min e f
    let v := scaled a m e e0 + scaled b k f e0
    .fin (if v = 0 then a && b else decide (v < 0)) v.natAbs e0

def numSub (x y : Num) : Num := numAdd x (numNeg y)

/-- The exact product; 0 x ∞ is NaN. -/
def numMul (x y : Num) : Num :=
  match x, y with
  | .nan, _ => .nan
  | _, .nan => .nan
  | .inf a, .inf b => .inf (a != b)
  | .inf a, .fin b m _ => if m = 0 then .nan else .inf (a != b)
  | .fin b m _, .inf a => if m = 0 then .nan else .inf (a != b)
  | .fin a m e, .fin b k f => .fin (a != b) (m * k) (e + f)

/-- The value times 2^k. -/
def numShift (x : Num) (k : Int) : Num :=
  match x with
  | .fin a m e => .fin a m (e + k)
  | y => y

/-- Order of values that are not NaN. -/
def numLt (x y : Num) : Bool :=
  match x, y with
  | .nan, _ => false
  | _, .nan => false
  | .inf a, .inf b => a && !b
  | .inf a, _ => a
  | _, .inf b => !b
  | .fin a m e, .fin b k f => decide (scaled a m e (min e f) < scaled b k f (min e f))

def numEq (x y : Num) : Bool := !(numLt x y) && !(numLt y x) && x != .nan && y != .nan

/-- FP32 bits of a value under RNE. -/
def f32 (x : Num) : BitVec 32 := BitVec.ofNat 32 (convNum 0 0 false x).bits

def ofF32 (b : BitVec 32) : Num := decodeNum 0 b.toNat

/-- A value rounded to FP32 under RNE. -/
def rnd32 (x : Num) : Num := ofF32 (f32 x)

def add32 (x y : Num) : Num := rnd32 (numAdd x y)
def sub32 (x y : Num) : Num := rnd32 (numSub x y)
def mul32 (x y : Num) : Num := rnd32 (numMul x y)

/-- Integer square root by bits, highest first. -/
def isqrtN : Nat → Nat → Nat → Nat
  | 0, _, r => r
  | k + 1, v, r => isqrtN k v (if (r + 2 ^ k) * (r + 2 ^ k) ≤ v then r + 2 ^ k else r)

/-- Square root to 100 bits and more, its last bit odd where the root is not exact. -/
def numSqrt (x : Num) : Num :=
  match x with
  | .nan => .nan
  | .inf n => if n then .nan else .inf false
  | .fin n m e =>
    if m = 0 then .fin n 0 0
    else if n then .nan
    else
      let up : Nat := 200 + (if (e - 200) % 2 = 0 then 0 else 1)
      let v : Nat := m * 2 ^ up
      let e' : Int := e - (up : Int)
      let r := isqrtN (v.log2 / 2 + 1) v 0
      .fin false (2 * r + (if r * r = v then 0 else 1)) (e' / 2 - 1)

/-- Square root rounded to FP32. -/
def sqrt32 (x : Num) : Num := rnd32 (numSqrt x)

/-- Quotient to 320 bits and more, its last bit odd where the quotient is not exact. -/
def numDiv (x y : Num) : Num :=
  match x, y with
  | .nan, _ => .nan
  | _, .nan => .nan
  | .inf _, .inf _ => .nan
  | .inf a, .fin b _ _ => .inf (a != b)
  | .fin a _ _, .inf b => .fin (a != b) 0 0
  | .fin a m e, .fin b k f =>
    if k = 0 then (if m = 0 then .nan else .inf (a != b))
    else
      let v := m * 2 ^ 320
      let q := v / k
      .fin (a != b) (2 * q + (if v % k = 0 then 0 else 1)) (e - f - 321)

/-- Quotient rounded to FP32. -/
def div32 (x y : Num) : Num := rnd32 (numDiv x y)

/-- Accumulation in FP32 in a free order: any two of the values are added and rounded, until one is left (R126, R128). -/
def accum (c : Nat) : Nat → List Num → Num
  | 0, l => l.headD Num_zero
  | k + 1, l =>
    match l with
    | [] => Num_zero
    | [x] => x
    | _ =>
      let i := Config.pick c (2 * k) % l.length
      let x := l.getD i Num_zero
      let l' := l.eraseIdx i
      let j := Config.pick c (2 * k + 1) % l'.length
      let y := l'.getD j Num_zero
      accum c k (add32 x y :: l'.eraseIdx j)

/-- The FP32 sum of exact terms in the free order of choice `c`. -/
def fsum (c : Nat) (l : List Num) : Num := rnd32 (accum c l.length l)

/-- Saturating INT32 accumulation in index order, with the number of clamps (R126, R127). -/
def isum (l : List Int) : Int × Nat :=
  l.foldl (fun a x =>
    let v := a.1 + x
    if v > 2147483647 then (2147483647, a.2 + 1)
    else if v < -2147483648 then (-2147483648, a.2 + 1)
    else (v, a.2)) (0, 0)

/-! ## Packed elements (R106) and block scales (R111 to R114) -/

/-- Bytes of a row of `n` elements. -/
def rowBytes (fmt n : Nat) : Nat := (n * fmtBits fmt + 7) / 8

/-- The row is a whole number of bytes, and of 3-byte groups for FP6. -/
def wholeRow (fmt n : Nat) : Bool := n * fmtBits fmt % 8 = 0 && (fmtBits fmt != 6 || n % 4 = 0)

/-- Element `i` of a packed row. -/
def elemBits (fmt : Nat) (row : List Byte) (i : Nat) : Nat :=
  let w := fmtBits fmt
  leNat ((row.drop (i * w / 8)).take ((i * w % 8 + w + 7) / 8)) / 2 ^ (i * w % 8) % 2 ^ w

/-- The encodings of the `n` elements of a row. -/
def rowElems (fmt n : Nat) (row : List Byte) : List Nat := (List.range n).map (elemBits fmt row)

/-- A row of packed elements. -/
def packRow (fmt : Nat) (l : List Nat) : List Byte :=
  let v := l.foldr (fun x a => x % 2 ^ fmtBits fmt + a * 2 ^ fmtBits fmt) 0
  leBytes (rowBytes fmt l.length) v

/-- The formats that take block scales (R111). -/
def scalable (fmt : Nat) : Bool := fmt = 3 || fmt = 4 || fmt = 5 || fmt = 6 || fmt = 7 || fmt = 0xA || fmt = 0xC

/-- Elements of a block by the two-bit code; 0 for no scales. -/
def blockLen : Nat → Nat
  | 1 => 16
  | 2 => 32
  | _ => 0

/-- An element under a scale byte (R112). -/
def applyScale (x : Num) (sc : Nat) : Num := if sc % 256 = 255 then .nan else numShift x ((sc % 256 : Nat) - 127)

/-- The smallest s with amax ≤ maxf x 2^s, clamped to ±127 (R114): maxf is m x 2^e. -/
def blockExp (fmt : Nat) (amax : Num) : Int :=
  match amax with
  | .fin _ m e =>
    if m = 0 then 0
    else
      let top : Num := match floatFmt fmt with
        | some f => .fin false (f.topM + 2 ^ f.mb) ((f.topE : Int) - f.bias - f.mb)
        | none => intNum ((intRange fmt).getD (0, 1)).2
      match top with
      | .fin _ k f =>
        let g : Int := (e + m.log2) - (f + k.log2)
        let s := if numLt (numShift top (g - 1)) amax then
            (if numLt (numShift top g) amax then g + 1 else g) else g - 1
        max (-127) (min 127 s)
      | _ => 0
  | _ => 0

/-- One block quantized (R114): the scale byte and the converted elements. -/
def quantBlock (fmt mode : Nat) (sat : Bool) (xs : List Num) : Nat × List Conv :=
  if xs.any (fun x => match x with | .fin _ _ _ => false | _ => true) then
    (255, xs.map (fun x => match x with
      | .nan => ⟨0, false, false, true⟩
      | .inf _ => ⟨0, true, false, false⟩
      | .fin _ _ _ => ⟨0, false, false, false⟩))
  else
    let amax := xs.foldl (fun a x => if numLt a (numAbs x) then numAbs x else a) Num_zero
    let e := blockExp fmt amax
    ((e + 127).toNat, xs.map (fun x => convNum fmt mode sat (numShift x (-e))))

end Sys2Proof.Machine
end

