-- ==== Sys2Proof/Machine/Elementary.lean ====
section
/-!
DEFINITION. Functions whose results the spec bounds and does not fix: an FP32 value that is free within a bound about the
exact value (R134, R138, R179). The exact value is computed to far more bits than FP32 holds.
-/
namespace Sys2Proof.Machine
open Sys2Proof

/-- The unit in the last place of FP32 at the size of `x`. -/
def ulp32 (x : Num) : Num :=
  match x with
  | .fin _ 0 _ => .fin false 1 (-149)
  | .fin _ m e => .fin false 1 (max (e + m.log2) (-126) - 23)
  | y => numAbs y

/-- The `c`-th free FP32 value. -/
def free32 (c : Nat) : Num := ofF32 (BitVec.ofNat 32 (Config.freeWord c).toNat)

/-- Any FP32 value within `bound` of `x`, as choice `c` has it: the free value where it lies there, else `x` rounded. -/
def within (c : Nat) (x bound : Num) : Num :=
  let d := numAbs (numSub (free32 c) x)
  if isNan d || numLt bound d then rnd32 x else free32 c

/-- The value within `n` units in the last place of `x`. -/
def withinUlps (c n : Nat) (x : Num) : Num := within c x (numMul (intNum n) (ulp32 x))

/-! ## Exponentials in fixed point: an integer stands for its 2^-160-th part -/

def fixBits : Nat := 160

/-- A value in fixed point, held within ±512. -/
def toFix (x : Num) : Int :=
  let top : Int := 512 * 2 ^ fixBits
  match x with
  | .fin n m e =>
    if m = 0 then 0
    else
      let v : Int := if e + m.log2 ≥ 9 then top
        else if e + fixBits ≥ 0 then (m : Int) * 2 ^ (e + fixBits).toNat else (m : Int) / 2 ^ (-(e + fixBits)).toNat
      if n then -v else v
  | .inf n => if n then -top else top
  | .nan => 0

/-- The natural logarithm of 2: the sum of 1 / (k 2^k). -/
def ln2Fix : Int := ((List.range 160).foldl (fun a k => a + 2 ^ fixBits / ((k + 1) * 2 ^ (k + 1))) (0 : Nat) : Nat)

/-- The power series of the exponential at a fraction of ln 2, `n` terms from term `k` with value `t`. -/
def expSeries (r : Int) : Nat → Nat → Int → Int
  | 0, _, _ => 0
  | n + 1, k, t => t + expSeries r n (k + 1) (t * r / ((k + 1 : Nat) * 2 ^ fixBits))

/-- e^x for x within ±512. -/
def numExp (x : Num) : Num :=
  let v := toFix x
  let k := v / ln2Fix
  .fin false (expSeries (v - k * ln2Fix) 40 0 (2 ^ fixBits)).toNat (k - fixBits)

/-- 1 / (1 + e^-x). -/
def sigmoid (x : Num) : Num := numDiv (intNum 1) (numAdd (intNum 1) (numExp (numNeg x)))

/-- The square root of 2 / π to 40 decimals, and the cubic coefficient of the tanh form, as quotients. -/
def geluRoot : Num := numDiv (intNum 7978845608028653558798921198687637369517) (intNum (10 ^ 40))
def geluCubic : Num := numDiv (intNum 44715) (intNum 1000000)

/-- x / (1 + e^-x). -/
def siluExact (x : Num) : Num := numMul x (sigmoid x)

/-- The tanh form: x / 2 times 1 + tanh u with u = sqrt(2/π) (x + 0.044715 x^3), which is x / (1 + e^-2u). -/
def geluExact (x : Num) : Num :=
  let u := numMul geluRoot (numAdd x (numMul geluCubic (numMul x (numMul x x))))
  numMul x (sigmoid (numShift u 1))

/-- A function of R134 at the FP32 value `x`: within 2^-20 |x| + 2^-126 of its exact value; at an infinity that bound leaves
any value. The bound's v is taken as the function's rounded input (DEDUCED, log 28). -/
def boundedFn (c : Nat) (f : Num → Num) (x : Num) : Num :=
  match x with
  | .fin _ _ _ => within c (f x) (numAdd (numShift (numAbs x) (-20)) (.fin false 1 (-126)))
  | .inf _ => free32 c
  | .nan => .nan

/-- e^(x - m) within 2 units in the last place (R138); 0 for a score of −∞. -/
def expTerm (c : Nat) (m x : Num) : Num := if x = .inf true then Num_zero else withinUlps c 2 (numExp (numSub x m))

end Sys2Proof.Machine
end

