-- ==== Sys2Proof/Machine/Attn.lean ====
section
/-!
DEFINITION. One row of attention (R138, R276): the largest score, the sum of exponentials and the weighted sum of values.
-/
namespace Sys2Proof.Machine
open Sys2Proof

/-- A partial result (R138, R139). -/
structure Partial where
  m : Num
  s : Num
  o : List Num

def negInf : Num := .inf true

/-- The score of one key (R138): exact products summed in FP32, scaled and rounded once. -/
def score (c : Nat) (sm : Num) (q k : List Num) : Num := mul32 (fsum c (List.zipWith numMul q k)) sm

def toBf16 (x : Num) : Num := decodeNum 1 (convNum 1 0 false x).bits

/-- The partial over the visible positions, from choice `c` on: `ks` and `vs` hold their keys and values, `hd` the head
dimension. A NaN score makes o and s NaN and leaves m open but for −∞, which R139 would take for a row without scores (log 121);
a score of +∞ makes s NaN, ∞ − ∞ (R126); a score of −∞ contributes nothing, whatever its value vector holds; all scores −∞ give
zeros. -/
def attnRow (c hd : Nat) (sm : Num) (q : List Num) (ks vs : List (List Num)) : Partial :=
  let n := ks.length
  let xs := (List.range n).map (fun j => score (c + j) sm q (ks.getD j []))
  let open_ := ofF32 (BitVec.ofNat 32 (Config.freeWord (c + n)).toNat)
  let nans := List.replicate hd Num.nan
  if xs.any isNan then ⟨if open_ = negInf then .nan else open_, .nan, nans⟩
  else
    let m := xs.foldl (fun a x => if numLt a x then x else a) negInf
    if m = .inf false then ⟨m, .nan, nans⟩
    else if m = negInf then ⟨negInf, Num_zero, List.replicate hd Num_zero⟩
    else
      let ps := (List.range n).map (fun j => expTerm (c + n + j) m (xs.getD j negInf))
      let s := fsum (c + 2 * n) ps
      let o := (List.range hd).map (fun d =>
        fsum (c + 2 * n + 1 + d) (((List.range n).filter (fun j => xs.getD j negInf != negInf)).map (fun j =>
          numMul (toBf16 (ps.getD j Num_zero)) ((vs.getD j []).getD d Num_zero))))
      ⟨m, s, o⟩

/-- An element of O where PART is 0 (R138): o / s is rounded to FP32, the engine's arithmetic of R126, before it is converted
to O_FMT; R138 does not say whether the quotient is rounded between (DESIGN CHOICE, log 104). -/
def attnOut (p : Partial) (v : Num) : Num :=
  if isNan v then v else if p.m = negInf then Num_zero else div32 v p.s

/-- Choices that one row uses. -/
def attnChoices (n hd : Nat) : Nat := 2 * n + hd + 2

/-- FP32 bytes of a value. -/
def f32Bytes (x : Num) : List Byte := leBytes 4 (f32 x).toNat

end Sys2Proof.Machine
end

