-- ==== Sys2Proof/Machine/Qte.lean ====
section
/-!
DEFINITION. Chapter 05: the quantize/transform engines (R115 to R125).
-/
namespace Sys2Proof.Machine
open Sys2Proof

/-! ## The descriptor -/

/-- The fields of a QTE body (R115). -/
structure QteD where
  rows : Nat
  cols : Nat
  srcF : Nat
  src : Nat
  dstF : Nat
  dst : Nat
  sblk : Nat
  sdir : Bool
  sat : Bool
  round : Nat
  inv : Bool
  scale : Nat
  log2b : Nat
  aux : Nat
  dstSize : Nat
  srcSize : Nat
  scaleSize : Nat
  auxSize : Nat
  report : Nat

def qteD (e : Entry) : QteD :=
  let w := bodyWord e
  { rows := fld (w 0) 63 32, cols := fld (w 0) 23 0, srcF := fld (w 1) 63 60, src := fld (w 1) 55 0,
    dstF := fld (w 2) 63 60, dst := fld (w 2) 55 0, sblk := fld (w 3) 63 62, sdir := bitAt (w 3) 61,
    sat := bitAt (w 3) 60, round := fld (w 3) 59 58, inv := bitAt (w 3) 57, scale := fld (w 3) 55 0,
    log2b := fld (w 4) 63 60, aux := fld (w 4) 55 0, dstSize := fld (w 5) 63 32, srcSize := fld (w 5) 31 0,
    scaleSize := fld (w 6) 63 32, auxSize := fld (w 6) 31 0, report := fld (w 7) 55 0 }

def qteShape : Nat → Option Shape
  | 1 | 2 | 3 | 4 => some [mask 31 24, mask 59 56, mask 59 56, mask 56 56, mask 59 56, 0, 0, m6356]
  | _ => none

/-- Scale bytes of a row. -/
def rowScales (cols sb : Nat) : Nat := if sb = 0 then 0 else (cols + sb - 1) / sb

/-- The formats an opcode accepts (R116). -/
def qteFmtOk (op : Nat) (d : QteD) : Bool :=
  let wide := fun (f : Nat) => f ≤ 7 || f = 0xA || f = 0xC
  let sets := match op with
    | 1 => d.srcF ≤ 0xD && d.dstF ≤ 0xD
    | 2 => d.srcF ≤ 2 && scalable d.dstF
    | _ => wide d.srcF && wide d.dstF
  sets && (op = 2 || d.sblk = 0 || scalable (if d.sdir then d.dstF else d.srcF))

/-- The operation computes and writes its scales. -/
def qteWritesScale (op : Nat) (d : QteD) : Bool := d.sblk != 0 && (op = 2 || (d.sdir && op ≥ 3))

def qteChecks (s : State) (op : Nat) (d : QteD) : List Chk :=
  let sb := blockLen d.sblk
  let auxNeed := if op = 3 then 2 ^ d.log2b / 8 else if op = 4 then 4 * d.cols else 0
  let inPlace := d.dst = d.src && (if op = 1 then fmtBits d.srcF = fmtBits d.dstF
    else op ≥ 3 && d.srcF = d.dstF && !(qteWritesScale op d))
  let b := fun (base size need : Nat) (out : Bool) => ({ base := base, size := size, need := need, out := out } : Buf)
  let src := b d.src d.srcSize (d.rows * rowBytes d.srcF d.cols) false
  let dst := b d.dst d.dstSize (d.rows * rowBytes d.dstF d.cols) true
  let sc := b d.scale d.scaleSize (d.rows * rowScales d.cols sb) (qteWritesScale op d)
  let ax := b d.aux d.auxSize auxNeed false
  let rp := if d.report = 0 then [] else [b d.report 16 16 true]
  let all := bufChecks s false ([src, dst, sc, ax] ++ rp)
  let nine := all.filter (fun c => c.1 != 10)
  let ten : List Chk := if inPlace then
      [(10, anyOverlap ([dst, sc, ax] ++ rp) || anyOverlap ([{ src with out := false }, sc, ax] ++ rp), cOverlap)]
    else all.filter (fun c => c.1 = 10)
  [(4, !(qteFmtOk op d), cBadFormat),
   (5, d.cols = 0 || d.sblk = 3 || d.round = 3 || (op = 2 && (d.sblk = 0 || !d.sdir))
     || (if op = 3 then d.log2b < 6 || d.log2b > 12 || d.cols % 2 ^ d.log2b != 0 else d.inv || d.log2b != 0)
     || (d.sblk = 0 && (d.scale != 0 || d.scaleSize != 0)) || (op ≤ 2 && (d.aux != 0 || d.auxSize != 0))
     || !(wholeRow d.srcF d.cols) || !(wholeRow d.dstF d.cols), cBadField)] ++ nine ++ ten

/-! ## The operations -/

/-- Stages of butterflies in the implementation's fixed order (R119). -/
def stageOrder : Nat → List Nat → List Nat
  | 0, l => l
  | k + 1, l =>
    let i := Config.rotStage k % l.length
    match l[i]? with
    | some x => x :: stageOrder k (l.eraseIdx i)
    | none => l

/-- One stage with distance `h`: sums and differences in FP32. -/
def butterfly (h : Nat) (x : List Num) : List Num :=
  (List.range x.length).map (fun j =>
    if j / h % 2 = 0 then add32 (x.getD j Num_zero) (x.getD (j + h) Num_zero)
    else sub32 (x.getD (j - h) Num_zero) (x.getD j Num_zero))

/-- The value times 2^(-k/2), rounded once to FP32. -/
def rootScale (k : Nat) (x : Num) : Num :=
  if k % 2 = 0 then rnd32 (numShift x (-(k / 2 : Nat)))
  else match x with
    | .fin n m e =>
      match sqrt32 (.fin false (2 * m * m) (2 * e - k - 1)) with
      | .fin _ m' e' => .fin n m' e'
      | y => y
    | y => y

def signBit (aux : List Byte) (j : Nat) : Bool := (aux.getD (j / 8) 0).toNat.testBit (j % 8)

/-- The rotation of one block of 2^k values (R119). -/
def rotateBlock (k : Nat) (inv : Bool) (aux : List Byte) (x : List Num) : List Num :=
  let flip := fun (l : List Num) => (List.range l.length).map (fun j =>
    let v := l.getD j Num_zero
    if signBit aux j then numNeg v else v)
  let x := x.map rnd32
  let x := if inv then x else flip x
  let y := (stageOrder k (List.range k)).foldl (fun y t => butterfly (2 ^ t) y) x
  let y := y.map (rootScale k)
  if inv then flip y else y

/-- The values of a source row, its scales applied where they belong to the source (R112, R113). -/
def srcRow (d : QteD) (row scales : List Byte) : List Num :=
  let sb := blockLen d.sblk
  (List.range d.cols).map (fun c =>
    let x := decodeNum d.srcF (elemBits d.srcF row c)
    if sb != 0 && !d.sdir then applyScale x (scales.getD (c / sb) 0).toNat else x)

/-- The transform of a row before its conversion. -/
def transformRow (op : Nat) (d : QteD) (aux : List Byte) (x : List Num) : List Num :=
  match op with
  | 3 => ((chunks (2 ^ d.log2b) x.length x).map (rotateBlock d.log2b d.inv aux)).flatten
  | 4 => (List.range x.length).map (fun c =>
      mul32 (x.getD c Num_zero) (decodeNum 0 (leNat ((aux.drop (4 * c)).take 4))))
  | _ => x

/-- The conversion of a row: its elements and the scales the engine computed. -/
def convertRow (op : Nat) (d : QteD) (scales : List Byte) (x : List Num) : List Conv × List Byte :=
  let sb := blockLen d.sblk
  if qteWritesScale op d then
    let bs := (chunks sb x.length x).map (quantBlock d.dstF d.round d.sat)
    ((bs.map Prod.snd).flatten, bs.map (fun b => BitVec.ofNat 8 b.1))
  else
    ((List.range x.length).map (fun c =>
      let v := x.getD c Num_zero
      let v := if sb != 0 && d.sdir then
          (let e := (scales.getD (c / sb) 0).toNat
           if e = 255 then .nan else numShift v (127 - (e : Int)))
        else v
      convNum d.dstF d.round d.sat v), [])

def sat32 (n : Nat) : Nat := min n (2 ^ 32 - 1)

/-- The saturation report of R122. -/
def reportBytes (sat ufl nan runs fmt : Nat) : List Byte :=
  wordBytes (put (sat32 sat) 32 ||| put (sat32 ufl) 0) ++ wordBytes (put (sat32 nan) 32 ||| put runs 4 ||| put fmt 0)

def countOf (l : List Conv) (f : Conv → Bool) : Nat := (l.filter f).length

/-- Status bits of a saturation monitor after a run (R123, R125). -/
def satStat (mon : Word) (n sat ufl nan : Nat) (w : Word) : Word :=
  let beyond := bitAt mon 0 && decide (sat * 1000000 > fld mon 51 32 * n)
  stickIf (stickIf (stickIf (stickIf w 0 (decide (ufl > 0))) 1 (decide (sat > 0))) 2 (decide (nan > 0))) 3 beyond

def qteReset : SatUnit := { mon := 0x0000006400000001#64 }

/-- A dispatched QTE descriptor does its work (R115 to R123). -/
def qteWork (s : State) (q : Nat) (i : Word) (r : List Residue) (op : Nat) : State :=
  match runningOp s q i 5 op with
  | some (e, .plain mon) =>
    let d := qteD e
    let w := descWho q e
    if d.rows = 0 then finish s q i 0
    else
      let sb := blockLen d.sblk
      let rb := rowBytes d.srcF d.cols
      let ns := rowScales d.cols sb
      let reads := d.sblk != 0 && !(qteWritesScale op d)
      let auxLen := if op = 3 then 2 ^ d.log2b / 8 else if op = 4 then 4 * d.cols else 0
      let a := nodeRead s w d.src (d.rows * rb)
      let b := if a.ok && reads then nodeRead a.s w d.scale (d.rows * ns) else { a with data := [] }
      let c := if b.ok && auxLen != 0 then nodeRead b.s w d.aux auxLen else { b with data := [] }
      if !c.ok then finish (countPart c.s 5 e (d.rows * d.cols)) q i cMemerr
      else
        let z := descResidue c.s q i e r id
        if !z.1 then finish (countPart z.2 5 e (d.rows * d.cols)) q i cArith
        else
          let rows := (List.range d.rows).map (fun k =>
            let sc := (b.data.drop (k * ns)).take ns
            convertRow op d sc (transformRow op d c.data (srcRow d ((a.data.drop (k * rb)).take rb) sc)))
          let els := (rows.map Prod.fst).flatten
          let data := (rows.map (fun x => packRow d.dstF (x.1.map (·.bits)))).flatten
          let sat := countOf els (·.sat)
          let ufl := countOf els (·.ufl)
          let nan := countOf els (·.nanIn)
          let s := countWork z.2 5 e (d.rows * d.cols)
          let p := nodeWrite s w d.dst data
          let p := if p.1 && qteWritesScale op d then nodeWrite p.2 w d.scale ((rows.map Prod.snd).flatten) else p
          let p := if p.1 && d.report != 0 then nodeWrite p.2 w d.report (reportBytes sat ufl nan 1 d.dstF) else p
          let s := p.2
          let s := { s with qte := tmod s.qte qteReset (qUnit q) (fun x =>
            { x with stat := satStat mon (d.rows * d.cols) sat ufl nan x.stat }) }
          finish s q i (if p.1 then 0 else cMemerr)
  | _ => s

def execConvert (q : BitVec 16) (i : Word) (r : List Residue) (s : State) : Ans := .next (qteWork s q.toNat i r 1)
def execQuantize (q : BitVec 16) (i : Word) (r : List Residue) (s : State) : Ans := .next (qteWork s q.toNat i r 2)
def execRotate (q : BitVec 16) (i : Word) (r : List Residue) (s : State) : Ans := .next (qteWork s q.toNat i r 3)
def execSmooth (q : BitVec 16) (i : Word) (r : List Residue) (s : State) : Ans := .next (qteWork s q.toNat i r 4)

end Sys2Proof.Machine
end

