-- ==== Sys2Proof/Machine/Mxe.lean ====
section
/-!
DEFINITION. Chapter 06: the matrix engines (R130 to R141).
-/
namespace Sys2Proof.Machine
open Sys2Proof

/-! ## MATMUL and MATMUL_QA: the descriptor (R133) -/

structure MatD where
  m : Nat
  n : Nat
  k : Nat
  aF : Nat
  bF : Nat
  dF : Nat
  cF : Nat
  qF : Nat
  ablk : Nat
  bblk : Nat
  round : Nat
  sat : Bool
  beta : Bool
  bias : Bool
  epi : Nat
  a : Nat
  b : Nat
  d : Nat
  c : Nat
  asc : Nat
  bsc : Nat
  biasv : Nat
  aSize : Nat
  bSize : Nat
  dSize : Nat
  cSize : Nat
  ascSize : Nat
  bscSize : Nat
  report : Nat

def matD (e : Entry) : MatD :=
  let w := bodyWord e
  { m := fld (w 0) 63 32, n := fld (w 0) 31 8, k := fld (w 1) 63 40, aF := fld (w 1) 39 36, bF := fld (w 1) 35 32,
    dF := fld (w 1) 31 28, cF := fld (w 1) 27 24, qF := fld (w 1) 23 20, ablk := fld (w 1) 19 18,
    bblk := fld (w 1) 17 16, round := fld (w 1) 15 14, sat := bitAt (w 1) 13, beta := bitAt (w 1) 12,
    bias := bitAt (w 1) 11, epi := fld (w 1) 10 8, a := fld (w 2) 55 0, b := fld (w 3) 55 0, d := fld (w 4) 55 0,
    c := fld (w 5) 55 0, asc := fld (w 6) 55 0, bsc := fld (w 7) 55 0, biasv := fld (w 8) 55 0,
    aSize := fld (w 9) 63 32, bSize := fld (w 9) 31 0, dSize := fld (w 10) 63 32, cSize := fld (w 10) 31 0,
    ascSize := fld (w 11) 63 32, bscSize := fld (w 11) 31 0, report := fld (w 12) 55 0 }

def mxeShape : Nat → Option Shape
  | 1 | 2 => some [mask 7 0, mask 7 0, m6356, m6356, m6356, m6356, m6356, m6356, m6356, 0, 0, 0, m6356]
  | 3 => some [0, mask 47 40 ||| mask 20 0, 0, m6356, m6356, m6356, m6356, m6356, 0, 0]
  | _ => none

def floatOp (f : Nat) : Bool := 1 ≤ f && f ≤ 7
def intOp (f : Nat) : Bool := f = 0xA || f = 0xC

/-- The product runs in the integer path. -/
def matInt (op : Nat) (d : MatD) : Bool := intOp (if op = 2 then d.qF else d.aF)

/-- The integer path is the block-scaled one. -/
def matScaled (d : MatD) : Bool := d.ablk != 0 || d.bblk != 0

def matOutOk (op : Nat) (d : MatD) (f : Nat) : Bool :=
  if matInt op d then (if matScaled d then f ≤ 2 else f = 8) else f ≤ 4

def matFmtOk (op : Nat) (d : MatD) : Bool :=
  let a := if op = 2 then d.qF else d.aF
  ((floatOp a && floatOp d.bF) || (intOp a && intOp d.bF)) && (op != 2 || (d.aF ≤ 2 && scalable d.qF))
  && matOutOk op d d.dF && (!d.beta || matOutOk op d d.cF)
  && (d.ablk = 0 || scalable a) && (d.bblk = 0 || scalable d.bF)

/-- Steps 4 to 10 of R94 (R133, R135). K must be whole for Q_FMT too, although the quantized rows of MATMUL_QA never lie in
memory (DESIGN CHOICE, log 105). -/
def matChecks (s : State) (op : Nat) (d : MatD) : List Chk :=
  let b := fun (base size need : Nat) (out : Bool) => ({ base := base, size := size, need := need, out := out } : Buf)
  let cw := rowBytes d.cF d.n
  let bufs := [b d.a d.aSize (d.m * rowBytes d.aF d.k) false, b d.b d.bSize (d.n * rowBytes d.bF d.k) false,
    b d.asc d.ascSize (d.m * rowScales d.k (blockLen d.ablk)) false,
    b d.bsc d.bscSize (d.n * rowScales d.k (blockLen d.bblk)) false,
    b d.biasv (if d.bias then 4 * d.n else 0) 0 false]
    ++ (if d.report = 0 then [] else [b d.report 16 16 true])
  let dB := b d.d d.dSize (d.m * rowBytes d.dF d.n) true
  let cB := b d.c d.cSize (if d.beta then d.m * cw else 0) false
  let all := bufChecks s false (dB :: cB :: bufs)
  let inPlace := d.beta && d.d = d.c && d.dF = d.cF
  let ten : List Chk := if inPlace then
      [(10, anyOverlap (dB :: bufs) || anyOverlap (cB :: bufs), cOverlap)]
    else all.filter (fun c => c.1 = 10)
  [(4, !(matFmtOk op d), cBadFormat),
   (5, d.n = 0 || d.k = 0 || d.ablk = 3 || d.bblk = 3 || d.round = 3 || d.epi > 3
     || (!d.beta && (d.cF != 0 || d.c != 0 || d.cSize != 0)) || (op = 1 && d.qF != 0) || (op = 2 && d.ablk = 0)
     || (d.ablk = 0 && d.asc != 0) || (d.bblk = 0 && d.bsc != 0)
     || (!d.bias && d.biasv != 0)
     || (matInt op d && matScaled d && d.ablk != d.bblk)
     || (matInt op d && !(matScaled d) && (d.bias || d.epi > 1))
     || !(wholeRow d.aF d.k) || !(wholeRow d.bF d.k) || (op = 2 && !(wholeRow d.qF d.k)), cBadField),
   (6, d.n > 1048576 || d.k > 1048576, cOverLimit)] ++ all.filter (fun c => c.1 != 10) ++ ten

/-! ## The product (R134, R136) -/

/-- Operand rows as values with the scales apart: element and scale byte (127 where none applies). -/
def operand (fmt k sb : Nat) (row scales : List Byte) : List (Num × Nat) :=
  (List.range k).map (fun j =>
    (decodeNum fmt (elemBits fmt row j), if sb = 0 then 127 else (scales.getD (j / sb) 0).toNat))

def scaledVal (x : Num × Nat) : Num := applyScale x.1 x.2

def numInt : Num → Int
  | .fin n m e => toInteger 1 n m e
  | _ => 0

/-- The sum of one element in the float path. -/
def dotFloat (c : Nat) (a b : List (Num × Nat)) : Num :=
  fsum c (List.zipWith (fun x y => numMul (scaledVal x) (scaledVal y)) a b)

/-- The sum of one element in the block-scaled integer path (R126): exact within a block, FP32 across blocks. -/
def dotBlocks (c sb : Nat) (a b : List (Num × Nat)) : Num :=
  let blk := List.zipWith Prod.mk (chunks sb a.length a) (chunks sb b.length b)
  fsum c (blk.map (fun p =>
    let t := (List.zipWith (fun x y => numInt x.1 * numInt y.1) p.1 p.2).foldl (· + ·) 0
    let sa := (p.1.headD (Num_zero, 127)).2
    let sb' := (p.2.headD (Num_zero, 127)).2
    rnd32 (applyScale (applyScale (intNum t) sa) sb')))

/-- The sum of one element in the unscaled integer path, with its clamps. -/
def dotInt (a b : List (Num × Nat)) : Int × Nat := isum (List.zipWith (fun x y => numInt x.1 * numInt y.1) a b)

def relu (x : Num) : Num := if numLt x Num_zero then Num_zero else x

/-- The epilogue function on an FP32 value; a NaN stays one (R126). -/
def epilogue (c epi : Nat) (x : Num) : Num :=
  if isNan x then x
  else match epi with
  | 1 => relu x
  | 2 => boundedFn c geluExact (rnd32 x)
  | 3 => boundedFn c siluExact (rnd32 x)
  | _ => x

/-- One element of D and the SAT counts of its accumulation. -/
def matElem (c : Nat) (d : MatD) (int : Bool) (sb : Nat) (a b : List (Num × Nat)) (cv bv : Num) : Conv × Nat :=
  if int && sb = 0 then
    let p := dotInt a b
    let v := if d.beta then isum [p.1, numInt cv] else (p.1, 0)
    let x := if d.epi = 1 then max v.1 0 else v.1
    (convNum d.dF d.round d.sat (intNum x), p.2 + v.2)
  else
    let acc := if int then dotBlocks c sb a b else dotFloat c a b
    let v := if d.beta then add32 acc cv else acc
    let v := if d.bias then add32 v bv else v
    (convNum d.dF d.round d.sat (epilogue (c + 1) d.epi v), 0)

/-- The next wider format of the ladder (R124). -/
def wider : Nat → Option Nat
  | 0x7 | 0x5 | 0x6 => some 0x3
  | 0xC => some 0xA
  | 0x3 | 0x4 | 0xA => some 0x1
  | _ => none

/-- A row of A quantized on the fly to `f` with its static scales; BF16 takes no scale (R124, R136). -/
def quantRow (d : MatD) (f : Nat) (row scales : List Byte) : List Conv :=
  let sb := blockLen d.ablk
  (List.range d.k).map (fun j =>
    let x := decodeNum d.aF (elemBits d.aF row j)
    let e := (scales.getD (j / sb) 0).toNat
    let v := if f = 1 then x else if e = 255 then .nan else numShift x (127 - (e : Int))
    convNum f d.round d.sat v)

/-- The quantized operand of a run as values and scales. -/
def quantOperand (d : MatD) (f : Nat) (l : List Conv) (scales : List Byte) : List (Num × Nat) :=
  let sb := blockLen d.ablk
  (List.range l.length).map (fun j =>
    (decodeNum f ((l.map (·.bits)).getD j 0), if f = 1 then 127 else (scales.getD (j / sb) 0).toNat))

/-- The runs of MATMUL_QA (R124): from format `f`, at most `fuel` more; the final format, its conversions, the number of
runs, and whether any run was over threshold. -/
def qaRuns (mon : Word) (d : MatD) (rows scales : List (List Byte)) : Nat → Nat → Nat → Bool → Nat × List (List Conv) × Nat × Bool
  | fuel, f, runs, beyond =>
    let cs := List.zipWith (quantRow d f) rows scales
    let sat := (cs.map (fun l => countOf l (·.sat))).foldl (· + ·) 0
    let o := bitAt mon 0 && decide (sat * 1000000 > fld mon 51 32 * (d.m * d.k))
    match fuel with
    | 0 => (f, cs, runs, beyond || o)
    | fuel + 1 =>
      if o && bitAt mon 1 then
        match wider f with
        | some g => qaRuns mon d rows scales fuel g (runs + 1) true
        | none => (f, cs, runs, beyond || o)
      else (f, cs, runs, beyond || o)

def slices (n k : Nat) (l : List Byte) : List (List Byte) := (List.range n).map (fun j => (l.drop (j * k)).take k)

def mxeReset : SatUnit := { mon := 0x0000006400000003#64 }

def cdiv (a b : Nat) : Nat := (a + b - 1) / b

/-- Reads one buffer after another, stopping at the first that fails. -/
def readAll (s : State) (w : Who) : List (Nat × Nat) → Bool × List (List Byte) × State
  | [] => (true, [], s)
  | (a, n) :: r =>
    let x := nodeRead s w a n
    if x.ok then
      let y := readAll x.s w r
      (y.1, x.data :: y.2.1, y.2.2)
    else (false, [], x.s)

/-- Writes one buffer after another, stopping at the first that fails. -/
def writeAll (s : State) (w : Who) : List (Nat × List Byte) → Bool × State
  | [] => (true, s)
  | (a, l) :: r =>
    let x := nodeWrite s w a l
    if x.1 then writeAll x.2 w r else x

/-- MATMUL (op 1) and MATMUL_QA (op 2) (R134 to R136). FMT in the report of a plain MATMUL, which quantizes no operand, is
D_FMT (DESIGN CHOICE, log 108). -/
def matWork (s : State) (q : Nat) (i : Word) (r : List Residue) (op : Nat) : State :=
  match runningOp s q i 0 op with
  | some (e, .plain mon) =>
    let d := matD e
    let w := descWho q e
    if d.m = 0 then finish s q i 0
    else
      let sa := blockLen d.ablk
      let sb := blockLen d.bblk
      let ra := rowBytes d.aF d.k
      let rb := rowBytes d.bF d.k
      let na := rowScales d.k sa
      let nb := rowScales d.k sb
      let rc := if d.beta then rowBytes d.cF d.n else 0
      let x := readAll s w [(d.a, d.m * ra), (d.b, d.n * rb), (d.asc, d.m * na), (d.bsc, d.n * nb),
        (d.c, d.m * rc), (d.biasv, if d.bias then 4 * d.n else 0)]
      let blocks := cdiv d.m 128 * cdiv d.n 128 * cdiv d.k 64
      if !x.1 then finish (countPart x.2.2 0 e blocks) q i cMemerr
      else
        let buf := fun (k : Nat) =>
          let l := x.2.1.getD k []
          if e.spoiled && (k = 1 || k = 3) then freeBytes x.2.2 l.length else l
        let z := descResidue (tick1 x.2.2) q i e r id
        if !z.1 then finish (countPart z.2 0 e blocks) q i cArith
        else
          let s := z.2
          let aRows := slices d.m ra (buf 0)
          let aSc := slices d.m na (buf 2)
          let bOps := List.zipWith (fun row sc => operand d.bF d.k sb row sc) (slices d.n rb (buf 1)) (slices d.n nb (buf 3))
          let qa := qaRuns mon d aRows aSc 2 d.qF 1 false
          let f := if op = 2 then qa.1 else d.aF
          let aOps := if op = 2 then List.zipWith (fun l sc => quantOperand d f l sc) qa.2.1 aSc
            else List.zipWith (fun row sc => operand d.aF d.k sa row sc) aRows aSc
          let int := intOp f && intOp d.bF
          let cs := slices d.m rc (buf 4)
          let c0 := s.choice
          let rows := (List.range d.m).map (fun mi => (List.range d.n).map (fun ni =>
            matElem (c0 + 2 * (mi * d.n + ni)) d int sa (aOps.getD mi []) (bOps.getD ni [])
              (if d.beta then decodeNum d.cF (elemBits d.cF (cs.getD mi []) ni) else Num_zero)
              (decodeNum 0 (leNat (((buf 5).drop (4 * ni)).take 4)))))
          let s := { s with choice := c0 + 2 * (d.m * d.n) }
          let els := rows.flatten
          let data := (rows.map (fun l => packRow d.dF (l.map (fun c => c.1.bits)))).flatten
          let data := if e.spoiled then freeBytes s data.length else data
          let s := tick1 s
          let counted := if op = 2 then qa.2.1.flatten else els.map Prod.fst
          let clamps := if op = 2 then 0 else (els.map Prod.snd).foldl (· + ·) 0
          let sat := countOf counted (·.sat) + clamps
          let ufl := countOf counted (·.ufl)
          let nan := countOf counted (·.nanIn)
          let runs := if op = 2 then qa.2.2.1 else 1
          let n := if op = 2 then d.m * d.k else d.m * d.n
          let s := countWork s 0 e (runs * blocks)
          let p := writeAll s w ([(d.d, data)]
            ++ (if d.report = 0 then [] else [(d.report, reportBytes sat ufl nan runs (if op = 2 then f else d.dF))]))
          let s := { p.2 with mxe := tmod p.2.mxe mxeReset (qUnit q) (fun x =>
            let st := satStat mon n sat ufl nan x.stat
            { x with stat := if op = 2 then stickIf st 3 qa.2.2.2 else st }) }
          finish s q i (if p.1 then 0 else cMemerr)
  | _ => s

def execMatmul (q : BitVec 16) (i : Word) (r : List Residue) (s : State) : Ans := .next (matWork s q.toNat i r 1)
def execMatmulQa (q : BitVec 16) (i : Word) (r : List Residue) (s : State) : Ans := .next (matWork s q.toNat i r 2)

/-! ## ATTENTION (R137, R138) -/

structure AttD where
  sq : Nat
  sk : Nat
  hq : Nat
  hkv : Nat
  qF : Nat
  kvF : Nat
  oF : Nat
  hdc : Nat
  causal : Bool
  part : Bool
  round : Nat
  sat : Bool
  qOff : Nat
  sm : Nat
  q : Nat
  k : Nat
  v : Nat
  o : Nat
  pt : Nat
  qSize : Nat
  kvSize : Nat
  oSize : Nat
  ptSize : Nat

def attD (e : Entry) : AttD :=
  let w := bodyWord e
  { sq := fld (w 0) 63 32, sk := fld (w 0) 31 0, hq := fld (w 1) 63 56, hkv := fld (w 1) 55 48,
    qF := fld (w 1) 39 36, kvF := fld (w 1) 35 32, oF := fld (w 1) 31 28, hdc := fld (w 1) 27 26,
    causal := bitAt (w 1) 25, part := bitAt (w 1) 24, round := fld (w 1) 23 22, sat := bitAt (w 1) 21,
    qOff := fld (w 2) 63 32, sm := fld (w 2) 31 0, q := fld (w 3) 55 0, k := fld (w 4) 55 0, v := fld (w 5) 55 0,
    o := fld (w 6) 55 0, pt := fld (w 7) 55 0, qSize := fld (w 8) 63 32, kvSize := fld (w 8) 31 0,
    oSize := fld (w 9) 63 32, ptSize := fld (w 9) 31 0 }

/-- Head dimension by its code (R137). -/
def headDim : Nat → Nat
  | 0 => 64 | 1 => 128 | 2 => 256 | _ => 0

def finiteNonzero (bits : Nat) : Bool :=
  match decodeNum 0 bits with
  | .fin _ m _ => m != 0
  | _ => false

/-- Bytes of an element of O: FP32 where PART is 1. -/
def attOBytes (d : AttD) : Nat := if d.part then 4 else fmtBits d.oF / 8

/-- Steps 4 to 10 of R94 (R137). A KV length or a head count above its maximum is OVER_LIMIT by step 6 of R94, not a
BAD_FIELD of R137's last sentence; with PART 1 a PT_SIZE that exceeds 8 x SQ x HQ is accepted as any larger buffer is (R95),
a smaller one is BUF_OVERRUN (DESIGN CHOICE, log 106). -/
def attChecks (s : State) (d : AttD) : List Chk :=
  let b := fun (base size need : Nat) (out : Bool) => ({ base := base, size := size, need := need, out := out } : Buf)
  let hd := headDim d.hdc
  let qw := fmtBits d.qF / 8
  let kw := fmtBits d.kvF / 8
  let okIn := fun (f : Nat) => 1 ≤ f && f ≤ 4
  [(4, !(okIn d.qF && okIn d.kvF && d.oF ≤ 2 && (d.oF != 0 || d.part)), cBadFormat),
   (5, d.sk = 0 || d.hq = 0 || d.hkv = 0 || d.hdc = 3 || d.round = 3 || d.hq % (max d.hkv 1) != 0
     || !(finiteNonzero d.sm) || (!d.part && d.pt != 0), cBadField),
   (6, d.sk > 1048576 || d.hq > 128, cOverLimit)]
  ++ bufChecks s false [b d.q d.qSize (d.sq * d.hq * hd * qw) false, b d.k d.kvSize (d.sk * d.hkv * hd * kw) false,
    b d.v d.kvSize (d.sk * d.hkv * hd * kw) false, b d.o d.oSize (d.sq * d.hq * hd * attOBytes d) true,
    b d.pt d.ptSize (if d.part then 8 * d.sq * d.hq else 0) true]

/-- The head vector number `j` (counted in heads) of a tensor of `hd`-element heads. -/
def headVec (fmt hd : Nat) (data : List Byte) (j : Nat) : List Num :=
  let n := rowBytes fmt hd
  (rowElems fmt hd ((data.drop (j * n)).take n)).map (decodeNum fmt)

/-- Visible positions of a row rounded up to a multiple of 128 (R140). -/
def attVisible (d : AttD) (row : Nat) : Nat := if d.causal then min d.sk (d.qOff + row + 1) else d.sk

/-- ATTENTION. Its conversions into O count in MXE_SATSTAT; it has no N and so no threshold (log 101). -/
def attWork (s : State) (q : Nat) (i : Word) (r : List Residue) : State :=
  match runningOp s q i 0 3 with
  | some (e, .plain _) =>
    let d := attD e
    let w := descWho q e
    if d.sq = 0 then finish s q i 0
    else
      let hd := headDim d.hdc
      let n := d.sk * d.hkv * hd * (fmtBits d.kvF / 8)
      let x := readAll s w [(d.q, d.sq * d.hq * hd * (fmtBits d.qF / 8)), (d.k, n), (d.v, n)]
      let v := ((List.range d.sq).map (fun row => cdiv (attVisible d row) 128 * 128)).foldl (· + ·) 0
      let work := cdiv (4 * hd * d.hq * v) 2097152
      if !x.1 then finish (countPart x.2.2 0 e work) q i cMemerr
      else
        let z := descResidue x.2.2 q i e r id
        if !z.1 then finish (countPart z.2 0 e work) q i cArith
        else
          let s := z.2
          let buf := fun (k : Nat) => x.2.1.getD k []
          let c0 := s.choice
          let step := attnChoices d.sk hd
          let parts := (List.range (d.sq * d.hq)).map (fun j =>
            let row := j / d.hq
            let kv := (j % d.hq) / (d.hq / d.hkv)
            let pos := List.range (attVisible d row)
            attnRow (c0 + j * step) hd (decodeNum 0 d.sm) (headVec d.qF hd (buf 0) j)
              (pos.map (fun p => headVec d.kvF hd (buf 1) (p * d.hkv + kv)))
              (pos.map (fun p => headVec d.kvF hd (buf 2) (p * d.hkv + kv))))
          let s := { s with choice := c0 + d.sq * d.hq * step }
          let convs := if d.part then [] else parts.map (fun p => p.o.map (fun v => convNum d.oF d.round d.sat (attnOut p v)))
          let out := if d.part then (parts.map (fun p => (p.o.map f32Bytes).flatten)).flatten
            else (convs.map (fun l => packRow d.oF (l.map (·.bits)))).flatten
          let els := convs.flatten
          let s := countWork s 0 e work
          let p := writeAll s w ([(d.o, out)] ++ (if d.part then
            [(d.pt, (parts.map (fun p => f32Bytes p.m ++ f32Bytes p.s)).flatten)] else []))
          let s := { p.2 with mxe := tmod p.2.mxe mxeReset (qUnit q) (fun x => { x with
            stat := satStat 0 0 (countOf els (·.sat)) (countOf els (·.ufl)) (countOf els (·.nanIn)) x.stat }) }
          finish s q i (if p.1 then 0 else cMemerr)
  | _ => s

def execAttention (q : BitVec 16) (i : Word) (r : List Residue) (s : State) : Ans := .next (attWork s q.toNat i r)

end Sys2Proof.Machine
end

