-- ==== Sys2Proof/Machine/Dse.lean ====
section
/-!
DEFINITION. Chapter 08: the distance parameter block, code and full-vector distances, DIST and QBUILD (R178 to R185, R192).
-/
namespace Sys2Proof.Machine
open Sys2Proof

/-! ## The distance parameter block (R180, R181) -/

structure DParam where
  format : Nat
  metric : Nat
  cform : Nat
  vfmt : Nat
  cbytes : Nat
  dims : Nat
  codes : Nat
  aux : Nat
  shard : Nat
  nslots : Nat
  fmask : Nat
  lbs : Nat
  vbase : Nat

def dparamOf (l : List Byte) : DParam :=
  let w := fun (k : Nat) => bytesWord ((l.drop (8 * k)).take 8)
  { format := fld (w 0) 63 56, metric := fld (w 0) 55 52, cform := fld (w 0) 51 48, vfmt := fld (w 0) 47 44,
    cbytes := fld (w 0) 43 35, dims := fld (w 0) 34 20, codes := fld (w 1) 55 0, aux := fld (w 2) 55 0,
    shard := fld (w 3) 63 48, nslots := fld (w 3) 47 16, fmask := fld (w 4) 63 60, lbs := fld (w 4) 59 48,
    vbase := fld (w 4) 47 0 }

/-- Bits set among the lowest four. -/
def pop4 (n : Nat) : Nat := ((List.range 4).filter (fun k => n.testBit k)).length

/-- Bytes of the FP32 values at AUX. -/
def auxBytes (p : DParam) : Nat :=
  match p.cform with
  | 0 => 1024 * p.dims
  | 1 => 64 * p.dims
  | 2 | 3 => 8 * p.dims
  | _ => 0

/-- The constraint of the code form. -/
def cformOk (p : DParam) : Bool :=
  match p.cform with
  | 0 => p.dims % p.cbytes = 0
  | 1 => p.dims % (2 * p.cbytes) = 0
  | 2 => p.cbytes = p.dims
  | 3 => 2 * p.cbytes = p.dims
  | 4 => p.dims = 8 * p.cbytes
  | _ => false

/-- An extent lies within one populated tier of T0 to T2. -/
def inTier (s : State) (a n : Nat) : Bool := n = 0 || (bufArea a false && withinTier s a n)

/-- Bytes of a full vector. -/
def vecBytes (p : DParam) : Nat := rowBytes p.vfmt p.dims

/-- The block is valid (R181). -/
def dpValid (s : State) (p : DParam) : Bool :=
  p.format = 1 && p.metric ≤ 2 && p.vfmt ≤ 4 && 16 ≤ p.cbytes && p.cbytes ≤ 256 && 1 ≤ p.dims && p.dims ≤ 16384
    && vecBytes p ≤ 4096 && (pop4 p.fmask = 1 || pop4 p.fmask = 2 || pop4 p.fmask = 4) && cformOk p
    && inTier s p.codes (p.nslots * p.cbytes) && inTier s p.aux (auxBytes p)

/-- The block may lie at `a`: 64-byte aligned in T1 or T2 (R180). -/
def dpPlace (s : State) (a : Nat) : Bool := a % 64 = 0 && inTier s a 64 && !(inT0 a)

/-- What reading a parameter block answers: no memory error, and the block if it is valid. -/
structure DpRead where
  ok : Bool
  raw : List Byte
  p : Option DParam
  s : State

/-- A block that does not lie where R180 puts it is not valid, and is not read. -/
def readDparam (s : State) (w : Who) (a : Nat) : DpRead :=
  if dpPlace s a then
    let r := nodeRead s w a 64
    if r.ok then
      let p := dparamOf r.data
      ⟨true, r.data, if dpValid r.s p then some p else none, r.s⟩
    else ⟨false, [], none, r.s⟩
  else ⟨true, [], none, s⟩

/-- Size of a query block (R182). -/
def qblkSize (p : DParam) : Nat :=
  match p.cform with
  | 0 => 64 + 512 * p.cbytes
  | 1 => 64 + 64 * p.cbytes
  | 2 | 3 => 64 + 8 * p.dims
  | _ => 64 + p.cbytes

/-! ## Distances -/

def canonNan : BitVec 32 := 0x7FC00000#32

/-- The `i`-th FP32 value of a run of bytes. -/
def f32At (l : List Byte) (i : Nat) : Num := decodeNum 0 (leNat ((l.drop (4 * i)).take 4))

/-- The square of a difference, with one or two roundings, as choice `c` has it (R179). -/
def sqDiff (c : Nat) (x y : Num) : Num :=
  if Config.pick c 0 % 2 = 0 then (let t := sub32 x y; mul32 t t)
  else (let t := numSub x y; rnd32 (numMul t t))

/-- A quotient by a root, within 4 units in the last place of the exact one, root and division together (R179): `y` is
the square of the divisor. -/
def cosQuot (c : Nat) (x y : Num) : Num :=
  let z := numDiv x (numSqrt y)
  match z with
  | .fin _ m _ => if m = 0 then rnd32 z else withinUlps c 4 z
  | w => w

def isZero : Num → Bool
  | .fin _ 0 _ => true
  | _ => false

/-- The root of a sum of squares. -/
def norm (c : Nat) (x : List Num) : Num := fsum c (List.zipWith mul32 x x)

/-- A full-vector distance from choices `c` to `c + 3` (R178). -/
def fullDist (c metric : Nat) (q x : List Num) : Num :=
  match metric with
  | 0 => fsum c (List.zipWith (sqDiff (c + 3)) q x)
  | 1 => numNeg (fsum c (List.zipWith mul32 q x))
  | _ =>
    let dot := fsum c (List.zipWith mul32 q x)
    let qq := norm (c + 1) q
    let xx := norm (c + 2) x
    if isZero qq || isZero xx then .nan
    else sub32 (intNum 1) (cosQuot (c + 3) dot (numMul qq xx))

/-- Choices a distance uses. -/
def distChoices : Nat := 4

def xorBits (a b n : Nat) : Nat := ((List.range n).filter (fun k => a.testBit k != b.testBit k)).length

/-- A code distance over a query block that matches the parameter block (R181, R182). An SQ term under L2 rounds c_d × b_d to
FP32 before the difference is squared, which R182 does not say (DESIGN CHOICE, log 122). -/
def codeDist (c : Nat) (p : DParam) (qb code : List Byte) : Num :=
  let k0 := f32At (qb.drop 8) 0
  let body := qb.drop 64
  let pq := fun (m k fmt : Nat) =>
    fsum c (k0 :: (List.range m).map (fun j =>
      decodeNum 2 (leNat ((body.drop (2 * (j * k + elemBits fmt code j))).take 2))))
  let sq := fun (fmt : Nat) =>
    let t := fun (d : Nat) => intNum (elemBits fmt code d : Nat)
    if p.metric = 0 then
      fsum c ((List.range p.dims).map (fun d => sqDiff (c + 3) (f32At body d) (mul32 (t d) (f32At body (p.dims + d)))))
    else fsum c (k0 :: (List.range p.dims).map (fun d => mul32 (t d) (f32At body d)))
  match p.cform with
  | 0 => pq p.cbytes 256 0xB
  | 1 => pq (2 * p.cbytes) 16 0xC
  | 2 => sq 0xB
  | 3 => sq 0xC
  | _ => intNum (xorBits (leNat (body.take p.cbytes)) (leNat code) (8 * p.cbytes) : Nat)

/-- Header word 0 of the query block of a parameter block. -/
def qblkHeader (p : DParam) : Word := put 1 56 ||| put p.metric 52 ||| put p.cform 48

/-- The FORMAT, METRIC and CFORM of a query block match. -/
def qblkMatches (p : DParam) (qb : List Byte) : Bool :=
  decide (fld (bytesWord (qb.take 8)) 63 48 = fld (qblkHeader p) 63 48)

/-- Distances, or none where memory failed, and the state after. -/
structure DistRes where
  ok : Bool
  ds : List (BitVec 32)
  s : State

def chooseMore (s : State) (n : Nat) : State := { s with choice := s.choice + n }

/-- One code distance by DSE `u` (R168, R182, R184). -/
def distOne (s : State) (w : Who) (u : Nat) (p : DParam) (qb : List Byte) (slot : Nat) : Bool × BitVec 32 × State :=
  if slot ≥ p.nslots then (true, canonNan, dseFlag s u 4)
  else if !(qblkMatches p qb) then (true, canonNan, s)
  else
    let r := nodeRead s w (p.codes + slot * p.cbytes) p.cbytes
    if r.ok then
      let d := f32 (codeDist r.s.choice p qb r.data)
      let s := chooseMore r.s distChoices
      (true, d, if isNan (ofF32 d) then dseFlag s u 0 else s)
    else (false, 0, r.s)

/-- Work of an engine class counted for a tenant. -/
def workTally (s : State) (cls tenant n : Nat) : State := tally (ctrAdd s (0x9110 + cls) n) tenant cls n

/-- Code distances of slots in order, each counted as it is formed (R425, R426). -/
def distEach (s : State) (w : Who) (u : Nat) (p : DParam) (qb : List Byte) : List Nat → DistRes
  | [] => ⟨true, [], s⟩
  | x :: r =>
    let a := distOne s w u p qb x
    if a.1 then
      let b := distEach (workTally a.2.2 1 w.tenant 1) w u p qb r
      ⟨b.ok, a.2.1 :: b.ds, b.s⟩
    else ⟨false, [], a.2.2⟩

/-- Distances over the query block at `qblk`; one that does not match sets BAD_QBLK as it is read (R182). -/
def distances (s : State) (w : Who) (u : Nat) (p : DParam) (qblk : Nat) (slots : List Nat) : DistRes :=
  if slots.isEmpty then ⟨true, [], s⟩
  else
    let r := nodeRead s w qblk (qblkSize p)
    if r.ok then distEach (if qblkMatches p r.data then r.s else dseFlag r.s u 5) w u p r.data slots else ⟨false, [], r.s⟩

/-! ## Descriptors -/

def dseShape : Nat → Option Shape
  | 1 => some [m6356, m6356, m6356, m6356, m6356, 0, 0, 0, mask 63 1]
  | 2 => some [m6356, m6356, m6356, 0]
  | 3 => some [m6356, m6356, m6356, m6356, 0, mask 31 0, mask 51 0, 0]
  | _ => none

structure DistD where
  dp : Nat
  q : Nat
  ids : Nat
  out : Nat
  vec : Nat
  count : Nat
  first : Nat
  qSize : Nat
  idsSize : Nat
  outSize : Nat
  vecSize : Nat
  src : Bool

def distD (e : Entry) : DistD :=
  let w := bodyWord e
  { dp := fld (w 0) 55 0, q := fld (w 1) 55 0, ids := fld (w 2) 55 0, out := fld (w 3) 55 0, vec := fld (w 4) 55 0,
    count := fld (w 5) 63 32, first := fld (w 5) 31 0, qSize := fld (w 6) 63 32, idsSize := fld (w 6) 31 0,
    outSize := fld (w 7) 63 32, vecSize := fld (w 7) 31 0, src := bitAt (w 8) 0 }

def distChecks (s : State) (d : DistD) : List Chk :=
  [(5, (d.ids != 0 && d.first != 0) || (d.src && (d.ids != 0 || d.first != 0)) || (!d.src && d.vec != 0), cBadField)]
  ++ bufChecks s false ([⟨d.q, d.qSize, 0, false⟩, ⟨d.out, d.outSize, 4 * d.count, true⟩]
    ++ (if d.ids = 0 then [] else [⟨d.ids, d.idsSize, 4 * d.count, false⟩])
    ++ (if d.src then [⟨d.vec, d.vecSize, 0, false⟩] else []))

/-- FP32 bytes of distances. -/
def distBytes (l : List (BitVec 32)) : List Byte := (l.map (fun b => leBytes 4 b.toNat)).flatten

/-- DIST of full vectors in memory: `stride` apart, those beyond VEC_SIZE NaN (R184). -/
def vecDists (s : State) (w : Who) (u : Nat) (p : DParam) (q : List Num) (vec size : Nat) : List Nat → DistRes
  | [] => ⟨true, [], s⟩
  | i :: r =>
    let n := vecBytes p
    let o := i * ((n + 63) / 64 * 64)
    if o + n > size then
      let b := vecDists (workTally (dseFlag s u 4) 1 w.tenant 1) w u p q vec size r
      ⟨b.ok, canonNan :: b.ds, b.s⟩
    else
      let x := nodeRead s w (vec + o) n
      if x.ok then
        let d := f32 (fullDist x.s.choice p.metric q ((rowElems p.vfmt p.dims x.data).map (decodeNum p.vfmt)))
        let s := workTally (chooseMore x.s distChoices) 1 w.tenant 1
        let b := vecDists (if isNan (ofF32 d) then dseFlag s u 0 else s) w u p q vec size r
        ⟨b.ok, d :: b.ds, b.s⟩
      else ⟨false, [], x.s⟩

/-- The distances of a DIST (R184). -/
def distForm (s : State) (w : Who) (u : Nat) (p : DParam) (d : DistD) : DistRes :=
  if d.src then
    let r := nodeRead s w d.q (4 * p.dims)
    if r.ok then
      vecDists r.s w u p ((List.range p.dims).map (f32At r.data)) d.vec d.vecSize (List.range d.count)
    else ⟨false, [], r.s⟩
  else if d.ids = 0 then distances s w u p d.q ((List.range d.count).map (d.first + ·))
  else
    let r := nodeRead s w d.ids (4 * d.count)
    if r.ok then distances r.s w u p d.q ((List.range d.count).map (fun k => leNat ((r.data.drop (4 * k)).take 4)))
    else ⟨false, [], r.s⟩

/-- The distances are written and the descriptor is done. -/
def distEnd (s : State) (w : Who) (q : Nat) (i : Word) (out : Nat) (l : List (BitVec 32)) : State :=
  let p := nodeWrite s w out (distBytes l)
  finish p.2 q i (if p.1 then 0 else cMemerr)

/-- DIST (R184). -/
def execDist (q : BitVec 16) (i : Word) (r : List Residue) (s : State) : Ans :=
  .next (
    let q := q.toNat
    match runningOp s q i 1 1 with
    | some (e, .plain _) =>
      let d := distD e
      let w := descWho q e
      let u := qUnit q
      if d.count = 0 then finish s q i 0
      else
        let x := readDparam s w d.dp
        if !x.ok then finish x.s q i cMemerr
        else
          match x.p with
          | none => distEnd (dseFlag x.s u 6) w q i d.out (List.replicate d.count canonNan)
          | some p =>
            if d.qSize < (if d.src then 4 * p.dims else qblkSize p) then
              distEnd (dseFlag x.s u 6) w q i d.out (List.replicate d.count canonNan)
            else
              let z := descResidue x.s q i e r (fun s => dseFlag s u 3)
              if !z.1 then finish (countPart z.2 1 e d.count) q i cArith
              else
                let y := distForm z.2 w u p d
                if y.ok then distEnd y.s w q i d.out y.ds else finish y.s q i cMemerr
    | _ => s)

/-! ## QBUILD (R182, R185) -/

structure QbD where
  dp : Nat
  qvec : Nat
  qblk : Nat
  qvecSize : Nat
  qblkSz : Nat

def qbD (e : Entry) : QbD :=
  let w := bodyWord e
  { dp := fld (w 0) 55 0, qvec := fld (w 1) 55 0, qblk := fld (w 2) 55 0, qvecSize := fld (w 3) 63 32,
    qblkSz := fld (w 3) 31 0 }

def qbChecks (s : State) (d : QbD) : List Chk :=
  bufChecks s false [⟨d.qvec, d.qvecSize, 0, false⟩, ⟨d.qblk, d.qblkSz, 0, true⟩]

/-- An entry of a product-quantised table in FP16: QBUILD has no ROUND and no SAT field, and the model takes RNE with overflow to
infinity (DESIGN CHOICE, log 122). -/
def fp16 (x : Num) : List Byte := leBytes 2 (convNum 2 0 false x).bits

/-- The table of a product-quantised form: `m` subspaces of `k` centroids. -/
def pqTable (c : Nat) (p : DParam) (q qh : List Num) (aux : List Byte) (m k : Nat) : List Byte :=
  let n := p.dims / m
  ((List.range (m * k)).map (fun j =>
    let cen := (List.range n).map (fun t => f32At aux (j * n + t))
    let sub := fun (x : List Num) => (x.drop (j / k * n)).take n
    fp16 (if p.metric = 0 then fullDist (c + distChoices * j) 0 (sub q) cen
      else fullDist (c + distChoices * j) 1 (sub qh) cen))).flatten

/-- The query block: its constant C and its body, from choice `c` on. The table of R182 gives no C for BIN and for SQ under L2:
the model writes 0 (DESIGN CHOICE, log 122). -/
def buildBlock (c : Nat) (p : DParam) (q : List Num) (aux : List Byte) : Num × List Byte :=
  let n := norm c q
  let qh := if p.metric = 2 then (List.range q.length).map (fun k => cosQuot (c + 1 + k) (q.getD k Num_zero) n) else q
  let c := c + q.length
  let one := if p.metric = 2 then intNum 1 else Num_zero
  let lo := fun (d : Nat) => f32At aux d
  let st := fun (d : Nat) => f32At aux (p.dims + d)
  let at_ := fun (l : List Num) (d : Nat) => l.getD d Num_zero
  let sq := fun (_ : Unit) =>
    if p.metric = 0 then
      (Num_zero, ((List.range p.dims).map (fun d => f32Bytes (sub32 (at_ q d) (lo d)))
        ++ (List.range p.dims).map (fun d => f32Bytes (st d))).flatten)
    else
      (rnd32 (numAdd one (numNeg (fsum (c + 2) ((List.range p.dims).map (fun d => mul32 (at_ qh d) (lo d)))))),
        ((List.range p.dims).map (fun d => f32Bytes (numNeg (mul32 (at_ qh d) (st d))))
          ++ List.replicate p.dims (f32Bytes Num_zero)).flatten)
  match p.cform with
  | 0 => (one, pqTable (c + 3) p q qh aux p.cbytes 256)
  | 1 => (one, pqTable (c + 3) p q qh aux (2 * p.cbytes) 16)
  | 2 => sq ()
  | 3 => sq ()
  | _ => (Num_zero, packRow 0xD (q.map (fun x => (convNum 0xD 0 false x).bits)))

/-- QBUILD that forms no block: header word 0 is 0 where there is room for it. -/
def qbuildBad (s : State) (w : Who) (q : Nat) (i : Word) (d : QbD) : State :=
  let s := dseFlag s (qUnit q) 6
  let p := if d.qblkSz ≥ 8 then nodeWrite s w d.qblk (wordBytes 0) else (true, s)
  finish p.2 q i (if p.1 then 0 else cMemerr)

/-- QBUILD (R185). -/
def execQbuild (q : BitVec 16) (i : Word) (r : List Residue) (s : State) : Ans :=
  .next (
    let q := q.toNat
    match runningOp s q i 1 2 with
    | some (e, .plain _) =>
      let d := qbD e
      let w := descWho q e
      let x := readDparam s w d.dp
      if !x.ok then finish x.s q i cMemerr
      else
        match x.p with
        | none => qbuildBad x.s w q i d
        | some p =>
          if d.qvecSize < 4 * p.dims || d.qblkSz < qblkSize p then qbuildBad x.s w q i d
          else
            let b := readAll x.s w [(d.qvec, 4 * p.dims), (p.aux, auxBytes p)]
            if !b.1 then finish b.2.2 q i cMemerr
            else
              let z := descResidue b.2.2 q i e r (fun s => dseFlag s (qUnit q) 3)
              if !z.1 then finish z.2 q i cArith
              else
                let s := z.2
                let v := buildBlock s.choice p ((List.range p.dims).map (f32At (b.2.1.getD 0 []))) (b.2.1.getD 1 [])
                let s := chooseMore s (4 * 256 * p.dims + 4 + p.dims)
                let data := wordBytes (qblkHeader p) ++ wordBytes (put (f32 v.1).toNat 0) ++ List.replicate 48 0 ++ v.2
                let o := nodeWrite s w d.qblk data
                finish o.2 q i (if o.1 then 0 else cMemerr)
    | _ => s)

end Sys2Proof.Machine
end

