-- ==== Sys2Proof/Machine/Gwe.lean ====
section
/-!
DEFINITION. Chapter 07: walks over a shard's graph (R152 to R173).
-/
namespace Sys2Proof.Machine
open Sys2Proof

/-! ## The descriptor (R163, R164) -/

structure WalkD where
  root : Nat
  stamp : Nat
  qblk : Nat
  scratch : Nat
  out : Nat
  qblkSz : Nat
  scratchSz : Nat
  outSz : Nat
  entrySlot : Nat
  beam : Nat
  nout : Nat
  ef : Nat
  vlog2 : Nat
  maxHops : Nat
  entrySel : Bool
  width : Nat
  deadline : Nat

def walkD (e : Entry) : WalkD :=
  let w := bodyWord e
  { root := fld (w 0) 55 0, stamp := fld (w 1) 63 16, qblk := fld (w 2) 55 0, scratch := fld (w 3) 55 0,
    out := fld (w 4) 55 0, qblkSz := fld (w 5) 63 32, scratchSz := fld (w 5) 31 0, outSz := fld (w 6) 63 32,
    entrySlot := fld (w 6) 31 0, beam := fld (w 7) 63 53, nout := fld (w 7) 52 42, ef := fld (w 7) 41 36,
    vlog2 := fld (w 7) 35 32, maxHops := fld (w 7) 31 16, entrySel := bitAt (w 7) 15, width := fld (w 7) 14 13,
    deadline := (w 8).toNat }

def gweShape : Nat → Option Shape
  | 1 => some [m6356, mask 15 0, m6356, m6356, m6356, 0, 0, mask 12 0, 0]
  | _ => none

def scratchNeed (d : WalkD) : Nat := 16 * (d.beam + d.nout) + 4 * 2 ^ d.vlog2

def walkChecks (s : State) (d : WalkD) : List Chk :=
  let l : List Buf := [⟨d.scratch, d.scratchSz, scratchNeed d, true⟩, ⟨d.out, d.outSz, 32 + 16 * d.nout, true⟩,
    ⟨d.qblk, d.qblkSz, 0, true⟩, ⟨d.root, 64, 64, true⟩]
  [(5, d.beam = 0 || d.nout = 0 || d.ef = 0 || d.vlog2 < 8 || d.width = 3 || (!d.entrySel && d.entrySlot != 0), cBadField),
   (6, d.beam > 1024 || d.nout > d.beam, cOverLimit),
   (8, area d.root != .t1 || !(inT0 d.scratch) || !(inT0 d.out || area d.out = .t1), cBadAddr)] ++ bufChecks s false l

/-! ## Rank (R166) -/

/-- FP32 bits in the order of rank: −0 as +0, NaN above +∞. -/
def rankKey (b : BitVec 32) : Int :=
  let m : Nat := b.toNat % 2 ^ 31
  if m > 0x7F800000 then 2 ^ 32 else if b.toNat ≥ 2 ^ 31 then -(m : Int) else (m : Int)

/-- `a` ranks before `b`. -/
def ranksBefore (a b : Cand) : Bool :=
  rankKey a.score < rankKey b.score || (rankKey a.score = rankKey b.score && a.slot < b.slot)

def insertBy {α : Type} (before : α → α → Bool) (x : α) : List α → List α
  | [] => [x]
  | y :: r => if before x y then x :: y :: r else y :: insertBy before x r

/-- Insertion by rank into a list that keeps its best `n`. -/
def beamAdd (n : Nat) (x : Cand × Bool) (l : List (Cand × Bool)) : List (Cand × Bool) :=
  (insertBy (fun a b => ranksBefore a.1 b.1) x l).take n

def resultAdd (n : Nat) (x : Cand) (l : List Cand) : List Cand := (insertBy ranksBefore x l).take n

/-! ## The root record (R156, R157, R168) -/

structure Root where
  format : Nat
  shard : Nat
  top : Nat
  blk : Nat
  slots : Nat
  entry : Nat
  adj0 : Nat
  state : Nat
  gen : Nat
  levels : Nat
  dparam : Nat
  rct : Nat

def rootOf (l : List Word) : Root :=
  let w := fun (k : Nat) => l.getD k 0
  { format := fld (w 0) 63 56, shard := fld (w 0) 55 40, top := fld (w 0) 39 36, blk := if bitAt (w 0) 35 then 256 else 128,
    slots := fld (w 1) 63 32, entry := fld (w 1) 31 0, adj0 := fld (w 2) 55 0, state := fld (w 3) 55 0,
    gen := fld (w 4) 55 0, levels := fld (w 5) 55 0, dparam := fld (w 6) 55 0, rct := fld (w 7) 55 0 }

/-- A level of the level table: BASE and COUNT. -/
structure Level where
  base : Nat
  count : Nat

def levelsOf (l : List Byte) : List Level :=
  (chunks 16 l.length l).map (fun b => ⟨fld (bytesWord (b.take 8)) 55 0, fld (bytesWord (b.drop 8)) 31 0⟩)

def inT1 (s : State) (a n : Nat) : Bool := area a = .t1 && withinTier s a n
/-- An extent of T2. An extent of no byte is in place wherever it stands, so that SLOTS 0 ends NO_ENTRY and not BAD_INDEX
(DESIGN CHOICE, log 125). -/
def inT2 (s : State) (a n : Nat) : Bool := n = 0 || (tierOf a = some 2 && withinTier s a n)

/-- BLOG2 as the node takes it (R205). -/
def blog2Of (w : Word) : Nat := max 10 (min 24 (fld w 4 0))

/-! ## The walk's running record -/

/-- STATUS values (R168). -/
def sComplete : Nat := 0
def sDeadline : Nat := 1
def sHopLimit : Nat := 2
def sVisitFull : Nat := 3
def sBadIndex : Nat := 4
def sNoEntry : Nat := 5
def sBadQuery : Nat := 6

/-- What stops a walk: a failure code, or an end with a status. -/
inductive Halt where
  | go
  | fail (code : Nat)
  | stop (status : Nat)
  deriving DecidableEq

/-- A walk while it runs: the state, its context, the context the command found, its steps, whether an upper visited set
filled, what stops it. -/
structure Run where
  s : State
  c : WalkCtx
  was : WalkCtx := {}
  steps : Nat := 0
  res : List Residue := []
  trunc : Bool := false
  halt : Halt := .go

/-- What stays fixed for a walk. -/
structure WalkEnv where
  w : Who
  u : Nat
  d : WalkD
  r : Root
  p : DParam
  q : Nat
  i : Word

def Run.going (x : Run) : Bool := x.halt = .go

/-- A read of the walk; an uncorrectable error fails it (R172). -/
def wread (v : WalkEnv) (x : Run) (a n : Nat) : List Byte × Run :=
  let r := nodeRead x.s v.w a n
  if r.ok then (r.data, { x with s := r.s }) else ([], { x with s := r.s, halt := .fail cMemerr })

/-- `rct_lookup` over the four entries of a bucket (R206). -/
def rctLookup (bucket : List Byte) (slot stamp : Nat) : Option Nat :=
  let es := (chunks 16 bucket.length bucket).map (fun b => (bytesWord (b.take 8), fld (bytesWord (b.drop 8)) 47 0))
  let hit := es.filter (fun e => bitAt e.1 34 && fld e.1 31 0 = slot && stamp < e.2)
  (hit.foldl (fun best e =>
    match best with
    | none => some (e.2, fld e.1 33 32)
    | some b => if e.2 < b.1 then some (e.2, fld e.1 33 32) else some b) (none : Option (Nat × Nat))).map Prod.snd

def bucketAddr (rct blog2 slot : Nat) : Nat := rct + 64 + slot % 2 ^ blog2 * 64

/-- The visible state of a slot (R161): decided once, the state byte read before the bucket (R207). -/
def vis (v : WalkEnv) (x : Run) (slot : Nat) : Nat × Run :=
  match x.c.seen.find? (fun e => e.1 = slot) with
  | some e => (e.2, x)
  | none =>
    let a := wread v x (v.r.state + slot) 1
    let b := wread v a.2 (bucketAddr v.r.rct a.2.c.blog2 slot) 64
    if b.2.going && a.2.going then
      let st := (rctLookup b.1 slot v.d.stamp).getD ((a.1.headD 0).toNat % 4)
      let c := b.2.c
      let t := if st = 3 then 0 else st
      (t, { b.2 with c := { c with seen := c.seen ++ [(slot, t)], bad := c.bad + bit (decide (st = 3)) } })
    else (0, b.2)

/-- Distances of slots, requested of a DSE with the query block of the walk, each with its own residue outcome (R167,
R192). -/
def wdist (v : WalkEnv) (x : Run) (slots : List Nat) : List (BitVec 32) × Run :=
  if slots.isEmpty || !x.going then ([], x)
  else
    let w : Who := { v.w with cls := 1, unit := v.u }
    let mine := x.res.take slots.length
    let x := { x with res := x.res.drop slots.length }
    let z := residues x.s w v.i 0 mine
    let s := if mismatch mine then dseFlag z.2 v.u 3 else z.2
    let c := { x.c with dists := x.c.dists + slots.length }
    if !z.1 then
      let s := workTally (tick1 s) 1 v.w.tenant (partOf s slots.length)
      ([], { x with s := s, c := c, halt := .fail cArith })
    else
      let r := distances s v.w v.u v.p v.d.qblk slots
      let n := (r.ds.filter (fun b => isNan (ofF32 b))).length
      if r.ok then (r.ds, { x with s := r.s, c := { c with nan := c.nan + n } })
      else ([], { x with s := r.s, c := c, halt := .fail cMemerr })

/-- Little-endian 32-bit entries. -/
def words32 (l : List Byte) : List Nat := (chunks 4 l.length l).map leNat

/-- The entries in use of an adjacency list (R158). -/
def inUse (l : List Nat) : List Nat := l.takeWhile (fun e => e != 0xFFFFFFFF)

/-! ## Descent (R169) -/

/-- An upper record: SLOT, DOWN and the entries in use (R159). -/
def upper (v : WalkEnv) (x : Run) (lv : Level) (u : Nat) : (Nat × Nat × List Nat) × Run :=
  let a := wread v x (lv.base + u * v.r.blk) v.r.blk
  let l := words32 a.1
  ((l.getD 0 0, l.getD 1 0, inUse (l.drop 2)), a.2)

/-- The neighbours of an expansion at an upper level: those to request, with their index, and whether the set filled. The
level ends at the insertion that fails, of a 1,025th index, and not when the set reaches 1,024; the distances the step has
asked for by then are still taken (DESIGN CHOICE, log 125). -/
def upperNext (v : WalkEnv) (lv : Level) : List Nat → Run → List Nat → List (Nat × Nat) → Run × List Nat × List (Nat × Nat) × Bool
  | [], x, vs, req => (x, vs, req, false)
  | e :: r, x, vs, req =>
    if !x.going then (x, vs, req, false)
    else if e ≥ lv.count then upperNext v lv r { x with c := { x.c with bad := x.c.bad + 1 } } vs req
    else if vs.contains e then upperNext v lv r x vs req
    else if vs.length ≥ 1024 then (x, vs, req, true)
    else
      let vs := vs ++ [e]
      let a := upper v x lv e
      let slot := a.1.1
      if !a.2.going then (a.2, vs, req, false)
      else if slot ≥ v.r.slots then upperNext v lv r { a.2 with c := { a.2.c with bad := a.2.c.bad + 1 } } vs req
      else
        let b := vis v a.2 slot
        if !b.2.going then (b.2, vs, req, false)
        else if b.1 = 0 then upperNext v lv r { b.2 with c := { b.2.c with free := b.2.c.free + 1 } } vs req
        else upperNext v lv r b.2 vs (req ++ [(e, slot)])

/-- The best entry that is not expanded becomes expanded; of two entries with one index the other stays. -/
def expandFirst : List (Cand × Bool) → List (Cand × Bool)
  | [] => []
  | e :: r => if e.2 then e :: expandFirst r else (e.1, true) :: r

/-- The search of one upper level; a candidate's `vid` holds its upper index. -/
def upperSearch (v : WalkEnv) (lv : Level) : Nat → Run → List Nat → List (Cand × Bool) → List Cand × Run
  | 0, x, _, beam => (beam.map Prod.fst, x)
  | k + 1, x, vs, beam =>
    match beam.find? (fun e => !e.2) with
    | none => (beam.map Prod.fst, x)
    | some e =>
      let beam := expandFirst beam
      let a := upper v { x with steps := x.steps + 1 } lv e.1.vid.toNat
      let n := upperNext v lv a.1.2.2 a.2 vs []
      let d := wdist v n.1 (n.2.2.1.map Prod.snd)
      if !d.2.going then ([], d.2)
      else
        let beam := (List.zip n.2.2.1 d.1).foldl (fun b z =>
          beamAdd v.d.ef ({ score := z.2, slot := z.1.2, vid := BitVec.ofNat 64 z.1.1 }, false) b) beam
        if n.2.2.2 then (beam.map Prod.fst, { d.2 with trunc := true })
        else upperSearch v lv k d.2 n.2.1 beam

/-- Each entry's upper index becomes its DOWN; one outside the level below is dropped. -/
def mapDown (v : WalkEnv) (lv below : Level) : List Cand → Run → List Cand × Run
  | [], x => ([], x)
  | c :: r, x =>
    let a := upper v x lv c.vid.toNat
    if !a.2.going then ([], a.2)
    else if a.1.2.1 ≥ below.count then mapDown v lv below r { a.2 with c := { a.2.c with bad := a.2.c.bad + 1 } }
    else
      let b := mapDown v lv below r a.2
      ({ c with vid := BitVec.ofNat 64 a.1.2.1 } :: b.1, b.2)

/-- The descent from level `l` to level 1. -/
def descend (v : WalkEnv) (lvs : List Level) : Nat → List Cand → Run → List Cand × Run
  | 0, cs, x => (cs, x)
  | l + 1, cs, x =>
    if !x.going then ([], x)
    else
      let lv := lvs.getD l ⟨0, 0⟩
      let a := upperSearch v lv 1088 x (cs.map (fun c => c.vid.toNat)).eraseDups (cs.map (fun c => (c, false)))
      if !a.2.going then ([], a.2)
      else if l = 0 then a
      else
        let b := mapDown v lv (lvs.getD (l - 1) ⟨0, 0⟩) a.1 a.2
        if b.2.going && b.1.isEmpty then ([], { b.2 with halt := .stop sBadIndex })
        else descend v lvs l b.1 b.2

/-- Phase 2: the start entries of level 0 (R167). An ENTRY outside level TOP gives BAD_INDEX here, where ENTRY_SEL is 0, and
not among the tests of phase 1 (DESIGN CHOICE, log 125). -/
def startSet (v : WalkEnv) (lvs : List Level) (x : Run) : List Cand × Run :=
  let enter := fun (slot : Nat) (vid : Nat) (x : Run) =>
    if slot ≥ v.r.slots then (([] : List Cand), { x with halt := .stop sNoEntry })
    else
      let a := vis v x slot
      if !a.2.going then ([], a.2)
      else if a.1 = 0 then ([], { a.2 with halt := .stop sNoEntry })
      else
        let b := wdist v a.2 [slot]
        (b.1.map (fun d => ({ score := d, slot := slot, vid := BitVec.ofNat 64 vid } : Cand)), b.2)
  if v.d.entrySel then enter v.d.entrySlot 0 x
  else if v.r.top = 0 then enter v.r.entry 0 x
  else
    let lv := lvs.getD (v.r.top - 1) ⟨0, 0⟩
    if v.r.entry ≥ lv.count then ([], { x with halt := .stop sBadIndex })
    else
      let a := upper v x lv v.r.entry
      if !a.2.going then ([], a.2)
      else
        let b := enter a.1.1 v.r.entry a.2
        descend v lvs v.r.top b.1 b.2

/-! ## Level 0 (R167, R170) -/

def visitLimit (d : WalkD) : Nat := 7 * 2 ^ d.vlog2 / 8

/-- `add` of R167; the slot's visible state is known. -/
def addCand (v : WalkEnv) (x : Run) (c : Cand) : Run :=
  let a := vis v x c.slot
  let e : Cand := { score := c.score, slot := c.slot, flags := bit (decide (a.1 = 2)) }
  let k := a.2.c
  let res := if a.1 = 1 then resultAdd v.d.nout e k.results else k.results
  { a.2 with c := { k with beam := beamAdd v.d.beam (e, false) k.beam, results := res } }

/-- The neighbours of an expansion at level 0: the slots to request, and whether the visited table filled. -/
def levelNext (v : WalkEnv) : List Nat → Run → List Nat → Run × List Nat × Bool
  | [], x, req => (x, req, false)
  | e :: r, x, req =>
    if !x.going then (x, req, false)
    else
      let c := x.c
      if e ≥ v.r.slots then levelNext v r { x with c := { c with bad := c.bad + 1 } } req
      else if c.visited.contains e then levelNext v r x req
      else if c.visited.length + 1 > visitLimit v.d then (x, req, true)
      else
        let a := vis v { x with c := { c with visited := c.visited ++ [e] } } e
        let k := a.2.c
        if !a.2.going then (a.2, req, false)
        else if a.1 = 0 then levelNext v r { a.2 with c := { k with free := k.free + 1 } } req
        else levelNext v r { a.2 with c := { k with tomb := k.tomb + bit (decide (a.1 = 2)) } } (req ++ [e])

/-- The adjacency blocks of the expanded entries, by rank. -/
def expandAll (v : WalkEnv) : List Cand → Run → List Nat → Run × List Nat × Bool
  | [], x, req => (x, req, false)
  | c :: r, x, req =>
    let a := wread v x (v.r.adj0 + c.slot * v.r.blk) v.r.blk
    let n := levelNext v (inUse (words32 a.1)) a.2 req
    if n.2.2 || !n.1.going then n else expandAll v r n.1 n.2.1

def stepWidth (d : WalkD) : Nat := 2 ^ d.width

/-- One level-0 step (R167). -/
def levelStep (v : WalkEnv) (x : Run) : Run :=
  let c := x.c
  if v.d.deadline != 0 && v.d.deadline ≤ now x.s then { x with halt := .stop sDeadline }
  else if v.d.maxHops != 0 && v.d.maxHops ≤ c.hops then { x with halt := .stop sHopLimit }
  else
    let ex := ((c.beam.filter (fun e => !e.2)).map Prod.fst).take (stepWidth v.d)
    let ex := if v.d.maxHops = 0 then ex else ex.take (v.d.maxHops - c.hops)
    if ex.isEmpty then { x with halt := .stop sComplete }
    else
      let beam := c.beam.map (fun e => if ex.any (fun y => y.slot = e.1.slot) then (e.1, true) else e)
      let n := expandAll v ex { x with c := { c with beam := beam, hops := c.hops + ex.length }, steps := x.steps + 1 } []
      let d := wdist v n.1 n.2.1
      if !d.2.going then d.2
      else
        let y := (List.zip n.2.1 d.1).foldl (fun x z => addCand v x { score := z.2, slot := z.1 }) d.2
        if n.2.2 then { y with halt := .stop sVisitFull } else y

/-! ## Output (R171) -/

/-- A result entry of R171. -/
def resultBytes (vid : Word) (score : BitVec 32) (flags : Nat) : List Byte :=
  wordBytes vid ++ wordBytes (put score.toNat 32 ||| put (flags % 65536) 16)

def fillerEntry : List Byte := resultBytes (-1) 0x7F800000#32 0

def mkVid (shard slot gen : Nat) : Word := put shard 48 ||| put slot 8 ||| put gen 0

def header4 (a b c d e f g h : Nat) : List Byte :=
  wordBytes (put (sat32 a) 32 ||| put (sat32 b) 0) ++ wordBytes (put (sat32 c) 32 ||| put (sat32 d) 0)
    ++ wordBytes (put (sat32 e) 32 ||| put (sat32 f) 0) ++ wordBytes (put (sat32 g) 32 ||| put (sat32 h) 0)

/-- The result entries, each with its generation byte. -/
def walkEntries (v : WalkEnv) : List Cand → Run → List Byte × Run
  | [], x => ([], x)
  | c :: r, x =>
    let a := wread v x (v.r.gen + c.slot) 1
    let b := walkEntries v r a.2
    (resultBytes (mkVid v.r.shard c.slot (a.1.headD 0).toNat) c.score 1 ++ b.1, b.2)

/-- A walk that searches level 0 leaves undefined bytes in its scratch (log 43). -/
def scratchDirty (v : WalkEnv) (x : Run) : Run :=
  if x.c.visited.isEmpty then x
  else
    let p := nodeWrite (tick1 x.s) v.w v.d.scratch (freeBytes x.s (scratchNeed v.d))
    { x with s := p.2, halt := match x.halt with
        | .fail k => .fail k
        | h => if p.1 then h else .fail cMemerr }

/-- GWE_STATUS follows what the command counted and the end of a walk (R176). -/
def walkFlags (u : Nat) (x : Run) : State :=
  let st := match x.halt with | .stop k => k | _ => sComplete
  let set := fun (s : State) (i : Nat) (b : Bool) => if b then gweFlag s u i else s
  set (set (set (set (set (set x.s 0 (decide (x.c.free > x.was.free))) 1 (decide (x.c.bad > x.was.bad) || st = sBadIndex))
    2 (decide (x.c.nan > x.was.nan))) 3 (st = sDeadline)) 4 (st = sVisitFull)) 5 x.trunc

/-- A failed walk: OUT is undefined (R172). -/
def walkFails (v : WalkEnv) (s : State) (code : Nat) : State :=
  finish (undefine s v.d.out (32 + 16 * v.d.nout)) v.q v.i code

/-- After a command: the walk goes on, fails, or writes its output and finishes. -/
def walkAfter (v : WalkEnv) (x : Run) : State :=
  let u := qUnit v.q
  let x := { x with s := workTally x.s 2 v.w.tenant x.steps }
  match x.halt with
  | .go =>
    let y := scratchDirty v x
    if y.going then setWork (walkFlags u y) v.q v.i (.walk y.c) else walkFails v (walkFlags u y) cMemerr
  | .fail code => walkFails v (walkFlags u (scratchDirty v x)) code
  | .stop st =>
    let none_ := st = sBadIndex || st = sNoEntry || st = sBadQuery
    let res := if none_ then [] else x.c.results
    let y := walkEntries v res { x with halt := .go }
    let c := x.c
    let bytes := header4 res.length (st % 256) c.hops c.dists c.tomb c.free c.bad c.nan ++ y.1
      ++ (List.replicate (v.d.nout - res.length) fillerEntry).flatten
    let y := scratchDirty v y.2
    let p := if y.going then nodeWrite (tick1 y.s) v.w v.d.out (stamped y.s v.d.stamp bytes) else (false, y.s)
    let s := walkFlags u { x with s := p.2 }
    if p.1 then finish s v.q v.i 0 else walkFails v s cMemerr

/-! ## Phase 1 -/

/-- The extents that the root names (R168), the level table apart. -/
def rootOk (s : State) (r : Root) : Bool :=
  r.format = 1 && (r.top = 0 || (r.levels != 0 && inT1 s r.levels (16 * r.top)))
    && inT2 s r.adj0 (r.slots * r.blk) && inT2 s r.state r.slots && inT2 s r.gen r.slots && inT1 s r.rct 64

def levelOk (s : State) (r : Root) (l : Level) : Bool := l.count != 0 && inT1 s l.base (l.count * r.blk)

/-- The parameter block of a parameter block's bytes, for a walk that has passed phase 1. -/
def noParam : DParam := dparamOf []

def stopAt (x : Run) (st : Nat) : Run := { x with halt := .stop st }

/-- Phases 1 and 2, and the start of phase 3. -/
def walkStart (q : Nat) (i : Word) (e : Entry) (res : List Residue) (s : State) : State :=
  let d := walkD e
  let w := descWho q e
  let v0 : WalkEnv := { w := w, u := qUnit q / 2, d := d, r := rootOf [], p := noParam, q := q, i := i }
  let a := wread v0 { s := s, c := {}, res := res } d.root 64
  let r := rootOf (bytesWords a.1)
  let v1 := { v0 with r := r }
  if !a.2.going then walkAfter v1 a.2
  else if !(rootOk a.2.s r) then walkAfter v1 (stopAt a.2 sBadIndex)
  else
    let b := if r.top = 0 then ([], a.2) else wread v1 a.2 r.levels (16 * r.top)
    let lvs := levelsOf b.1
    let h := wread v1 b.2 r.rct 64
    let blog2 := blog2Of (bytesWord (h.1.take 8))
    if !b.2.going || !h.2.going then walkAfter v1 h.2
    else if !(lvs.all (levelOk h.2.s r)) || !(inT1 h.2.s r.rct (64 + 64 * 2 ^ blog2)) then walkAfter v1 (stopAt h.2 sBadIndex)
    else
      let m := readDparam h.2.s w r.dparam
      let x := { h.2 with s := m.s }
      if !m.ok then walkAfter v1 { x with halt := .fail cMemerr }
      else
        match m.p with
        | none => walkAfter v1 (stopAt x sBadIndex)
        | some p =>
          let v := { v1 with p := p }
          if d.qblkSz != qblkSize p then walkAfter v (stopAt x sBadQuery)
          else if r.slots = 0 then walkAfter v (stopAt x sNoEntry)
          else
            let x := { x with c := { x.c with root := bytesWords a.1, dparam := m.raw, blog2 := blog2 } }
            let t := startSet v lvs x
            if !t.2.going then walkAfter v t.2
            else
              let y := (t.1.foldl (fun l c => insertBy ranksBefore c l) []).foldl (fun x c =>
                if x.c.visited.contains c.slot then x
                else addCand v { x with c := { x.c with visited := x.c.visited ++ [c.slot] } } c) t.2
              walkAfter v y

/-- WALK (R167): the walk takes its walker context and runs its first two phases. -/
def execWalk (q : BitVec 16) (i : Word) (r : List Residue) (s : State) : Ans :=
  .next (match runningOp s q.toNat i 2 1 with
    | some (e, .plain _) => walkStart q.toNat i e r s
    | _ => s)

/-- WALK_STEP (R167): one step of level 0. -/
def execWalkStep (q : BitVec 16) (i : Word) (r : List Residue) (s : State) : Ans :=
  .next (match runningOp s q.toNat i 2 1 with
    | some (e, .walk c) =>
      let v : WalkEnv := { w := descWho q.toNat e, u := qUnit q.toNat / 2, d := walkD e, r := rootOf c.root,
                           p := dparamOf c.dparam, q := q.toNat, i := i }
      walkAfter v (levelStep v { s := s, c := c, was := c, res := r })
    | _ => s)

end Sys2Proof.Machine
end

