-- ==== Sys2Proof/Machine/Nbu.lean ====
section
/-!
DEFINITION. Chapter 12: the near-bank units (R271 to R285).
-/
namespace Sys2Proof.Machine
open Sys2Proof

def xbufSize : Nat := 2621440
def abufSize : Nat := 262144

def nbuOf (s : State) (u : Nat) : Nbu := tget s.nbus {} u

def updNbu (s : State) (u : Nat) (f : Nbu → Nbu) : State := { s with nbus := tmod s.nbus {} u f }

/-! ## Access to the banks (R281 rule 2, R284) -/

/-- The NBU reads `n` bytes at a channel offset as the banks hold them; it corrects, and rewrites nothing. -/
def bankRead (s : State) (w : Who) (o n : Nat) : Rd :=
  let a := chanAddr w.unit o
  let s := tierTouch s w.tenant 2 n
  match ueIn s a n with
  | some c => ⟨false, [], memErr s w 4 c 2⟩
  | none =>
    let l := cwsOf a n
    let s := if l.any (fun c => s.mem.ce.contains c) then nbuFlag s w.unit 5 else s
    ⟨true, memGet s a n, correct s w 2 false l⟩

def bankReads (s : State) (w : Who) : List (Nat × Nat) → Bool × List (List Byte) × State
  | [] => (true, [], s)
  | (o, n) :: r =>
    let x := if n = 0 then ⟨true, [], s⟩ else bankRead s w o n
    if x.ok then
      let y := bankReads x.s w r
      (y.1, x.data :: y.2.1, y.2.2)
    else (false, [], x.s)

def xbufGet (s : State) (u o n : Nat) : List Byte := cellsGet (nbuOf s u).xbuf o n

/-! ## Descriptors -/

def nbuShape : Nat → Option Shape
  | 1 => some [m6356, mask 63 40, mask 63 22]
  | 2 => some [0, 0, 0, mask 15 0, mask 44 22]
  | 3 => some [0, 0, mask 17 0, mask 31 22]
  | 4 => some [0, 0, 0, mask 38 22, mask 31 0]
  | _ => none

structure GemvD where
  w : Nat
  wSize : Nat
  wsc : Nat
  wscSize : Nat
  out : Nat
  outSize : Nat
  b : Nat
  n : Nat
  k : Nat
  wF : Nat
  xF : Nat
  oF : Nat
  wblk : Nat
  round : Nat
  sat : Bool
  acc : Bool
  wb : Bool
  xoff : Nat

def gemvD (e : Entry) : GemvD :=
  let w := bodyWord e
  { w := fld (w 0) 63 32, wSize := fld (w 0) 31 0, wsc := fld (w 1) 63 32, wscSize := fld (w 1) 31 0,
    out := fld (w 2) 63 32, outSize := fld (w 2) 31 0, b := fld (w 3) 63 48, n := fld (w 3) 47 32, k := fld (w 3) 31 16,
    wF := fld (w 4) 63 60, xF := fld (w 4) 59 56, oF := fld (w 4) 55 52, wblk := fld (w 4) 51 50,
    round := fld (w 4) 49 48, sat := bitAt (w 4) 47, acc := bitAt (w 4) 46, wb := bitAt (w 4) 45, xoff := fld (w 4) 21 0 }

structure AttnD where
  pool : Nat
  blocks : Nat
  out : Nat
  outSize : Nat
  b : Nat
  g : Nat
  hkv : Nat
  kvh : Nat
  kvF : Nat
  hdc : Nat
  sm : Nat
  xoff : Nat

def attnD (e : Entry) : AttnD :=
  let w := bodyWord e
  { pool := fld (w 0) 63 32, blocks := fld (w 0) 31 0, out := fld (w 1) 63 32, outSize := fld (w 1) 31 0,
    b := fld (w 2) 63 48, g := fld (w 2) 47 40, hkv := fld (w 2) 39 32, kvh := fld (w 2) 31 24, kvF := fld (w 2) 23 20,
    hdc := fld (w 2) 19 18, sm := fld (w 3) 63 32, xoff := fld (w 3) 21 0 }

structure ScanD where
  body : Nat
  rows : Nat
  out : Nat
  outSize : Nat
  shard : Nat
  hzn : Nat
  q : Nat
  l : Nat
  cbytes : Nat
  xoff : Nat
  r0 : Nat

def scanD (e : Entry) : ScanD :=
  let w := bodyWord e
  { body := fld (w 0) 63 32, rows := fld (w 0) 31 0, out := fld (w 1) 63 32, outSize := fld (w 1) 31 0,
    shard := fld (w 2) 63 48, hzn := fld (w 2) 47 0, q := fld (w 3) 63 56, l := fld (w 3) 55 48, cbytes := fld (w 3) 47 39,
    xoff := fld (w 3) 21 0, r0 := fld (w 4) 63 32 }

/-- Size of an ATTN block (R275): the K and V parts of 16 positions. -/
def kvBlock (d : AttnD) : Nat := 32 * d.hkv * headDim d.hdc * (fmtBits d.kvF / 8)

/-- Size of a Sprue entry (R277). -/
def esize (cbytes : Nat) : Nat := (32 + cbytes + 31) / 32 * 32

def rowBase (d : ScanD) : Nat := d.body + d.r0 * esize d.cbytes

/-- The extents of a descriptor that uses the banks, as channel offsets: those it reads, and OUT (R281). -/
def nbuExts (e : Entry) : List (Nat × Nat) × (Nat × Nat) :=
  match hdrOp (hdr e) with
  | 2 => let d := gemvD e; ([(d.w, d.wSize), (d.wsc, d.wscSize)], (d.out, if d.wb then d.outSize else 0))
  | 3 => let d := attnD e; ([(d.pool, d.blocks * kvBlock d)], (d.out, d.outSize))
  | 4 => let d := scanD e; ([(rowBase d, d.rows * esize d.cbytes)], (d.out, d.outSize))
  | _ => ([], (0, 0))

/-- The footprint of a dispatched descriptor (R282). -/
def footOf (q : Nat) (i : Word) (e : Entry) : Foot :=
  let x := nbuExts e
  { q := q, i := i, op := hdrOp (hdr e), tenant := e.tenant.toNat, outAt := chanAddr (qUnit q) x.2.1, outSize := x.2.2,
    reads := x.1.map (fun p => (chanAddr (qUnit q) p.1, p.2)) }

/-! ## Checks -/

/-- Steps 7 to 10 over channel offsets (R271). -/
def chanBufChecks (l : List Buf) : List Chk :=
  [(7, l.any (fun b => b.size != 0 && b.base % 64 != 0), cBadAlign),
   (8, l.any (fun b => decide (b.size != 0 ∧ b.base + b.size > 2 ^ 32)), cBadAddr),
   (9, l.any (fun b => decide (b.size < b.need)), cBufOverrun),
   (10, anyOverlap l, cOverlap)]

def loadxChecks (s : State) (e : Entry) : List Chk :=
  let src := fld (bodyWord e 0) 55 0
  let size := fld (bodyWord e 1) 39 0
  let xoff := fld (bodyWord e 2) 21 0
  [(5, size % 64 != 0 || xoff % 64 != 0, cBadField),
   (6, decide (size > xbufSize) || decide (xoff + size > xbufSize), cOverLimit),
   (7, size != 0 && src % 64 != 0, cBadAlign),
   (8, size != 0 && !(bufArea src false && tierOf src != some 2 && withinTier s src size), cBadAddr)]

/-- Steps 4 to 10 for a GEMV; no two of the W, WSC and OUT extents may overlap (R274), so that W counts as an output here. -/
def gemvChecks (d : GemvD) : List Chk :=
  let sb := blockLen d.wblk
  [(4, !((d.wF = 1 || (3 ≤ d.wF && d.wF ≤ 7)) && 1 ≤ d.xF && d.xF ≤ 4 && d.oF ≤ 2) || (d.wblk != 0 && d.wF = 1), cBadFormat),
   (5, d.b = 0 || d.n = 0 || d.k = 0 || d.wblk = 3 || d.round = 3 || (d.wF = 7 && d.k % 2 = 1)
     || (fmtBits d.wF = 6 && d.k % 4 != 0) || (d.wblk = 0 && (d.wsc != 0 || d.wscSize != 0))
     || (!d.wb && (d.out != 0 || d.outSize != 0)), cBadField),
   (6, d.b > 256 || d.n > 1024 || d.b * d.n > abufSize || d.xoff + d.b * rowBytes d.xF d.k > xbufSize, cOverLimit)]
  ++ chanBufChecks [⟨d.w, d.wSize, d.n * rowBytes d.wF d.k, true⟩, ⟨d.wsc, d.wscSize, d.n * rowScales d.k sb, false⟩,
    ⟨d.out, d.outSize, if d.wb then d.b * d.n * (fmtBits d.oF / 8) else 0, true⟩]

def attnChecks (d : AttnD) : List Chk :=
  let hd := headDim d.hdc
  [(4, !(1 ≤ d.kvF && d.kvF ≤ 4), cBadFormat),
   (5, d.blocks = 0 || d.b = 0 || d.g = 0 || d.hkv = 0 || d.kvh ≥ d.hkv || d.hdc = 3 || !(finiteNonzero d.sm), cBadField),
   (6, d.blocks > 131072 || d.b > 256 || d.g > 16 || d.hkv > 128 || d.xoff + d.b * d.g * hd * 2 > xbufSize, cOverLimit)]
  ++ chanBufChecks [⟨d.pool, d.blocks * kvBlock d, 0, false⟩, ⟨d.out, d.outSize, d.b * d.g * (2 + hd) * 4, true⟩]

def up64 (n : Nat) : Nat := (n + 63) / 64 * 64

/-- The parameters of a query block that its header and CBYTES give (R181, R277); none for an undefined CFORM. -/
def scanParam (cbytes : Nat) (h : Word) : Option DParam :=
  let c := fld h 51 48
  let dims := match c with | 2 => cbytes | 3 => 2 * cbytes | 4 => 8 * cbytes | _ => 0
  if c ≤ 4 then some { dparamOf [] with format := 1, metric := fld h 55 52, cform := c, cbytes := cbytes, dims := dims }
  else none

/-- The offsets in XBUF of the query blocks that can be located, with their parameters, and the end of the scan block. -/
def scanBlocks (s : State) (u cbytes : Nat) : Nat → Nat → List (Nat × DParam) × Nat
  | 0, o => ([], o)
  | k + 1, o =>
    match scanParam cbytes (bytesWord (xbufGet s u o 8)) with
    | none => ([], o + 64)
    | some p =>
      let r := scanBlocks s u cbytes k (o + up64 (qblkSize p))
      ((o, p) :: r.1, r.2)

/-- Steps 5 to 10 for a SCAN; with no rows none has to lie in the channel (R95). -/
def scanChecks (s : State) (u : Nat) (d : ScanD) : List Chk :=
  let z := esize d.cbytes
  [(5, d.q = 0 || d.l = 0 || d.cbytes < 16 || d.cbytes > 256, cBadField),
   (6, d.q > 64 || d.l > 64 || (scanBlocks s u d.cbytes d.q (d.xoff + up64 (8 * d.q))).2 > xbufSize, cOverLimit),
   (7, d.rows != 0 && d.body % 64 != 0, cBadAlign), (8, d.rows != 0 && rowBase d + d.rows * z > 2 ^ 32, cBadAddr),
   (10, overlaps (rowBase d) (d.rows * z) d.out d.outSize, cOverlap)]
  ++ chanBufChecks [⟨d.out, d.outSize, d.q * (32 + 16 * d.l), true⟩]

def nbuChecks (s : State) (u op : Nat) (e : Entry) : List Chk :=
  match op with
  | 1 => loadxChecks s e
  | 2 => gemvChecks (gemvD e)
  | 3 => attnChecks (attnD e)
  | _ => scanChecks s u (scanD e)

/-! ## LOADX -/

/-- LOADX (R272). -/
def execLoadx (q : BitVec 16) (i : Word) (s : State) : Ans :=
  .next (
    let q := q.toNat
    match runningOp s q i 8 1 with
    | some (e, .plain _) =>
      let size := fld (bodyWord e 1) 39 0
      if size = 0 then finish s q i 0
      else
        let r := nodeRead s (descWho q e) (fld (bodyWord e 0) 55 0) size
        if r.ok then
          finish (updNbu r.s (qUnit q) (fun x => { x with xbuf := cellsSet x.xbuf (fld (bodyWord e 2) 21 0) r.data })) q i 0
        else finish r.s q i cMemerr
    | _ => s)

/-! ## Beginning and ending a descriptor at the banks -/

/-- The NBU holds the banks and no broadcast command runs: the descriptor's first may begin. -/
def nbuReady (s : State) (u : Nat) : Bool :=
  let c := chanOf s u
  c.mode = .proc && c.bcast = none && !c.more

/-! Rule 1 of R281: Modified lines of the read extents are written back and stay Shared; lines of OUT leave the caches. The
write-back runs in place of the switch to the broadcast command (R279), so that its writes do not come to the channel queue and
the channel stays in processor mode. -/

def cleanLine (s : State) (l : Nat) : State :=
  let s := waitHold s 160 l
  match dirGet s l with
  | some (.owned o) =>
    match cacheGet s o l with
    | some c => dirPut (cachePut (backNoted s o l) o l ⟨false, c.data, 0⟩) l (.shared [o])
    | none => s
  | _ => s

def nbuWriteBack (s : State) (f : Foot) : State :=
  let s := (f.reads.flatMap (fun e => dirLines s e.1 e.2)).foldl cleanLine s
  (dirLines s f.outAt f.outSize).foldl (fun s l => dirDel (recallBy backNoted (waitHold s 160 l) l) l) s

/-- The first broadcast command begins: the write-back of the native ordering, and the banks are busy. -/
def nbuBegin (s : State) (q : Nat) (i : Word) (e : Entry) : State :=
  let u := qUnit q
  let s := if (nbuOf s u).compat then s else nbuWriteBack s (footOf q i e)
  updChan s u (fun c => { c with bcast := some s.tb.time, nbuWait := none })

/-- Bytes moved at the banks, counted in 64-byte units (R425). -/
def bankTally (s : State) (e : Entry) (n : Nat) : State := countWork s 8 e (cdiv n 64)

/-- The part of them moved before a failure. -/
def bankPart (s : State) (e : Entry) (n : Nat) : State := countPart s 8 e (cdiv n 64)

/-- The footprint of a descriptor, as it stands or as its dispatch made it. -/
def footFor (s : State) (q : Nat) (i : Word) (e : Entry) : Foot :=
  (s.foot.find? (fun f => f.q = q && f.i = i)).getD (footOf q i e)

/-- OUT by units of 64 bytes, each with its channel offset. -/
def outUnits (o : Nat) (l : List Byte) : List (Nat × List Byte) :=
  (List.range (cdiv l.length 64)).map (fun k => (o + 64 * k, (l.drop (64 * k)).take 64))

/-- The results are formed and the descriptor is done; its broadcast commands write OUT as they end (R267, R269). A result
derived from bytes that an observer wrote into the footprint is free (R282). -/
def nbuEnd (s : State) (q : Nat) (i : Word) (e : Entry) (o : Nat) (l : List Byte) : State :=
  let s := bankTally s e l.length
  let f := footFor s q i e
  let f := { f with pend := outUnits o (if f.dirty then freeBytes s l.length else l) }
  let s := { tick1 s with foot := s.foot.filter (fun x => !(x.q = q && x.i = i)) ++ [f] }
  finish s q i 0

/-! ## GEMV (R273, R274) -/

def abufGet (s : State) (u k : Nat) : Num := ofF32 (tget (nbuOf s u).abuf 0 k)

/-- The sums of a GEMV, vector by vector, each from its own choice; products exact, accumulated in FP32. -/
def gemvSums (c : Nat) (d : GemvD) (x w sc : List Byte) : List Num :=
  let sb := blockLen d.wblk
  let ws := List.zipWith (fun row sr => (operand d.wF d.k sb row sr).map scaledVal)
    (slices d.n (rowBytes d.wF d.k) w) (slices d.n (rowScales d.k sb) sc)
  let xs := (slices d.b (rowBytes d.xF d.k) x).map (fun row => (rowElems d.xF d.k row).map (decodeNum d.xF))
  ((List.range d.b).map (fun b => (List.range d.n).map (fun n =>
    fsum (c + b * d.n + n) (List.zipWith numMul (xs.getD b []) (ws.getD n []))))).flatten

/-- GEMV. -/
def execGemv (q : BitVec 16) (i : Word) (r : List Residue) (s : State) : Ans :=
  .next (
    let q := q.toNat
    let u := qUnit q
    match runningOp s q i 8 2 with
    | some (e, .plain _) =>
      if !(nbuReady s u) then s
      else
        let d := gemvD e
        let nw := d.n * rowBytes d.wF d.k
        let ns := d.n * rowScales d.k (blockLen d.wblk)
        let y := bankReads (nbuBegin s q i e) (descWho q e) [(d.w, nw), (d.wsc, ns)]
        if !y.1 then finish (bankPart y.2.2 e (nw + ns)) q i cMemerr
        else
          let z := descResidue y.2.2 q i e r (fun s => nbuFlag s u 4)
          if !z.1 then finish (bankPart z.2 e (nw + ns)) q i cArith
          else
            let s := bankTally z.2 e (nw + ns)
            let x := xbufGet s u d.xoff (d.b * rowBytes d.xF d.k)
            let sums := gemvSums s.choice d x (y.2.1.getD 0 []) (y.2.1.getD 1 [])
            let s := chooseMore s (d.b * d.n)
            let acc := (List.range sums.length).map (fun k =>
              if d.acc then add32 (abufGet s u k) (sums.getD k Num_zero) else sums.getD k Num_zero)
            let s := updNbu s u (fun v => { v with
              abuf := (List.range acc.length).foldl (fun t k => tset t k (f32 (acc.getD k Num_zero))) v.abuf })
            let s := if acc.any isNan then nbuFlag s u 0 else s
            if d.wb then
              let cs := acc.map (convNum d.oF d.round d.sat)
              let s := if cs.any (·.sat) then nbuFlag s u 1 else s
              nbuEnd s q i e d.out (packRow d.oF (cs.map (·.bits)))
            else finish s q i 0
    | _ => s)

/-! ## ATTN (R275, R276) -/

/-- The block lists from offset `o` of XBUF: the indices of each sequence, and whether any was skipped. -/
def blockLists (s : State) (u blocks : Nat) : Nat → Nat → List (List Nat) × Bool
  | 0, _ => ([], false)
  | k + 1, o =>
    if o + 4 > xbufSize then (List.replicate (k + 1) [], true)
    else
      let c := leNat (xbufGet s u o 4)
      let fit := min c ((xbufSize - o - 4) / 4)
      let l := (List.range fit).map (fun j => leNat (xbufGet s u (o + 4 + 4 * j) 4))
      let r := blockLists s u blocks k (o + 4 + 4 * c)
      (l.filter (fun b => b < blocks) :: r.1, r.2 || decide (fit < c) || l.any (fun b => decide (b ≥ blocks)))

/-- The keys and values of head KVH in one block. -/
def blockRows (d : AttnD) (blk : List Byte) : List (List Num) × List (List Num) :=
  let hd := headDim d.hdc
  let half := kvBlock d / 2
  let at_ := fun (part : List Byte) (p : Nat) => headVec d.kvF hd part (p * d.hkv + d.kvh)
  ((List.range 16).map (at_ (blk.take half)), (List.range 16).map (at_ (blk.drop half)))

/-- ATTN. -/
def execAttn (q : BitVec 16) (i : Word) (r : List Residue) (s : State) : Ans :=
  .next (
    let q := q.toNat
    let u := qUnit q
    match runningOp s q i 8 3 with
    | some (e, .plain _) =>
      if !(nbuReady s u) then s
      else
        let d := attnD e
        let hd := headDim d.hdc
        let z := kvBlock d
        let s := nbuBegin s q i e
        let lists := blockLists s u d.blocks d.b (d.xoff + d.b * d.g * hd * 2)
        let all := lists.1.flatten
        let s := if lists.2 then nbuFlag s u 3 else s
        let y := bankReads s (descWho q e) (all.map (fun b => (d.pool + b * z, z)))
        if !y.1 then finish (bankPart y.2.2 e (all.length * z)) q i cMemerr
        else
          let t := descResidue y.2.2 q i e r (fun s => nbuFlag s u 4)
          if !t.1 then finish (bankPart t.2 e (all.length * z)) q i cArith
          else
            let s := bankTally t.2 e (all.length * z)
            let qs := xbufGet s u d.xoff (d.b * d.g * hd * 2)
            let first := fun (b : Nat) => ((lists.1.take b).map List.length).foldl (· + ·) 0
            let c0 := s.choice
            let step := attnChoices (16 * all.length) hd
            let parts := (List.range (d.b * d.g)).map (fun j =>
              let b := j / d.g
              let rows := ((y.2.1.drop (first b)).take ((lists.1.getD b []).length)).map (blockRows d)
              attnRow (c0 + j * step) hd (decodeNum 0 d.sm) (headVec 1 hd qs j)
                (rows.map Prod.fst).flatten (rows.map Prod.snd).flatten)
            let s := chooseMore s (d.b * d.g * step)
            let nan := parts.any (fun p => isNan p.m || isNan p.s || p.o.any isNan)
            let s := if nan then nbuFlag s u 0 else s
            nbuEnd s q i e d.out ((parts.map (fun p => ((p.m :: p.s :: p.o).map f32Bytes).flatten)).flatten)
    | _ => s)

/-! ## SCAN (R277, R278) -/

/-- A Sprue entry as a scan sees it: INS_SEQ, DEL_SEQ, RES_SEQ, slot and generation, code. -/
structure ScanRow where
  ins : Nat
  del : Nat
  res : Nat
  slot : Nat
  gen : Nat
  code : List Byte

def scanRow (cbytes : Nat) (l : List Byte) : ScanRow :=
  let w := fun (k : Nat) => bytesWord ((l.drop (8 * k)).take 8)
  { ins := fld (w 0) 47 0, del := fld (w 1) 47 0, res := fld (w 2) 47 0, slot := fld (w 3) 31 0, gen := fld (w 0) 55 48,
    code := (l.drop 32).take cbytes }

/-- The row qualifies for a stamp (R211). -/
def qualifies (hzn stamp : Nat) (r : ScanRow) : Bool := r.ins ≤ stamp && stamp < r.del && hzn < r.res

/-- One list, its best entries by rank with ties in row order: its bytes, and whether a NaN was formed. -/
def scanList (c : Nat) (d : ScanD) (p : DParam) (qb : List Byte) (stamp : Nat) (rows : List ScanRow) : List Byte × Bool :=
  let hit := rows.filter (qualifies d.hzn stamp)
  let cs := (List.range hit.length).map (fun k =>
    let r := hit.getD k ⟨0, 0, 0, 0, 0, []⟩
    ({ score := f32 (codeDist (c + distChoices * k) p qb r.code), slot := r.slot, vid := mkVid d.shard r.slot r.gen } : Cand))
  let best := cs.foldl (fun l x => (insertBy (fun a b => decide (rankKey a.score < rankKey b.score)) x l).take d.l) []
  (header4 best.length 0 hit.length 0 0 0 0 0 ++ (best.map (fun x => resultBytes x.vid x.score 1)).flatten
    ++ (List.replicate (d.l - best.length) fillerEntry).flatten, cs.any (fun x => isNan (ofF32 x.score)))

/-- The list of a query block that does not match: VALID 0, STATUS 0x04. -/
def badList (d : ScanD) : List Byte := header4 0 4 0 0 0 0 0 0 ++ (List.replicate d.l fillerEntry).flatten

/-- The header is one that R182 gives its CFORM and METRIC. -/
def scanMatches (h : Word) : Bool := fld h 63 56 = 1 && decide (fld h 55 52 ≤ 2)

/-- SCAN. -/
def execScan (q : BitVec 16) (i : Word) (r : List Residue) (s : State) : Ans :=
  .next (
    let q := q.toNat
    let u := qUnit q
    match runningOp s q i 8 4 with
    | some (e, .plain _) =>
      let d := scanD e
      if d.rows = 0 then finish s q i 0
      else if !(nbuReady s u) then s
      else
        let z := esize d.cbytes
        let y := bankReads (nbuBegin s q i e) (descWho q e) [(rowBase d, d.rows * z)]
        if !y.1 then finish (bankPart y.2.2 e (d.rows * z)) q i cMemerr
        else
          let t := descResidue y.2.2 q i e r (fun s => nbuFlag s u 4)
          if !t.1 then finish (bankPart t.2 e (d.rows * z)) q i cArith
          else
            let s := bankTally t.2 e (d.rows * z)
            let rows := (slices d.rows z (y.2.1.getD 0 [])).map (scanRow d.cbytes)
            let blocks := (scanBlocks s u d.cbytes d.q (d.xoff + up64 (8 * d.q))).1
            let ok := fun (b : Nat × DParam) => scanMatches (bytesWord (xbufGet s u b.1 8))
            let lists := (List.range d.q).map (fun k =>
              match blocks[k]? with
              | some b =>
                if ok b then
                  scanList (s.choice + k * distChoices * d.rows) d b.2 (xbufGet s u b.1 (qblkSize b.2))
                    (leNat (xbufGet s u (d.xoff + 8 * k) 6)) rows
                else (badList d, false)
              | none => (badList d, false))
            let s := chooseMore s (d.q * distChoices * d.rows)
            let listOf := fun (k : Nat) (l : List Byte × Bool) =>
              stamped (chooseMore s (k * l.1.length)) (leNat (xbufGet s u (d.xoff + 8 * k) 6)) l.1
            let out := ((List.range d.q).map (fun k => listOf k (lists.getD k ([], false)))).flatten
            let s := chooseMore s (d.q * (32 + 16 * d.l))
            let s := if blocks.length < d.q || !(blocks.all ok) then nbuFlag s u 2 else s
            let s := if lists.any Prod.snd then nbuFlag s u 0 else s
            nbuEnd s q i e d.out out
    | _ => s)

/-! ## Retirement and unit loss -/

/-- A footprint ends when its descriptor retires: what an observer wrote into it makes the results undefined (R282); in
the native ordering OUT joins the extents that the issuer's next fence releases (R281). -/
def nbuRetired (s : State) (q : Nat) (i : Word) (e : Entry) : State :=
  let u := qUnit q
  let hit := s.foot.any (fun f => f.q = q && f.i = i && f.dirty)
  let s := { s with foot := s.foot.filter (fun f => !(f.q = q && f.i = i)) }
  let x := (nbuExts e).2
  let s := if hit then
      let s := memSet (tick1 s) (chanAddr u x.1) (freeBytes s x.2)
      if hdrOp (hdr e) = 2 then
        let d := gemvD e
        tick1 (updNbu s u (fun v => { v with
          abuf := (List.range (d.b * d.n)).foldl (fun t k =>
            tset t k ((Config.freeWord (s.choice + k)).setWidth 32)) v.abuf }))
      else s
    else s
  if (nbuOf s u).compat || x.2 = 0 then s
  else updSeq s (Fin.ofNat 64 e.issuer) (fun r => { r with outs := r.outs ++ [(chanAddr u x.1, x.2)] })

/-- The buffers of an NBU are 0, as at power-up (R271, R460). -/
def nbuClear (s : State) (u : Nat) : State := updNbu s u (fun x => { x with xbuf := [], abuf := [] })

/-! ## Registers (R285) -/

/-- A write of NBU_CTL takes effect while the queue is empty and nothing runs (R283). -/
def wrNbuCtl (s : State) (u : Nat) (v : Word) : State :=
  if (queueOf s (mkQ 8 u 0)).entries.isEmpty then updNbu s u (fun x => { x with compat := bitAt v 0 }) else nbuFlag s u 6

/-- NBU_CTL_WRITE. -/
def execNbuCtlWrite (a : Acc) (u : Fin 512) (v : Word) (s : State) : Ans :=
  .next (accDo s a (fun s => wrNbuCtl s u.val v))

def rdNbuCtl (s : State) (u : Nat) : Word := put (bit (nbuOf s u).compat) 0

def wrNbuStatus (s : State) (u : Nat) (v : Word) : State :=
  updNbu s u (fun x => { x with status := w1c x.status v (mask 6 0) })

end Sys2Proof.Machine
end

