-- ==== Sys2Proof/Machine/Gte.lean ====
section
/-!
DEFINITION. Chapter 13: the gather engines (R286 to R300).
-/
namespace Sys2Proof.Machine
open Sys2Proof

/-! ## Table records (R286) -/

structure TableRec where
  format : Nat
  rfmt : Nat
  dim : Nat
  rows : Nat
  base : Nat
  rlog2 : Nat
  riser : Nat
  stamps : Nat
  reserved : Bool

def tableOf (l : List Byte) : TableRec :=
  let w := fun (k : Nat) => bytesWord ((l.drop (8 * k)).take 8)
  { format := fld (w 0) 63 56, rfmt := fld (w 0) 55 52, dim := fld (w 0) 47 32, rows := fld (w 0) 31 0,
    base := fld (w 1) 55 0, rlog2 := fld (w 2) 63 59, riser := fld (w 2) 55 0, stamps := fld (w 3) 55 0,
    reserved := (w 0 &&& mask 51 48) != 0 || (w 1 &&& m6356) != 0 || (w 2 &&& mask 58 56) != 0 || (w 3 &&& m6356) != 0
      || w 4 != 0 || w 5 != 0 || w 6 != 0 || w 7 != 0 }

def fmtBytes (f : Nat) : Nat := fmtBits f / 8

/-- Distance between rows of `dim` elements (RSTRIDE, OSTRIDE, SSTRIDE). -/
def rowStride (f dim : Nat) : Nat := up64 (dim * fmtBytes f)

def tStride (t : TableRec) : Nat := rowStride t.rfmt t.dim

/-- Bytes of a riser slot: its tag and its row (R292). -/
def slotSize (t : TableRec) : Nat := up64 (16 + tStride t)

/-- The record is bad (R286). -/
def tableBad (s : State) (t : TableRec) : Bool :=
  t.format != 1 || t.rfmt > 4 || t.dim = 0 || t.dim > 16384 || t.rows = 0 || t.reserved
  || !(withinTier s t.base (t.rows * tStride t)) || tierOf t.base = some 0
  || t.rlog2 < 4 || t.rlog2 > 20 || (t.riser != 0 && !(inT1 s t.riser (2 ^ t.rlog2 * slotSize t)))
  || (t.stamps != 0 && !((area t.stamps = .t1 || tierOf t.stamps = some 2) && withinTier s t.stamps (8 * t.rows)))

/-- A table record may lie at `a`: 64-byte aligned in T1. -/
def tableChecks (s : State) (a : Nat) : List Chk := [(7, a % 64 != 0, cBadAlign), (8, !(inT1 s a 64), cBadAddr)]

/-! ## Descriptors (R288, R295) -/

structure GatherD where
  table : Nat
  idx : Nat
  offs : Nat
  out : Nat
  nidx : Nat
  nbag : Nat
  idxSize : Nat
  offsSize : Nat
  oF : Nat
  pool : Nat
  round : Nat
  sat : Bool
  dim : Nat
  outSize : Nat
  deadline : Nat
  stat : Nat

def gatherD (e : Entry) : GatherD :=
  let w := bodyWord e
  { table := fld (w 0) 55 0, idx := fld (w 1) 55 0, offs := fld (w 2) 55 0, out := fld (w 3) 55 0, nidx := fld (w 4) 63 32,
    nbag := fld (w 4) 31 0, idxSize := fld (w 5) 63 32, offsSize := fld (w 5) 31 0, oF := fld (w 6) 63 60,
    pool := fld (w 6) 59 58, round := fld (w 6) 57 56, sat := bitAt (w 6) 55, dim := fld (w 6) 54 40,
    outSize := fld (w 6) 39 0, deadline := (w 7).toNat, stat := fld (w 8) 55 0 }

structure ScatterD where
  table : Nat
  idx : Nat
  src : Nat
  nidx : Nat
  seq : Nat
  idxSize : Nat
  sF : Nat
  mode : Nat
  round : Nat
  sat : Bool
  dim : Nat
  srcSize : Nat
  stat : Nat

def scatterD (e : Entry) : ScatterD :=
  let w := bodyWord e
  { table := fld (w 0) 55 0, idx := fld (w 1) 55 0, src := fld (w 2) 55 0, nidx := fld (w 3) 63 32, seq := fld (w 3) 31 0,
    idxSize := fld (w 4) 63 32, sF := fld (w 5) 63 60, mode := fld (w 5) 59 58, round := fld (w 5) 57 56,
    sat := bitAt (w 5) 55, dim := fld (w 5) 54 40, srcSize := fld (w 5) 39 0, stat := fld (w 6) 55 0 }

def gteShape : Nat → Option Shape
  | 1 => some [m6356, m6356, m6356, m6356, 0, 0, 0, 0, m6356]
  | 2 => some [m6356, m6356, m6356, 0, mask 31 0, 0, m6356]
  | _ => none

/-- Output rows of a GATHER. -/
def outRows (d : GatherD) : Nat := if d.pool = 0 then d.nidx else d.nbag

def statBuf (a : Nat) : List Buf := if a = 0 then [] else [⟨a, 32, 32, true⟩]

/-- Steps 7, 8 and 10 with some buffers free to lie in T3. -/
def mixedChecks (s : State) (t3 node : List Buf) : List Chk :=
  (bufChecks s true t3).filter (fun c => c.1 != 10) ++ (bufChecks s false node).filter (fun c => c.1 != 10)
    ++ [(10, anyOverlap (t3 ++ node), cOverlap)]

def gatherChecks (s : State) (d : GatherD) : List Chk :=
  [(4, decide (d.oF > 2), cBadFormat),
   (5, d.pool = 3 || d.round = 3 || d.dim = 0 || (d.pool = 0 && (d.nbag != 0 || d.offs != 0 || d.offsSize != 0)), cBadField),
   (6, decide (d.dim > 16384), cOverLimit)]
  ++ tableChecks s d.table
  ++ mixedChecks s [⟨d.idx, d.idxSize, 4 * d.nidx, false⟩,
      ⟨d.offs, d.offsSize, if d.pool = 0 then 0 else 4 * (d.nbag + 1), false⟩,
      ⟨d.out, d.outSize, outRows d * rowStride d.oF d.dim, true⟩] (statBuf d.stat)
  ++ recChecks s d.stat 32 true

def scatterChecks (s : State) (d : ScatterD) : List Chk :=
  [(4, decide (d.sF > 4), cBadFormat), (5, d.mode > 1 || d.round = 3 || d.dim = 0, cBadField),
   (6, decide (d.dim > 16384), cOverLimit)]
  ++ tableChecks s d.table
  ++ mixedChecks s [⟨d.src, d.srcSize, d.nidx * rowStride d.sF d.dim, false⟩]
      (⟨d.idx, d.idxSize, 4 * d.nidx, false⟩ :: statBuf d.stat)
  ++ recChecks s d.stat 32 true

def gteChecks (s : State) (op : Nat) (e : Entry) : List Chk :=
  if op = 1 then gatherChecks s (gatherD e) else scatterChecks s (scatterD e)

/-! ## Risers (R292 to R294) -/

/-- A slot's tag. -/
structure RTag where
  row : Nat
  v : Bool
  hits : Nat
  ccount : Nat
  cand : Nat

def tagOf (l : List Byte) : RTag :=
  let a := bytesWord (l.take 8)
  let b := bytesWord ((l.drop 8).take 8)
  { row := fld a 31 0, v := bitAt a 32, hits := fld b 15 0, ccount := fld b 31 16, cand := fld b 63 32 }

def tagBytes (t : RTag) : List Byte :=
  wordBytes (put (bit t.v) 32 ||| put t.row 0) ++ wordBytes (put t.cand 32 ||| put t.ccount 16 ||| put t.hits 0)

def slotAddr (t : TableRec) (r : Nat) : Nat := t.riser + r % 2 ^ t.rlog2 * slotSize t

def risersOn (s : State) : Bool := bitAt s.gte.ctl 0

/-- The halvings due since a slot's last update are applied to its counts. -/
def decayed (s : State) (a : Nat) (t : RTag) : RTag :=
  let n := s.gte.halvings - tget s.gte.seen 0 a
  { t with hits := t.hits / 2 ^ n, ccount := t.ccount / 2 ^ n }

def decayNoted (s : State) (a : Nat) : State := { s with gte := { s.gte with seen := tset s.gte.seen a s.gte.halvings } }

/-- One read or write of a table, with what it left. -/
structure Fetch where
  ok : Bool
  data : List Byte
  riser : Bool
  s : State

def rowAddr (t : TableRec) (r : Nat) : Nat := t.base + r * tStride t

def rowLen (t : TableRec) : Nat := t.dim * fmtBytes t.rfmt

/-- A read of row `r` counts as a hit of the resident, or moves the candidate's count on (R293). -/
def countStep (r : Nat) (t : RTag) : RTag :=
  if t.v && t.row = r then { t with hits := min (t.hits + 1) 0xFFFF }
  else if t.cand = r then { t with ccount := min (t.ccount + 1) 0xFFFF }
  else if t.ccount = 0 then { t with cand := r, ccount := 1 }
  else { t with ccount := t.ccount - 1 }

/-- The candidate is promoted where it exceeds the resident's hits by the margin: the slot's new tag, and whether the row is
copied (R293). -/
def candStep (margin r : Nat) (t : RTag) : RTag × Bool :=
  let t := countStep r t
  if t.ccount > t.hits + margin then ({ row := t.cand, v := true, hits := t.ccount, ccount := 0, cand := 0 }, true)
  else (t, false)

/-- A row read that updates its slot (R293); a promotion whose copy cannot be read is given up, since it never changes a
result. -/
def riserFetch (s : State) (w : Who) (t : TableRec) (r : Nat) : Fetch :=
  let a := slotAddr t r
  let x := nodeRead s w a 16
  if !x.ok then ⟨false, [], false, x.s⟩
  else
    let tag := decayed x.s a (tagOf x.data)
    let hit := tag.v && tag.row = r
    let y := if hit then nodeRead x.s w (a + 16) (rowLen t) else anyRead x.s w (rowAddr t r) (rowLen t)
    if !y.ok then ⟨false, [], false, y.s⟩
    else
      let c := candStep (fld y.s.gte.ctl 31 16) r tag
      let z := if c.2 then anyRead y.s w (rowAddr t c.1.row) (tStride t) else ⟨true, [], y.s⟩
      let p := nodeWrite (decayNoted z.s a) w a (if z.ok then tagBytes c.1 ++ z.data else tagBytes (countStep r tag))
      ⟨p.1, y.data, hit, p.2⟩

/-- The read of row `r` would be served by a riser. -/
def riserServes (s : State) (t : TableRec) (r : Nat) : Bool :=
  risersOn s && t.riser != 0 &&
    (let tag := tagOf (nodeRead s { cls := 4, unit := 0, agent := 150 } (slotAddr t r) 16).data
     tag.v && tag.row = r)

def rowFetch (s : State) (w : Who) (t : TableRec) (r : Nat) : Fetch :=
  if risersOn s && t.riser != 0 then riserFetch s w t r
  else
    let y := anyRead s w (rowAddr t r) (rowLen t)
    ⟨y.ok, y.data, false, y.s⟩

/-- A SCATTER to row `r` invalidates its riser first (R294): whether one was valid. -/
def riserClear (s : State) (w : Who) (t : TableRec) (r : Nat) : Bool × Bool × State :=
  if t.riser = 0 then (true, false, s)
  else
    let a := slotAddr t r
    let x := nodeRead s w a 16
    let tag := tagOf x.data
    if !x.ok then (false, false, x.s)
    else if tag.row = r && (tag.v || tag.hits != 0) then
      let p := nodeWrite x.s w a (tagBytes { tag with v := false, hits := 0 })
      (p.1, tag.v, p.2)
    else (true, false, x.s)

/-- RISER_DECAY (R293): a halving is due; each slot takes it at its next update. -/
def execRiserDecay (s : State) : Ans :=
  .next (
    if risersOn s && s.gte.lastDecay.toNat + max 1 (fld s.gte.ctl 47 32) * 1000 ≤ now s then
      { s with gte := { s.gte with halvings := s.gte.halvings + 1, lastDecay := s.tb.time } }
    else s)

/-! ## GATHER (R288 to R291) -/

/-- The counts of a GATHER, and the arrivals still to be told. -/
structure GRun where
  s : State
  ok : Bool := true
  used : Nat := 0
  invalid : Nat := 0
  missing : Nat := 0
  late : Nat := 0
  empty : Nat := 0
  riser : Nat := 0
  badbag : Nat := 0
  arrived : List Bool
  res : List Residue := []
  arith : Bool := false

/-- The rows of one bag: those that arrive, as FP32 values. -/
def gatherBag (w : Who) (t : TableRec) (late : Bool) : List Nat → GRun → List (List Num) × GRun
  | [], g => ([], g)
  | x :: rest, g =>
    if !g.ok then ([], g)
    else if x = 0xFFFFFFFF then gatherBag w t late rest { g with missing := g.missing + 1 }
    else if x ≥ t.rows then gatherBag w t late rest { g with invalid := g.invalid + 1 }
    else
      let slow := area t.base != .t1 && !(riserServes g.s t x)
      let here := !slow || (!late || g.arrived.headD false)
      let g := if slow then { g with arrived := g.arrived.drop 1 } else g
      if !here then gatherBag w t late rest { g with late := g.late + 1 }
      else
        let f := rowFetch g.s w t x
        if !f.ok then ([], { g with s := f.s, ok := false })
        else
          let r := gatherBag w t late rest { g with s := f.s, used := g.used + 1, riser := g.riser + bit f.riser }
          ((rowElems t.rfmt t.dim f.data).map (decodeNum t.rfmt) :: r.1, r.2)

/-- An output row: pooled from 0, converted once, padded with 0 to its stride. -/
def gatherRow (c : Nat) (d : GatherD) (rows : List (List Num)) : List Byte :=
  let n := rows.length
  let bits := (List.range d.dim).map (fun k =>
    if n = 0 then 0
    else
      let acc := fsum (c + k) (Num_zero :: rows.map (fun r => r.getD k Num_zero))
      let v := if d.pool = 2 then div32 acc (intNum n) else acc
      (convNum d.oF d.round d.sat v).bits)
  let l := packRow d.oF bits
  l ++ List.replicate (rowStride d.oF d.dim - l.length) 0

/-- The bag with number `k`: its indices, and whether its offsets are bad. -/
def bagOf (d : GatherD) (idx offs : List Nat) (k : Nat) : List Nat × Bool :=
  if d.pool = 0 then ((idx.drop k).take 1, false)
  else
    let lo := offs.getD k 0
    let hi := offs.getD (k + 1) 0
    if lo > hi || hi > d.nidx then ([], true) else ((idx.drop lo).take (hi - lo), false)

/-- The `n` additions of an output row under residue checking: each mismatches as its outcome, the next in their order, says
(R404, R406). -/
def gatherSum (w : Who) (i : Word) (n : Nat) (g : GRun) : GRun :=
  let z := residues g.s w i 0 (g.res.take n)
  let s := if mismatch (g.res.take n) then gteFlag z.2 w.unit 0 else z.2
  { g with s := s, ok := z.1, arith := !z.1, res := g.res.drop n }

/-- All bags in order: the output bytes and the counts. -/
def gatherAll (w : Who) (i : Word) (t : TableRec) (d : GatherD) (late : Bool) (idx offs : List Nat) :
    List Nat → GRun → List Byte × GRun
  | [], g => ([], g)
  | k :: rest, g =>
    let b := bagOf d idx offs k
    let x := gatherBag w t late b.1 { g with badbag := g.badbag + bit b.2 }
    let g := if x.2.ok then gatherSum w i (x.1.length * d.dim) x.2 else x.2
    if !g.ok then ([], g)
    else
      let e := d.pool != 0 && x.1.isEmpty
      let row := gatherRow g.s.choice d x.1
      let r := gatherAll w i t d late idx offs rest { g with s := chooseMore g.s d.dim, empty := g.empty + bit e }
      (row ++ r.1, r.2)

/-- The status record, where there is one, and the end of the descriptor. -/
def gteEnd (s : State) (w : Who) (q : Nat) (i : Word) (stat : Nat) (l : List Byte) : State :=
  let p := if stat = 0 then (true, s) else nodeWrite s w stat l
  finish p.2 q i (if p.1 then 0 else cMemerr)

def gteBad (s : State) (w : Who) (q : Nat) (i : Word) (stat : Nat) : State :=
  gteEnd (gteFlag s (qUnit q) 4) w q i stat (header4 0 4 0 0 0 0 0 0)

def gteFlagIf (s : State) (u i : Nat) (b : Bool) : State := if b then gteFlag s u i else s

/-- A dispatched GATHER runs to its end; where `late`, rows of T2 and T3 arrive as `arrived` says. -/
def gatherWork (s : State) (q : Nat) (i : Word) (r : List Residue) (late : Bool) (arrived : List Bool) : State :=
  match runningOp s q i 4 1 with
  | some (e, .plain _) =>
    let d := gatherD e
    let w := descWho q e
    let u := qUnit q
    if d.nidx = 0 || outRows d = 0 then finish s q i 0
    else
      let x := nodeRead s w d.table 64
      if !x.ok then finish x.s q i cMemerr
      else
        let t := tableOf x.data
        if tableBad x.s t || t.dim != d.dim then
          gteBad (undefine x.s d.out (outRows d * rowStride d.oF d.dim)) w q i d.stat
        else
          let a := anyRead x.s w d.idx (4 * d.nidx)
          let b := if a.ok && d.pool != 0 then anyRead a.s w d.offs (4 * (d.nbag + 1)) else { a with data := [] }
          if !b.ok then finish b.s q i cMemerr
          else
            let y := gatherAll w i t d late (words32 a.data) (words32 b.data) (List.range (outRows d))
              { s := b.s, arrived := arrived, res := r }
            let g := y.2
            let s := countWork g.s 4 e g.used
            let s := gteFlagIf (gteFlagIf s u 2 (g.late != 0)) u 1 (g.missing != 0 || g.invalid != 0 || g.badbag != 0)
            if !g.ok then finish s q i (if g.arith then cArith else cMemerr)
            else
              let p := anyWrite s w d.out y.1
              if !p.1 then finish p.2 q i cMemerr
              else gteEnd p.2 w q i d.stat
                (header4 g.used (if g.late != 0 then 1 else 0) g.invalid g.missing g.late g.empty g.riser g.badbag)
  | _ => s

/-- The deadline of a GATHER has come. -/
def gatherDue (s : State) (q : Nat) (i : Word) : Bool :=
  match runningOp s q i 4 1 with
  | some (e, _) => (gatherD e).deadline != 0 && decide ((gatherD e).deadline ≤ now s)
  | none => false

/-- GATHER: before its deadline every row arrives; past it no read of T2 or T3 is issued (R249). -/
def execGather (q : BitVec 16) (i : Word) (r : List Residue) (s : State) : Ans :=
  .next (gatherWork s q.toNat i r (gatherDue s q.toNat i) [])

/-- GATHER_DEADLINE (R289): at the deadline some reads of T2 and T3 had arrived, in the order of the bags. -/
def execGatherDeadline (q : BitVec 16) (i : Word) (arrived : List Bool) (r : List Residue) (s : State) : Ans :=
  .next (if gatherDue s q.toNat i then gatherWork s q.toNat i r true arrived else s)

/-! ## SCATTER (R295 to R298) -/

/-- The counts of a scatter. -/
structure SRun where
  s : State
  ok : Bool := true
  used : Nat := 0
  invalid : Nat := 0
  missing : Nat := 0
  stale : Nat := 0
  cleared : Nat := 0
  res : List Residue := []
  miss : Bool := false
  arith : Bool := false

/-- How entries are applied: mode (0 ADD, 1 OVERWRITE), source format, rounding, saturation, stamp, and the ADDR of the
records of their residue mismatches. -/
structure ScatterHow where
  mode : Nat
  sF : Nat
  round : Nat
  sat : Bool
  stamp : Nat
  addr : Word

def rowValues (f dim : Nat) (l : List Byte) : List Num := (rowElems f dim l).map (decodeNum f)

/-- The new contents of a row. -/
def scatterBytes (t : TableRec) (h : ScatterHow) (old src : List Byte) : List Byte :=
  let x := rowValues h.sF t.dim src
  let v := if h.mode = 0 then List.zipWith add32 (rowValues t.rfmt t.dim old) (x.map rnd32) else x
  packRow t.rfmt (v.map (fun y => (convNum t.rfmt h.round h.sat y).bits))

/-- The `n` scatter-adds of one row under residue checking: each mismatches as its outcome, the next in their order, says (R404,
R406). -/
def scatterAdd (w : Who) (h : ScatterHow) (n : Nat) (g : SRun) : SRun :=
  if h.mode != 0 then g
  else
    let z := residues g.s w h.addr 0 (g.res.take n)
    { g with s := z.2, ok := z.1, arith := !z.1, miss := g.miss || mismatch (g.res.take n), res := g.res.drop n }

/-- One entry (R296, R297). -/
def scatterOne (w : Who) (t : TableRec) (h : ScatterHow) (g : SRun) (r : Nat) (src : List Byte) : SRun :=
  if !g.ok then g
  else if r = 0xFFFFFFFF then { g with missing := g.missing + 1 }
  else if r ≥ t.rows then { g with invalid := g.invalid + 1 }
  else
    let st := if h.mode = 1 then nodeRead g.s w (t.stamps + 8 * r) 8 else ⟨true, [], g.s⟩
    if !st.ok then { g with s := st.s, ok := false }
    else if h.mode = 1 && h.stamp < leNat st.data then { g with s := st.s, stale := g.stale + 1 }
    else
      let c := riserClear st.s w t r
      let old := if h.mode = 0 then anyRead c.2.2 w (rowAddr t r) (rowLen t) else ⟨true, [], c.2.2⟩
      if !c.1 || !old.ok then { g with s := old.s, ok := false }
      else
        let g := scatterAdd w h t.dim { g with s := old.s, cleared := g.cleared + bit c.2.1 }
        if !g.ok then g
        else
          let p := anyWrite g.s w (rowAddr t r) (scatterBytes t h old.data src)
          let p := if p.1 && h.mode = 1 then nodeWrite p.2 w (t.stamps + 8 * r) (leBytes 8 h.stamp) else p
          { g with s := p.2, ok := p.1, used := g.used + 1 }

/-- A free order of things (R296). -/
def permuted {α : Type} (c : Nat) : Nat → List α → List α
  | 0, l => l
  | k + 1, l =>
    match l[Config.pick c k % l.length]? with
    | some x => x :: permuted c k (l.eraseIdx (Config.pick c k % l.length))
    | none => l

/-- The entries of a scatter: those that overwrite in batch order, those that add in a free order. -/
def scatterAll (s : State) (w : Who) (t : TableRec) (h : ScatterHow) (res : List Residue) (l : List (Nat × List Byte)) : SRun :=
  let l := if h.mode = 0 then permuted s.choice l.length l else l
  l.foldl (fun g e => scatterOne w t h g e.1 e.2) { s := tick1 s, res := res }

/-- GTE_STATUS and the work of a scatter: each row counts as a read and a write (R299, R425). -/
def scatterNote (g : SRun) (u tenant : Nat) : State :=
  let s := workTally g.s 4 tenant (2 * g.used)
  gteFlagIf (gteFlagIf (gteFlagIf s u 3 (g.stale != 0)) u 1 (g.missing != 0 || g.invalid != 0)) u 0 g.miss

/-- The rows of the running SCATTERs that `n` bytes at `a` meet: the descriptor's queue and index, the row's address and bytes. -/
def scatterRows (s : State) (a n : Nat) : List (Nat × Word × Nat × Nat) :=
  s.queues.flatMap (fun x => if qClass x.1 != 4 then [] else (List.range x.2.entries.length).flatMap (fun k =>
    match x.2.entries[k]? with
    | some e =>
      (match e.st with
      | .running _ =>
        if hdrOp (hdr e) != 2 then []
        else
          let d := scatterD e
          let t := tableOf (seenGet s d.table 64)
          ((words32 (seenGet s d.idx (4 * d.nidx))).filter (fun r => r < t.rows && overlaps (rowAddr t r) (rowLen t) a n)).map
            (fun r => (x.1, x.2.retired + BitVec.ofNat 64 k, rowAddr t r, rowLen t))
      | _ => [])
    | none => []))

/-- A Sequencer's store of `n` bytes at `a` meets rows that running SCATTERs name: it leaves them undefined, now and when those
descriptors end (R296). -/
def tearRows (s : State) (a n : Nat) : State :=
  let l := scatterRows s a n
  let s := l.foldl (fun s r => undefine s r.2.2.1 r.2.2.2) s
  { s with gte := { s.gte with torn := s.gte.torn ++ l } }

/-- A SCATTER ends: the rows that stores met while it ran are undefined (R296). -/
def tornEnd (s : State) (q : Nat) (i : Word) : State :=
  let s := (s.gte.torn.filter (fun r => r.1 = q && r.2.1 = i)).foldl (fun s r => undefine s r.2.2.1 r.2.2.2) s
  { s with gte := { s.gte with torn := s.gte.torn.filter (fun r => !(r.1 = q && r.2.1 = i)) } }

/-- SCATTER; `ns` is the epoch and node number that its dispatch noted. -/
def execScatter (q : BitVec 16) (i : Word) (r : List Residue) (s : State) : Ans :=
  .next (
    let q := q.toNat
    match runningOp s q i 4 2 with
    | some (e, .plain ns) =>
      let d := scatterD e
      let w := descWho q e
      let u := qUnit q
      if d.nidx = 0 then finish s q i 0
      else
        let x := nodeRead s w d.table 64
        if !x.ok then finish x.s q i cMemerr
        else
          let t := tableOf x.data
          if tableBad x.s t || t.dim != d.dim || (d.mode = 1 && t.stamps = 0) then gteBad x.s w q i d.stat
          else
            let z := rowStride d.sF d.dim
            let a := nodeRead x.s w d.idx (4 * d.nidx)
            let b := if a.ok then anyRead a.s w d.src (d.nidx * z) else a
            if !b.ok then finish b.s q i cMemerr
            else
              let h : ScatterHow := {
                mode := d.mode, sF := d.sF, round := d.round, sat := d.sat, addr := i,
                stamp := fld ns 31 16 * 2 ^ 48 + d.seq * 2 ^ 16 + fld ns 15 0 }
              let g := scatterAll b.s w t h r (List.zipWith Prod.mk (words32 a.data) (slices d.nidx z b.data))
              let s := tornEnd (scatterNote g u w.tenant) q i
              if !g.ok then finish s q i (if g.arith then cArith else cMemerr)
              else gteEnd s w q i d.stat (header4 g.used 0 g.invalid g.missing g.stale 0 g.cleared 0)
    | _ => s)

/-! ## Registers (R300) -/

def wrGteStatus (s : State) (u : Nat) (v : Word) : State :=
  { s with gte := { s.gte with status := tmod s.gte.status 0 u (fun x => w1c x v (mask 4 0)) } }

def wrRiserCtl (s : State) (v : Word) : State :=
  { s with gte := { s.gte with ctl := v &&& (mask 47 16 ||| mask 0 0) } }

end Sys2Proof.Machine
end

