-- ==== Sys2Proof/Machine/Sle.lean ====
section
/-!
DEFINITION. Chapter 10: selection (R220 to R235).
-/
namespace Sys2Proof.Machine
open Sys2Proof

structure TopkD where
  lists : Nat
  out : Nat
  spill : Nat
  k : Nat
  nlist : Nat
  dedup : Bool
  outSize : Nat
  spillSize : Nat
  capsum : Nat

def topkD (e : Entry) : TopkD :=
  let w := bodyWord e
  { lists := fld (w 0) 55 0, out := fld (w 1) 55 0, spill := fld (w 2) 55 0, k := fld (w 3) 63 32, nlist := fld (w 3) 31 24,
    dedup := bitAt (w 3) 23, outSize := fld (w 4) 39 0, spillSize := fld (w 5) 39 0, capsum := fld (w 6) 39 0 }

def sleShape : Nat → Option Shape
  | 1 => some [m6356, m6356, m6356, mask 22 0, mask 63 40, mask 63 40, mask 63 40]
  | _ => none

def spills (d : TopkD) : Bool := d.k > 4096

def spillNeed (d : TopkD) : Nat := if spills d then (if d.dedup then 48 else 32) * d.capsum else 0

def topkChecks (s : State) (d : TopkD) : List Chk :=
  let own : List Chk := [
    (5, d.k = 0 || d.nlist = 0 || d.capsum = 0 || d.nlist > 64 || (!(spills d) && (d.spill != 0 || d.spillSize != 0)), cBadField),
    (8, spills d && !(inT0 d.spill || area d.spill = .t1), cBadAddr)]
  own ++ bufChecks s false ([⟨d.lists, 32 * d.nlist, 0, false⟩, ⟨d.out, d.outSize, 32 + 16 * d.k, true⟩]
    ++ (if spills d then [⟨d.spill, d.spillSize, spillNeed d, true⟩] else []))

/-! ## The list table (R224 to R226) -/

structure ListRec where
  form : Nat
  sorted : Bool
  missing : Bool
  base : Nat
  count : Nat
  vidx : Word
  size : Nat
  reserved : Bool

def listRecOf (b : List Byte) : ListRec :=
  let w := fun (k : Nat) => bytesWord ((b.drop (8 * k)).take 8)
  let form := fld (w 0) 63 62
  { form := form, sorted := bitAt (w 0) 61, missing := bitAt (w 0) 60, base := fld (w 0) 55 0, count := fld (w 1) 63 32,
    vidx := w 2, size := fld (w 3) 39 0,
    reserved := fld (w 0) 59 56 != 0 || fld (w 1) 31 0 != 0 || fld (w 3) 63 40 != 0 || (form = 2 && fld (w 2) 63 56 != 0)
      || (form = 0 && w 2 != 0) }

/-- The record is bad (R226). -/
def badRec (s : State) (d : TopkD) (r : ListRec) : Bool :=
  let need := if r.form = 0 then 32 + 16 * r.count else 4 * r.count
  let align := if r.form = 0 then 16 else 4
  let touch := fun (a n : Nat) => overlaps a n d.out d.outSize || (spills d && overlaps a n d.spill d.spillSize)
  let vids := r.vidx.toNat
  r.form = 3 || r.reserved || r.size < need || r.base % align != 0 || !(inTier s r.base r.size) || touch r.base r.size
    || (r.form = 2 && (vids % 8 != 0 || !(inTier s vids (8 * r.count)) || touch vids (8 * r.count)))

/-- What reading the lists gives: no memory error, the considered entries of each list in input order, whether a LIST is
partial. -/
structure ListsRead where
  ok : Bool
  lists : List (ListRec × List Cand)
  part : Bool
  s : State

/-- The considered entries of one list (R225). -/
def readList (s : State) (w : Who) (r : ListRec) : ListsRead :=
  match r.form with
  | 0 =>
    let h := nodeRead s w r.base 32
    if !h.ok then ⟨false, [], false, h.s⟩
    else
      let w0 := bytesWord (h.data.take 8)
      let n := min (fld w0 63 32) r.count
      let x := nodeRead h.s w (r.base + 32) (16 * n)
      ⟨x.ok, [(r, (chunks 16 x.data.length x.data).map (fun b =>
        let w1 := bytesWord (b.drop 8)
        { score := BitVec.ofNat 32 (fld w1 63 32), slot := 0, vid := bytesWord (b.take 8), flags := fld w1 31 16 }))],
        fld w0 7 0 != 0, x.s⟩
  | f =>
    let x := nodeRead s w r.base (4 * r.count)
    let v := if x.ok && f = 2 then nodeRead x.s w r.vidx.toNat (8 * r.count) else { x with data := [] }
    ⟨v.ok, [(r, (List.range r.count).map (fun k =>
      { score := BitVec.ofNat 32 (leNat ((x.data.drop (4 * k)).take 4)), slot := 0,
        vid := if f = 2 then bytesWord ((v.data.drop (8 * k)).take 8) else r.vidx + BitVec.ofNat 64 k }))], false, v.s⟩

def readLists (s : State) (w : Who) : List ListRec → ListsRead
  | [] => ⟨true, [], false, s⟩
  | r :: rest =>
    let a := readList s w r
    if a.ok then
      let b := readLists a.s w rest
      ⟨b.ok, a.lists ++ b.lists, a.part || b.part, b.s⟩
    else a

/-! ## The result (R227) -/

/-- Stable order by rank: entries are given in input order. -/
def rankSort (l : List Cand) : List Cand :=
  l.foldl (fun a e => insertBy (fun x y => decide (rankKey x.score < rankKey y.score)) e a) []

def fDup : Nat := 0x20

structure Picked where
  out : List Cand := []
  ties : Nat := 0
  dups : Nat := 0

/-- One entry of the procedure of R227; `out` is in rank order. -/
def pickOne (k : Nat) (dedup : Bool) (p : Picked) (x : Cand) : Picked :=
  if dedup && p.out.any (fun y => y.vid = x.vid) then
    { p with dups := p.dups + 1, out := p.out.map (fun y => if y.vid = x.vid then { y with flags := y.flags ||| fDup } else y) }
  else if p.out.length < k then { p with out := p.out ++ [x] }
  else match p.out.getLast? with
    | some y => if rankKey x.score = rankKey y.score then { p with ties := p.ties + 1 } else p
    | none => p

def topk (k : Nat) (dedup : Bool) (l : List Cand) : Picked := (rankSort l).foldl (pickOne k dedup) {}

/-- An entry of a SORTED list ranks before its predecessor (R230). -/
def outOfOrder : List Cand → Bool
  | a :: b :: r => rankKey b.score < rankKey a.score || outOfOrder (b :: r)
  | _ => false

def sleFlags (s : State) (u : Nat) (l : List (Nat × Bool)) : State :=
  l.foldl (fun s e => if e.2 then sleFlag s u e.1 else s) s

/-- Word 0 of the output header (R228). -/
def topkWord0 (valid missing status : Nat) : Word := put (sat32 valid) 32 ||| put (missing % 65536) 16 ||| put status 0

def notVector (c : Cand) : Bool := c.vid = -1

/-! ## SPILL (R233) -/

/-- Merge passes over `r` runs: P of R233. -/
def mergePasses (r : Nat) : Nat := ((List.range 6).findIdx (fun p => decide (r ≤ 64 ^ (p + 1)))) + 1

/-- Bytes that the runs and the merge passes move in SPILL: `nu` entries of unsorted lists, `n` in all, in `r` runs (R233,
log 109); the set of output VIDs adds a free number. -/
def spillMoves (s : State) (d : TopkD) (nu n r : Nat) : Nat :=
  32 * nu + (mergePasses r - 1) * (32 * n) + if d.dedup then 16 * Config.pick s.choice 0 else 0

/-- SPILL is worked in, in the bytes that CAPSUM requires of it (R95); a write of part of a bad codeword fails (R235). -/
def spillWork (s : State) (w : Who) (d : TopkD) (bytes : Nat) : Bool × State :=
  match uePart s d.spill (spillNeed d) with
  | some c => (false, memErr s w 4 c 0)
  | none =>
    let s := tierTouch s w.tenant ((tierOf d.spill).getD 0) bytes
    let s := invalidateExt s d.spill (spillNeed d)
    (true, tierWrite (tick1 s) d.spill (freeBytes s (spillNeed d)))

/-- A TOPK ends: SPILL, where it is used, holds no defined contents (R233), and OUT none after a memory error (R235). -/
def topkEnd (s : State) (q : Nat) (i : Word) (d : TopkD) (code : Nat) : State :=
  let s := undefine s d.spill (spillNeed d)
  finish (if code = cMemerr then undefine s d.out (32 + 16 * d.k) else s) q i code

/-- A TOPK with K above 4,096 over lists that have been read (R233): whether SPILL could be used, and was it. Only the sorted
lists need no run; only DEDUP needs the set. -/
def spillRun (s : State) (w : Who) (u : Nat) (d : TopkD) (lists : List (Bool × List Cand)) : Bool × State :=
  let runs := (lists.filter (fun l => !l.1)).map (fun l => l.2.length)
  let nu := runs.foldl (· + ·) 0
  let n := (lists.map (fun l => l.2.length)).foldl (· + ·) 0
  let r := (runs.map (fun k => cdiv k 4096)).foldl (· + ·) 0 + (lists.filter (fun l => l.1)).length
  if !(spills d) || (nu = 0 && !(d.dedup && n != 0)) then (true, s)
  else spillWork (sleFlag (tick1 s) u 2) w d (spillMoves s d nu n r)

/-- The procedure over lists that have been read, and the output of R228. -/
def topkWrite (s : State) (w : Who) (q : Nat) (i : Word) (e : Entry) (d : TopkD) (missing : Nat)
    (x : ListsRead) (r : List Residue) : State :=
  let u := qUnit q
  let all := (x.lists.map Prod.snd).flatten
  let es := all.filter (fun c => !(notVector c))
  let kept := x.lists.map (fun l => (l.1.sorted, l.2.filter (fun c => !(notVector c))))
  let unsorted := kept.any (fun l => l.1 && outOfOrder l.2)
  let isNan_ := fun (c : Cand) => isNan (ofF32 c.score)
  let nan := (es.filter isNan_).length
  let s := sleFlags (countWork s 3 e all.length) u [(3, unsorted), (0, all.any isNan_)]
  let y := spillRun s w u d (kept.map (fun l => (l.1 && !(outOfOrder l.2), l.2)))
  let z := descResidue y.2 q i e r id
  if !y.1 then topkEnd y.2 q i d cMemerr
  else if !z.1 then topkEnd z.2 q i d cArith
  else
    let p := topk d.k d.dedup es
    let fb := (p.out.filter (fun c => (c.flags &&& 2) != 0)).length
    let head := wordBytes (topkWord0 p.out.length missing (bit (missing != 0 || x.part)))
      ++ wordBytes (put (sat32 es.length) 32 ||| put (sat32 p.dups) 0)
      ++ wordBytes (put (sat32 p.ties) 32 ||| put (sat32 nan) 0)
      ++ wordBytes (put (sat32 (all.length - es.length)) 32 ||| put (sat32 fb) 0)
    let body := (p.out.map (fun c => resultBytes c.vid c.score c.flags)).flatten
      ++ (List.replicate (d.k - p.out.length) fillerEntry).flatten
    let o := nodeWrite (sleFlags z.2 u [(1, decide (p.dups > 0))]) w d.out (head ++ body)
    topkEnd o.2 q i d (if o.1 then 0 else cMemerr)

/-- TOPK (R225 to R235). -/
def execTopk (q : BitVec 16) (i : Word) (r : List Residue) (s : State) : Ans :=
  .next (
    let q := q.toNat
    let u := qUnit q
    match runningOp s q i 3 1 with
    | some (e, .plain _) =>
      let d := topkD e
      let w := descWho q e
      let t := nodeRead s w d.lists (32 * d.nlist)
      if !t.ok then topkEnd t.s q i d cMemerr
      else
        let recs := (chunks 32 t.data.length t.data).map listRecOf
        let isBad := fun (r : ListRec) => !r.missing && badRec t.s d r
        let bad := recs.any isBad
        let use := recs.filter (fun r => !r.missing && !(isBad r))
        let missing := recs.length - use.length
        let total := (use.map (·.count)).foldl (· + ·) 0
        let s := sleFlags t.s u [(4, bad)]
        if total > d.capsum then
          let s := undefine (sleFlag s u 5) (d.out + 32) (16 * d.k)
          let o := nodeWrite s w d.out (wordBytes (topkWord0 0 missing 4) ++ wordBytes 0 ++ wordBytes 0 ++ wordBytes 0)
          topkEnd o.2 q i d (if o.1 then 0 else cMemerr)
        else
          let x := readLists s w use
          if x.ok then topkWrite x.s w q i e d missing x r else topkEnd (countPart x.s 3 e total) q i d cMemerr
    | _ => s)

end Sys2Proof.Machine
end

