-- ==== Sys2Proof/Machine/FlashOps.lean ====
section
/-!
DEFINITION. Chapter 14: the physical flash behind a flash engine: locations (R304), the map, programming pages into
superblocks with parity (R315, R316), valid AUs, garbage collection (R318 to R320), checkpoints and replay (R321, R322).
-/
namespace Sys2Proof.Machine
open Sys2Proof

/-! ## The engine's registers and the running descriptors -/

def fleOf (s : State) (u : Nat) : Fle := tget s.fle {} u

def updFle (s : State) (u : Nat) (f : Fle → Fle) : State := { s with fle := tmod s.fle {} u f }

def setFle (s : State) (u : Nat) (f : Fle) : State := { s with fle := tset s.fle u f }

def Fle.flag (f : Fle) (i : Nat) : Fle := { f with sticky := stick f.sticky i }

def bgIdle (f : Fle) : Nat := fld f.gcCtl 63 48
def bgFree (f : Fle) : Nat := fld f.gcCtl 47 32
def fgFree (f : Fle) : Nat := fld f.gcCtl 31 16
def reserve (f : Fle) : Nat := fld f.gcCtl 15 0

/-- Free superblocks F. -/
def freeSb (f : Fle) : Nat := f.pool.length

def modOf (f : Fle) (m : Nat) : FMod := tget f.mods {} m

def setMod (f : Fle) (m : Nat) (g : FMod → FMod) : Fle := { f with mods := tmod f.mods {} m g }

/-! ## Locations (R302, R304) -/

/-- The number of a superblock: module, die, block. -/
def sbKey (m d b : Nat) : Nat := m * 2 ^ 15 + d * 2 ^ 13 + b

def sbModule (k : Nat) : Nat := k / 2 ^ 15

/-- The location of AU slot 0 of a page: member `j` is channel of the pair, target, plane. -/
def pageLoc (k j stripe : Nat) : Nat :=
  (2 * sbModule k + j / 32) * 2 ^ 34 + j / 4 % 8 * 2 ^ 31 + k / 2 ^ 13 % 4 * 2 ^ 29 + j % 4 * 2 ^ 27
    + k % 2 ^ 13 * 2 ^ 14 + stripe * 4

/-- The superblock of a location. A place of the system area, and one that went with its module, is in none of the engine's. -/
def locSb (l : Nat) : Nat := sbKey (l / 2 ^ 35) (l / 2 ^ 29 % 4) (l / 2 ^ 14 % 2 ^ 13)

/-- The die of a location: channel, target, die. -/
def locDie (l : Nat) : Nat := l / 2 ^ 29

/-- Word 0 of a tag (R304). -/
def tagHead (seq kind : Nat) : Word := put (seq % 2 ^ 48) 16 ||| put kind 8 ||| put 1 0

/-- The tag of a parity page, KIND 0x04, which carries no AU slots (R304, R316). -/
def parityTag (p : ParityPage) : List Word := tagHead p.seq 4 :: List.replicate 8 0

/-- The two words of a range of a trim page: space and first AU, count of AUs (R304). -/
def rangeWords (r : Nat × Nat × Nat) : List Word := [put r.1 52 ||| put (r.2.1 % 2 ^ 36) 0, put (r.2.2 % 2 ^ 36) 0]

/-- The tag of a page, words 0 to 8; words 9 to 11 are reserved (R304). -/
def tagWords (p : FPage) : List Word :=
  let slot := fun (a : Nat) => p.slots.find? (fun x => x.a = a)
  tagHead p.seq p.kind
    :: (List.range 4).map (fun a => match slot a with
      | some x => put x.lbs 52 ||| put (x.lau % 2 ^ 36) 16 ||| put 1 0
      | none => 0)
    ++ (List.range 4).map (fun a => match slot a with
      | some x => if p.kind = 2 then put (x.src % 2 ^ 37) 0 else 0
      | none => 0)

/-- The member of a location. -/
def locMember (l : Nat) : Nat := l / 2 ^ 34 % 2 * 32 + l / 2 ^ 31 % 8 * 4 + l / 2 ^ 27 % 4

def locPage (l : Nat) : Nat := l / 4 * 4

/-! ## The map (R305, R307) -/

/-- The map's number of an AU. -/
def auKey (lbs lau : Nat) : Nat := lbs * 2 ^ 36 + lau

def mapGet (f : Fle) (lbs lau : Nat) : Option Nat := tfind f.map (auKey lbs lau)

def mapSet (f : Fle) (lbs lau loc : Nat) : Fle := { f with map := tset f.map (auKey lbs lau) loc }

/-- The AUs from `lau` on, `n` of them, leave the map. -/
def unmapAus (f : Fle) (lbs lau n : Nat) : Fle :=
  { f with map := f.map.filter (fun e => !(auKey lbs lau ≤ e.1 && e.1 < auKey lbs lau + n)) }

def unmapSpace (f : Fle) (lbs : Nat) : Fle := unmapAus f lbs 0 (2 ^ 36)

/-- AUs committed to spaces. -/
def capSum (f : Fle) : Nat := (f.spaces.map Prod.snd).foldl (· + ·) 0

/-- The slot at a location, if its page is programmed. -/
def slotAt (f : Fle) (loc : Nat) : Option FSlot :=
  match tfind f.flash (locPage loc) with
  | some p => p.slots.find? (fun x => x.a = loc % 4)
  | none => none

/-- The module of a superblock holds its data: it has not failed and is not gone (R327). -/
def sbServes (f : Fle) (k : Nat) : Bool :=
  match (modOf f (sbModule k)).st with
  | .inService | .evacuating => true
  | _ => false

/-- A place in the write buffer, of a page that failed and waits to be programmed elsewhere (R324): no location of an AU. -/
def inBuffer (loc : Nat) : Bool := 2 ^ 41 ≤ loc

/-- The place in the write buffer of the page with this SEQ that failed at `page`. -/
def bufferLoc (seq page : Nat) : Nat := (seq + 16) * 2 ^ 37 + page % 2 ^ 37

/-- The superblock in which a page that waits in the write buffer failed. -/
def failedSb (loc : Nat) : Nat := locSb (loc % 2 ^ 37)

/-- The module of a location has failed or is gone: its data is lost (R327). -/
def locLost (f : Fle) (loc : Nat) : Bool := !(inBuffer loc) && !(sbServes f (locSb loc))

def auBytes : Nat := 4096
def secBytes : Nat := 1024

/-- The bytes of an AU as its location holds them; zeros where it is not mapped (R305). -/
def auData (f : Fle) (loc : Option Nat) : List Byte :=
  match loc with
  | none => List.replicate auBytes 0
  | some l => match slotAt f l with | some x => x.data | none => List.replicate auBytes 0

/-- Sector `k` of an AU. -/
def secOf (d : List Byte) (k : Nat) : List Byte := (d.drop (k * secBytes)).take secBytes

/-! ## Capacity (R306) and superblock counts -/

def healthy (f : Fle) (k : Nat) : Bool := decide ((modOf f (sbModule k)).st = .inService)

/-- AUs of the healthy superblocks, those of module `skip` left out. -/
def healthyAus (f : Fle) (skip : Option Nat) : Nat :=
  ((f.sbs.filter (fun e => healthy f e.1 && some (sbModule e.1) != skip)).map
    (fun e => e.2.members.length * e.2.pages * 4)).foldl (· + ·) 0

def usableAu (f : Fle) : Nat := healthyAus f none * 93 / 100

/-- Slots of a superblock that the map points to. -/
def validSlots (f : Fle) (k : Nat) : List Nat :=
  (f.map.filter (fun e => locSb e.2 = k)).map Prod.snd

def sbCount (f : Fle) (p : Sb → Bool) : Nat := (f.sbs.filter (fun e => p e.2)).length

/-- The superblock is not VERIFIED yet: OPEN or CLOSED, with parity held. -/
def unverifiedSb (b : Sb) : Bool := b.st = .open_ || b.st = .closed

/-- Superblocks for which the parity pool holds parity (R316). -/
def unverified (f : Fle) : Nat := sbCount f unverifiedSb

/-- SEQ at its end makes the FLE read-only (R325). -/
def roSeq (f : Fle) : Fle := if f.seq ≥ 2 ^ 48 - 1 then { f with readOnly := true } else f

/-- Capacity below the committed sum, or SEQ at its end, makes the FLE read-only (R320, R325). -/
def roCheck (f : Fle) : Fle :=
  if usableAu f < capSum f || f.seq ≥ 2 ^ 48 - 1 then { f with readOnly := true } else f

/-- A superblock of a module in service has programmed a slot that holds no valid AU: GC can free something. -/
def someInvalid (f : Fle) : Bool :=
  f.sbs.any (fun e => healthy f e.1 && e.2.st != .free
    && decide ((validSlots f e.1).length < 4 * (f.flash.filter (fun p => locSb p.1 = e.1)).length))

/-- READ_ONLY clears when a TRIM or a SPACE DELETE has made AUs invalid, so that GC can free a superblock (R320); SEQ at its
end keeps it (R325). -/
def roClear (before f : Fle) : Fle :=
  if f.readOnly && decide (f.map.length < before.map.length) && someInvalid f && f.seq < 2 ^ 48 - 1 then
    { f with readOnly := false }
  else f

/-! ## Programming pages (R315, R316) -/

def setSb (f : Fle) (k : Nat) (b : Sb) : Fle := { f with sbs := tset f.sbs k b }

/-- The open superblock for descriptor writes or for GC copies, other than `avoid`. -/
def openSb (f : Fle) (gc : Bool) (avoid : Option Nat) : Option (Nat × Sb) :=
  f.sbs.find? (fun e => e.2.st = .open_ && e.2.gc == gc && some e.1 != avoid && healthy f e.1 && !e.2.members.isEmpty)

/-- The next free superblock of a module in service opens, while at most 8 are open and the parity pool has room (R315, R316,
R326). -/
def openNext (f : Fle) (gc : Bool) : Option (Fle × Nat × Sb) :=
  if sbCount f (fun b => b.st = .open_) ≥ 8 || unverified f ≥ 32 then none
  else
    match f.pool.find? (healthy f) with
    | none => none
    | some k =>
      match tfind f.sbs k with
      | none => none
      | some b =>
        let b := { b with st := SbSt.open_, gc := gc, stripe := 0, done := [], parity := [], holdFor := [] }
        some (setSb { f with pool := f.pool.erase k } k b, k, b)

/-- Every member of the stripe being filled is programmed. -/
def stripeFull (b : Sb) : Bool := b.st = .open_ && !b.done.isEmpty && b.members.all (fun j => b.done.contains j)

/-- The parity page over the members programmed so far in the open stripe, which supersedes an older one; a complete stripe
moves the superblock on (R315, R316). -/
def coverStripe (f : Fle) (k : Nat) : Fle :=
  match tfind f.sbs k with
  | none => f
  | some b =>
    let page : ParityPage := { seq := f.seq + 1, covers := b.done.map (fun j => pageLoc k j b.stripe) }
    let full := stripeFull b
    let b := { b with parity := tset b.parity b.stripe page }
    let f := roSeq { f with seq := f.seq + 1, cutBytes := f.cutBytes + 16384 }
    if full then
      let b := { b with stripe := b.stripe + 1, done := [] }
      if b.stripe ≥ b.pages then setSb { f with closes := f.closes + 1 } k { b with st := .closed, closedAt := f.closes }
      else setSb f k b
    else setSb f k b

/-- The parity pages of the complete stripes are programmed. -/
def coverFull (f : Fle) : Fle :=
  ((f.sbs.filter (fun e => stripeFull e.2)).map Prod.fst).foldl coverStripe f

/-- The next page of superblock `k` is programmed: its location; none where no good member is left. -/
def programIn (f : Fle) (k : Nat) (b : Sb) (p : FPage) : Option (Fle × Nat) :=
  match b.members.find? (fun j => !(b.done.contains j)) with
  | none => none
  | some j =>
    let loc := pageLoc k j b.stripe
    some (setSb (roSeq { f with seq := f.seq + 1, cutBytes := f.cutBytes + 16384,
                                flash := tset f.flash loc { p with seq := f.seq + 1 } }) k { b with done := b.done ++ [j] }, loc)

/-- A page is programmed in an open superblock, after the parity of the stripes that are complete; none where writes must
wait. -/
def program (f : Fle) (gc : Bool) (avoid : Option Nat) (p : FPage) : Option (Fle × Nat) :=
  let f := coverFull f
  match openSb f gc avoid with
  | some (k, b) => programIn f k b p
  | none =>
    match openNext f gc with
    | some (f, k, b) => programIn f k b p
    | none => none

/-- The map follows the slots of a page at `loc`. -/
def mapSlots (f : Fle) (loc : Nat) (l : List FSlot) : Fle := l.foldl (fun f x => mapSet f x.lbs x.lau (loc + x.a)) f

/-- A page of the system area (log 110): no location that an AU can have. -/
def sysPage (f : Fle) (p : FPage) : Fle :=
  roSeq { f with seq := f.seq + 1, cutBytes := f.cutBytes + 16384,
                 flash := tset f.flash (2 ^ 37 + 4 * (f.seq + 1)) { p with seq := f.seq + 1 } }

def inSystem (loc : Nat) : Bool := 2 ^ 37 ≤ loc && loc < 2 ^ 40

/-- A page of the engine's own, which no lack of free superblocks holds up (R320): then it goes into the system area. -/
def programOwn (f : Fle) (p : FPage) : Fle :=
  match program f false none p with
  | some x => x.1
  | none => sysPage f p

/-- A parity page of the superblock covers the page. -/
def parityOver (b : Sb) (loc : Nat) : Option ParityPage := (b.parity.find? (fun e => e.2.covers.contains loc)).map Prod.snd

/-- A page has programmed and a parity page covers it, or covered it until its superblock was verified. -/
def isCovered (f : Fle) (loc : Nat) : Bool :=
  match tfind f.sbs (locSb loc) with
  | some b => (parityOver b loc).isSome || !(unverifiedSb b)
  | none => false

/-- The page's block was retired while its superblock held parity: it must be rebuilt (R325). -/
def blockRetired (f : Fle) (loc : Nat) : Bool :=
  match tfind f.sbs (locSb loc) with
  | some b => unverifiedSb b && !(b.members.contains (locMember loc))
  | none => false

/-- A page can be rebuilt: parity covers it, and no other page under that parity page is lost (R316). -/
def rebuilds (f : Fle) (lost : Nat → Bool) (loc : Nat) : Bool :=
  match tfind f.sbs (locSb loc) with
  | some b => unverifiedSb b && (match parityOver b loc with
      | some p => p.covers.all (fun x => x = loc || !(lost x))
      | none => false)
  | none => false

/-- The AU at a location is read by a rebuild from parity (R325). -/
def rebuiltAt (f : Fle) (loc : Nat) : Bool := blockRetired f loc && rebuilds f (blockRetired f) (locPage loc)

/-- The sectors of an AU that have no content: all where its module is gone (R327) or its block is retired and parity does not
rebuild it (R325), else those whose content went before. -/
def lostSectors (f : Fle) (loc : Option Nat) : List Nat :=
  match loc with
  | none => []
  | some l =>
    if locLost f l || (blockRetired f l && !(rebuiltAt f l)) then List.range 4
    else (match slotAt f l with | some x => x.lost | none => [])

/-- PARITY_REBUILD where one of the locations is read by a rebuild (R325). -/
def noteRebuilt (f : Fle) (locs : List Nat) : Fle := if locs.any (rebuiltAt f) then f.flag 5 else f

/-- AU slots in pages of four. -/
def toPages (l : List FSlot) : List (List FSlot) :=
  (chunks 4 l.length l).map (fun g => (List.range g.length).map (fun i =>
    match g[i]? with | some x => { x with a := i } | none => { a := i, lbs := 0, lau := 0, data := [] }))

/-- Data pages for AU slots: the engine after, and the pages' locations; none where a page must wait. -/
def programData (f : Fle) (avoid : Option Nat) : List (List FSlot) → Option (Fle × List Nat)
  | [] => some (f, [])
  | g :: r =>
    match program f false avoid { seq := 0, kind := 1, slots := g } with
    | none => none
    | some (f, loc) =>
      match programData (mapSlots f loc g) avoid r with
      | none => none
      | some (f, ls) => some (f, loc :: ls)

/-! ## Garbage collection (R318 to R320) -/

/-- The newest durable root. -/
def newestRoot (a b : Option FleRoot) : Option FleRoot :=
  match a, b with
  | some x, some y => if x.cpSeq < y.cpSeq then some y else some x
  | some x, none => some x
  | none, y => y

/-- The GC page that takes another AU: the last page programmed, after the newest checkpoint, so that replay meets its slots
where the map changed (R321, R322); it has a free slot and lies in an open superblock. -/
def gcPage (f : Fle) : Option (Nat × FPage) :=
  let cp := match newestRoot f.rootA f.rootB with | some r => r.cpSeq | none => 0
  f.flash.find? (fun e => e.2.kind = 2 && e.2.slots.length < 4 && e.2.seq = f.seq && decide (cp < e.2.seq)
    && (match tfind f.sbs (locSb e.1) with | some b => b.st = .open_ && healthy f (locSb e.1) | none => false))

/-- The AU slot `x` at `loc` is copied, KIND 0x02 with SRC, and the map follows while it still holds SRC (R318). What cannot be
read there any more is lost in the copy too (R325, R327). -/
def gcCopy (f : Fle) (loc : Nat) (x : FSlot) (avoid : Option Nat) : Option Fle :=
  let x := { x with lost := lostSectors f (some loc), old := some loc }
  let f := noteRebuilt f [loc]
  let move := fun (f : Fle) (l : Nat) =>
    if mapGet f x.lbs x.lau = some loc then mapSet f x.lbs x.lau l else f
  match (if avoid.isSome then none else gcPage f) with
  | some (l, p) =>
    let y := { x with a := p.slots.length, src := loc }
    some (move { f with flash := tset f.flash l { p with slots := p.slots ++ [y] } } (l + p.slots.length))
  | none =>
    match program f true avoid { seq := 0, kind := 2, slots := [{ x with a := 0, src := loc }] } with
    | some (f, l) => some (move f l)
    | none => none

/-- The valid AU at a location. -/
def validAt (f : Fle) (loc : Nat) : Option FSlot :=
  match slotAt f loc with
  | some x => if mapGet f x.lbs x.lau = some loc then some x else none
  | none => none

/-- The choice of a victim among VERIFIED superblocks (R318). -/
def chooseVictim (f : Fle) : Option Nat :=
  let vs := f.sbs.filter (fun e => e.2.st = .verified && healthy f e.1)
  let es := f.sbs.map (fun e => e.2.erases)
  let hi : Nat := es.foldl max 0
  let lo : Nat := es.foldl min (es.headD 0)
  let wear := decide (hi > lo + 500)
  let key := fun (e : Nat × Sb) => if wear then e.2.erases else (validSlots f e.1).length
  (vs.foldl (fun b e =>
    match b with
    | none => some e
    | some x => if key e < key x || (key e = key x && e.2.closedAt < x.2.closedAt) then some e else b)
    (none : Option (Nat × Sb))).map Prod.fst

/-- GC takes a victim if it has none. -/
def takeVictim (f : Fle) : Fle :=
  match f.victim with
  | some _ => f
  | none =>
    match chooseVictim f with
    | none => f
    | some k =>
      match tfind f.sbs k with
      | some b => setSb { f with victim := some k } k { b with st := .victim }
      | none => f

/-- GC runs on only while free superblocks are few (R319). -/
def gcNorm (f : Fle) : Fle :=
  { f with fgGc := f.fgGc && decide (freeSb f < fgFree f), bgGc := f.bgGc && decide (freeSb f < bgFree f) }

/-- A superblock is erased: its pages go, it joins the end of the free pool where its module is in service, and GC goes on if
it still must. -/
def eraseSb (f : Fle) (k : Nat) (drop : List Nat) : Fle :=
  match tfind f.sbs k with
  | none => f
  | some b =>
    let b := { b with st := SbSt.free, members := b.members.filter (fun j => !(drop.contains j)), stripe := 0,
                      done := [], parity := [], erases := b.erases + 1, holdFor := [] }
    let f := setSb { f with
      flash := f.flash.filter (fun e => locSb e.1 != k),
      pool := if b.members.isEmpty || !(healthy f k) then f.pool else f.pool ++ [k],
      victim := if f.victim = some k then none else f.victim } k b
    let f := gcNorm f
    if f.fgGc || f.bgGc then takeVictim f else f

/-! ## Checkpoints and replay (R321, R322) -/

/-- Map pages of 2,048 entries in which two maps differ. -/
def changedPages (old new : Tbl Nat) : Nat :=
  (((old ++ new).filter (fun e => tfind old e.1 != tfind new e.1)).map (fun e => e.1 / 2048)).eraseDups.length

/-- CP_SEQ of the older of the roots from which a mount could start. -/
def oldCp (f : Fle) : Nat :=
  match f.rootA, f.rootB with
  | some x, some y => min x.cpSeq y.cpSeq
  | some x, none => x.cpSeq
  | none, some y => y.cpSeq
  | none, none => 0

/-- A checkpoint: the changed map pages and the root are programmed, the root last, into the area that does not hold the
newest (R321, log 111). Pages of the system area that no root needs any more go. -/
def cutCheckpoint (f : Fle) (t : Word) : Fle :=
  let old := match newestRoot f.rootA f.rootB with | some r => r.map | none => []
  let n := changedPages old f.map + 1
  let r : FleRoot := { map := f.map, spaces := f.spaces, pool := f.pool, cpSeq := f.seq,
                       opened := (f.sbs.filter (fun e => e.2.st = .open_)).map Prod.fst }
  let useA := match f.rootA, f.rootB with
    | none, _ => true
    | some _, none => false
    | some x, some y => decide (x.cpSeq < y.cpSeq)
  let f := roSeq { f with cutAt := t, cutBytes := 16384 * n, seq := f.seq + n }
  let f := if useA then { f with rootA := some r } else { f with rootB := some r }
  { f with flash := f.flash.filter (fun e => !(inSystem e.1 && e.2.seq ≤ oldCp f)) }

/-- One replayed page. -/
def replayPage (f : Fle) (loc : Nat) (p : FPage) : Fle :=
  match p.kind with
  | 1 => mapSlots f loc p.slots
  | 2 => p.slots.foldl (fun f x => if mapGet f x.lbs x.lau = some x.src then mapSet f x.lbs x.lau (loc + x.a) else f) f
  | 3 => p.trims.foldl (fun f t => unmapAus f t.1 t.2.1 t.2.2) f
  | 5 =>
    match p.space with
    | none => f
    | some (lbs, cap) =>
      if cap = 0 then { unmapSpace f lbs with spaces := tdel f.spaces lbs } else { f with spaces := tset f.spaces lbs cap }
  | _ => f

/-- Pages by ascending SEQ. -/
def insertSeq (x : Nat × FPage) : List (Nat × FPage) → List (Nat × FPage)
  | [] => [x]
  | y :: r => if x.2.seq < y.2.seq then x :: y :: r else y :: insertSeq x r

/-- The tag of a page after the root can be neither decoded nor rebuilt (R322). Such a page is part of a WRITE or a copy that
was still in progress: the pages of other descriptors, and those of verified superblocks, decode. -/
def discarded (f : Fle) (r : FleRoot) (lost : List Nat) (loc : Nat) (p : FPage) : Bool :=
  lost.contains loc && r.cpSeq < p.seq && (p.kind = 1 || p.kind = 2)
    && (match tfind f.sbs (locSb loc) with | some b => unverifiedSb b | none => false)
    && !(rebuilds f (lost.contains ·) loc)

/-- The map as the surviving pages leave it (R322); `lost` are the pages whose tags do not decode. The superblocks of those
pages were open at the root or opened after it. -/
def replay (f : Fle) (r : FleRoot) (lost : List Nat) : Fle :=
  let gone := f.flash.filter (fun e => discarded f r lost e.1 e.2)
  let f := { f with flash := f.flash.filter (fun e => !(gone.any (fun g => g.1 = e.1))) }
  let f := if gone.isEmpty then f else f.flag 2
  let ps := (f.flash.filter (fun e => r.cpSeq < e.2.seq)).foldl (fun l e => insertSeq e l) []
  let f := { f with map := r.map, spaces := r.spaces }
  let f := ps.foldl (fun f e => replayPage f e.1 e.2) f
  let free := (f.sbs.filter (fun e => e.2.st = .free && healthy f e.1)).map Prod.fst
  { f with pool := r.pool.filter (free.contains ·) ++ free.filter (fun k => !(r.pool.contains k)) }

/-- Where the AU at `l` stands without the write buffer: where it was before the WRITE or the copy whose page still waits there
(R322). -/
def unbuffered (f : Fle) : Nat → Nat → Option Nat
  | 0, _ => none
  | n + 1, l => if inBuffer l then ((slotAt f l).bind (·.old)).bind (unbuffered f n) else some l

/-- A root as it stands without the write buffer. -/
def rootUnbuffered (f : Fle) (r : FleRoot) : FleRoot :=
  { r with map := r.map.filterMap (fun e => (unbuffered f (f.flash.length + 1) e.2).map (fun l => (e.1, l))) }

/-- What a reset scope leaves of an engine: registers at reset, unmounted, the flash as it is (R454), without the pages that
waited in the write buffer, whose WRITEs had not retired; present modules are PRESENT until a mount (log 32). -/
def fleReset (f : Fle) : Fle :=
  { mods := f.mods.map (fun e => (e.1, { st := if e.2.prsnt then ModSt.present else .absent, prsnt := e.2.prsnt,
                                         admitted := e.2.admitted && e.2.prsnt })),
    sbs := f.sbs.map (fun e => (e.1, if e.2.st = .victim then { e.2 with st := .verified } else e.2)),
    flash := f.flash.filter (fun e => !(inBuffer e.1)), seq := f.seq, closes := f.closes,
    rootA := f.rootA.map (rootUnbuffered f), rootB := f.rootB.map (rootUnbuffered f) }

/-! ## Running flash descriptors -/

/-- The place in the order of acceptance of a dispatched flash descriptor; bit 63 says that MOUNTED was 0 then (R310). -/
def accOf (a : Word) : Nat := fld a 62 0

/-- The running descriptors of FLE `u`: queue, index, entry, place in the order of acceptance. -/
def fleRunning (s : State) (u : Nat) : List (Nat × Word × Entry × Nat) :=
  ((unitQueues 7 u).map (fun q =>
    let x := queueOf s q
    ((List.range x.entries.length).filterMap (fun k =>
      match x.entries[k]? with
      | some e =>
        match e.st with
        | .running (.plain a) => some (q, x.retired + BitVec.ofNat 64 k, e, accOf a)
        | .running (.flash c) => some (q, x.retired + BitVec.ofNat 64 k, e, c.acc)
        | _ => none
      | none => none)))).flatten

/-- A read that resolved an AU to a location with `p` is outstanding, among the requests accepted before place `acc`, of READ
descriptors and of reranks. -/
def readsAt (s : State) (u acc : Nat) (p : Nat → Bool) : Bool :=
  (fleRunning s u).any (fun r => r.2.2.2 < acc &&
    match r.2.2.1.st with
    | .running (.flash c) => c.sectors.any (fun x => match x with | .outstanding (some l) => p l | _ => false)
    | _ => false) || (fleOf s u).reads.any (fun r => r.acc < acc && r.locs.any p)

/-- A read that resolved an AU to superblock `k` is outstanding. -/
def readsOn (s : State) (u k : Nat) : Bool := readsAt s u (2 ^ 64) (fun l => locSb l = k)

/-- A lookup of `n` AUs reads their entries in the map region, in a channel that the spec does not tell (R307): it waits for its
memory mode (R24), and its bytes count (R426, R488). -/
def mapTouch (s : State) (u tenant n : Nat) : State :=
  let f := fleOf s u
  if f.mapSize = 0 then s
  else tierTouch (chanOpen (tick1 s) (f.mapBase.toNat + Config.pick s.choice 0 % f.mapSize.toNat)) tenant 2 (8 * n)

/-- No request is queued or running at the engine. -/
def fleIdle (s : State) (u : Nat) : Bool :=
  (unitQueues 7 u).all (fun q => (queueOf s q).entries.all (fun e => match e.st with | .retired _ => true | _ => false))
    && (fleOf s u).reads.isEmpty

/-- A request stops background GC (R319). -/
def fleReq (s : State) (u : Nat) : State :=
  updFle s u (fun f => { f with bgGc := false, lastReq := s.tb.time })

/-- An earlier read waits at the same die: reads at one die are served in order of acceptance (R329). -/
def dieBusy (s : State) (u acc : Nat) (loc : Option Nat) : Bool :=
  match loc with
  | none => false
  | some l => readsAt s u acc (fun x => locDie x = locDie l)

/-! ## Reading a byte range, for rerank (R187, R314) -/

/-- The sectors of `n` bytes from byte `off`; one that begins within a sector is read from that sector's begin (log 119). -/
def sectorsFrom (off n : Nat) : List Nat := (List.range (n / secBytes)).map (fun k => off / secBytes + k)

/-- The locations of the AUs of `n` bytes from byte `off` of a space. -/
def locsFrom (f : Fle) (lbs off n : Nat) : List Nat :=
  ((sectorsFrom off n).filterMap (fun k => mapGet f lbs (k / 4))).eraseDups

/-- A read of a rerank comes to the engine and takes its place in the order of acceptance (R80, R319, R329). -/
def acceptRead (s : State) (u tenant : Nat) (r : FleRead) (lbs off n : Nat) : State :=
  let s := mapTouch (fleReq s u) u tenant (n / auBytes + 1)
  updFle s u (fun f => { f with accepted := f.accepted + 1,
                                reads := f.reads ++ [{ r with acc := f.accepted, locs := locsFrom f lbs off n }] })

def isRead (q : Nat) (i : Word) (k : Nat) (r : FleRead) : Bool := r.q = q && r.i = i && r.k = k

/-- The read of a rerank's entry waits for an earlier read at one of its dies (R329). -/
def readHeld (s : State) (q : Nat) (i : Word) (k : Nat) : Bool :=
  (List.range 4).any (fun u => (fleOf s u).reads.any (fun r => isRead q i k r && r.locs.any (fun l => dieBusy s u r.acc (some l))))

/-- The read of a rerank's entry has ended at its engine. -/
def endRead (s : State) (q : Nat) (i : Word) (k : Nat) : State :=
  { s with fle := s.fle.map (fun e => (e.1, { e.2 with reads := e.2.reads.filter (fun r => !(isRead q i k r)) })) }

/-- `n` bytes from byte `off` of a space, both multiples of a sector; none where the read fails. -/
def fleData (f : Fle) (lbs off n : Nat) : Option (List Byte) :=
  match tfind f.spaces lbs with
  | none => none
  | some cap =>
    if !f.mounted || off + n > cap * auBytes then none
    else
      let secs := sectorsFrom off n
      if secs.any (fun k => (lostSectors f (mapGet f lbs (k / 4))).contains (k % 4)) then none
      else some ((secs.map (fun k => secOf (auData f (mapGet f lbs (k / 4))) (k % 4))).flatten)

end Sys2Proof.Machine
end

