-- ==== Sys2Proof/Machine/Fle.lean ====
section
/-!
DEFINITION. Chapter 14: the flash descriptors (R308 to R314, R321).
-/
namespace Sys2Proof.Machine
open Sys2Proof

/-! ## Descriptors (R309) -/

structure FleD where
  lbs : Nat
  off : Nat
  buf : Nat
  size : Nat
  bufSize : Nat
  deadline : Nat
  stat : Nat
  act : Nat
  cap : Nat

/-- The fields of a flash descriptor by opcode. -/
def fleD (e : Entry) : FleD :=
  let w := bodyWord e
  let z : FleD := { lbs := fld (w 0) 63 52, off := fld (w 0) 47 0, buf := 0, size := 1, bufSize := 0, deadline := 0,
                    stat := 0, act := fld (w 0) 47 46, cap := fld (w 0) 35 0 }
  match hdrOp (hdr e) with
  | 1 => { z with buf := fld (w 1) 55 0, size := fld (w 2) 63 32, bufSize := fld (w 2) 31 0, deadline := (w 3).toNat,
                  stat := fld (w 4) 55 0 }
  | 2 => { z with buf := fld (w 1) 55 0, size := fld (w 2) 63 32, bufSize := fld (w 2) 31 0, stat := fld (w 3) 55 0 }
  | 3 => { z with size := fld (w 1) 39 0, stat := fld (w 2) 55 0 }
  | 4 => { z with stat := fld (w 1) 55 0 }
  | _ => { z with stat := fld (w 0) 47 0 }

def fleShape : Nat → Option Shape
  | 1 => some [mask 51 48, m6356, 0, 0, m6356]
  | 2 => some [mask 51 48, m6356, 0, m6356]
  | 3 => some [mask 51 48, mask 63 40, m6356]
  | 4 => some [mask 51 48 ||| mask 45 36, m6356]
  | 5 => some [mask 51 48]
  | _ => none

def fleChecks (s : State) (op : Nat) (d : FleD) : List Chk :=
  let stat : List Buf := if d.stat = 0 then [] else [⟨d.stat, 16, 16, true⟩]
  let data : List Buf := if op ≤ 2 then [⟨d.buf, d.bufSize, d.size, op = 1⟩] else []
  let field := match op with
    | 1 | 2 => d.off % 1024 != 0 || d.size % 1024 != 0
    | 3 => d.off % 4096 != 0 || d.size % 4096 != 0
    | 4 => d.act > 1 || (d.act = 0 && d.cap = 0) || (d.act = 1 && d.cap != 0)
    | _ => d.lbs != 0
  [(5, field, cBadField),
   (6, (op = 1 && d.size > 65536) || (op = 2 && d.size > 1048576), cOverLimit)]
  ++ bufChecks s true (data ++ stat) ++ recChecks s d.stat 16 true

/-! ## Status records (R312) -/

structure FleRec where
  done : Nat := 0
  count : Nat := 0
  late : Nat := 0
  err : Nat := 0
  status : Nat := 0

def recWords (r : FleRec) : List Byte :=
  wordBytes (put (r.done % 2 ^ 64) 0)
    ++ wordBytes (put (r.count % 2 ^ 32) 32 ||| put (min r.late 65535) 16 ||| put (min r.err 255) 8 ||| put r.status 0)

/-- The descriptor writes its record and is done. -/
def fleEnd (s : State) (q : Nat) (i : Word) (e : Entry) (r : FleRec) (code : Nat) : State :=
  let s := updFle s (qUnit q) (fun f => { f with lastReq := s.tb.time })
  let d := fleD e
  if d.stat = 0 then finish s q i code
  else
    let p := nodeWrite s (descWho q e) d.stat (recWords r)
    finish p.2 q i (if p.1 then code else cMemerr)

/-- A descriptor that fails writes its record too, with STATUS FAILED (R312, log 112). -/
def fleFails (s : State) (q : Nat) (i : Word) (e : Entry) (r : FleRec) (code : Nat) : State :=
  fleEnd s q i e { r with status := 7 } code

/-! ## Acceptance (R308, R310, R311) -/

/-- The descriptor was dispatched while MOUNTED was 0 (R310). -/
def unmountedThen (acc : Word) : Bool := bitAt acc 63

/-- A running descriptor accepted before place `acc` that meets `p`. -/
def earlier (s : State) (u acc : Nat) (p : Nat → FleD → Entry → Bool) : Bool :=
  (fleRunning s u).any (fun r => r.2.2.2 < acc && p (hdrOp (hdr r.2.2.1)) (fleD r.2.2.1) r.2.2.1)

/-- A descriptor accepted before place `acc` that meets `p` has not retired: it runs, or has finished and not retired (R311). -/
def unretired (s : State) (u acc : Nat) (p : Nat → FleD → Bool) : Bool :=
  (unitQueues 7 u).any (fun q => (queueOf s q).entries.any (fun e => e.acc < acc && p (hdrOp (hdr e)) (fleD e) &&
    match e.st with
    | .running _ => true
    | .finished _ => true
    | _ => false))

/-- A DELETE of the space was accepted before. -/
def deleteBefore (s : State) (u acc lbs : Nat) : Bool :=
  earlier s u acc (fun op d _ => op = 4 && d.act = 1 && d.lbs = lbs)

def notApplied (e : Entry) : Bool :=
  match e.st with
  | .running (.plain _) => true
  | _ => false

/-- A WRITE or TRIM of one of the AUs was accepted before and has not been applied. -/
def changeBefore (s : State) (u acc lbs lo hi : Nat) : Bool :=
  earlier s u acc (fun op d e => (op = 2 || op = 3) && d.lbs = lbs && d.size != 0 && notApplied e
    && decide (d.off / 4096 ≤ hi) && decide (lo ≤ (d.off + d.size - 1) / 4096))

/-- The space that exists was created after the DELETE before which a descriptor's space went: it ends NO_SUCH (R311). -/
def spaceGone (f : Fle) (lbs acc : Nat) : Bool :=
  match tfind f.gone lbs with
  | some (d, c) => d < acc && acc < c
  | none => false

/-- The status with which R310 ends a READ, WRITE or TRIM that touches nothing. -/
def fleRefuse (s : State) (u acc op : Nat) (d : FleD) : Option Nat :=
  let f := fleOf s u
  match tfind f.spaces d.lbs with
  | none => some 3
  | some cap =>
    if deleteBefore s u acc d.lbs || spaceGone f d.lbs acc then some 3
    else if d.off + d.size > cap * auBytes then some 6
    else if op = 2 && f.readOnly then some 5
    else none

/-- The AUs that a READ or WRITE touches. -/
def ausOf (d : FleD) : Nat := (d.off + d.size - 1) / auBytes - d.off / auBytes + 1

/-! ## READ -/

def sectorPending : SectorSt → Bool
  | .outstanding _ => true
  | _ => false

def countSt (l : List SectorSt) (x : SectorSt) : Nat := (l.filter (fun y => decide (y = x))).length

/-- The record of a READ whose sectors stand so (R312). -/
def readRec (l : List SectorSt) : FleRec :=
  let err := countSt l .failed
  let late := countSt l .late
  { done := (List.range l.length).foldl (fun a k => if l.getD k .late = .written then a + 2 ^ k else a) 0,
    count := countSt l .written, late := late, err := err, status := if err > 0 then 7 else if late > 0 then 1 else 0 }

/-- With every sector resolved a READ writes its record and finishes (R313, R314). -/
def readSettle (s : State) (q : Nat) (i : Word) (e : Entry) (c : FlashCtx) : State :=
  if c.sectors.any sectorPending then setWork s q i (.flash c)
  else fleEnd s q i e (readRec c.sectors) (if countSt c.sectors .failed > 0 then cFlashErr else 0)

/-- READ (R310, R313): its sectors resolve to their locations and become outstanding; past its deadline none is issued. -/
def execRead (q : BitVec 16) (i : Word) (s : State) : Ans :=
  .next (
    let q := q.toNat
    let u := qUnit q
    match runningOp s q i 7 1 with
    | some (e, .plain acc) =>
      let d := fleD e
      let s := fleReq s u
      if d.size = 0 then finish s q i 0
      else if unmountedThen acc then fleFails s q i e {} cFlashErr
      else
        match fleRefuse s u (accOf acc) 1 d with
        | some st => fleEnd s q i e { status := st } 0
        | none =>
          let s := mapTouch s u (descWho q e).tenant (ausOf d)
          let f := fleOf s u
          let late := d.deadline != 0 && d.deadline ≤ now s
          let secs := (List.range (d.size / 1024)).map (fun k =>
            if late then SectorSt.late
            else .outstanding (mapGet f d.lbs ((d.off / 1024 + k) / 4)))
          readSettle s q i e { acc := accOf acc, start := s.tb.time, sectors := secs }
    | _ => s)

/-- The sector is recovered from parity: the read says so, or its block was retired (R325, R330). -/
def needsParity (f : Fle) (l : Nat) (o : SectorOutcome) : Bool := o = .rebuilt || blockRetired f l

/-- Sector `k` of the AU at a location is read so: a rebuild needs parity and every other page under it, and content that went
with a module does not come back (R314, R316, R325, R327, R330). -/
def sectorOk (f : Fle) (loc : Option Nat) (k : Nat) (o : SectorOutcome) : Bool :=
  match loc with
  | none => true
  | some l =>
    !((lostSectors f loc).contains k) && o != .lost && (!(needsParity f l o) || rebuilds f (blockRetired f) (locPage l))

/-- SECTOR_READ_DONE (R313, R314, R329). -/
def execSectorReadDone (q : BitVec 16) (i : Word) (sec : Nat) (o : SectorOutcome) (s : State) : Ans :=
  .next (
    let q := q.toNat
    let u := qUnit q
    match runningOp s q i 7 1 with
    | some (e, .flash c) =>
      match c.sectors[sec]? with
      | some (.outstanding loc) =>
        let d := fleD e
        let f := fleOf s u
        let w := descWho q e
        let mark := fun (x : SectorSt) => { c with sectors := lset c.sectors sec x }
        let num := d.off / 1024 + sec
        if d.deadline != 0 && d.deadline ≤ now s then readSettle s q i e (mark .late)
        else if dieBusy s u c.acc loc then s
        else if sectorOk f loc (num % 4) o then
          let s := if (match loc with | some l => needsParity f l o | none => false) then setFle s u (f.flag 5) else s
          let s := tally (ctrAdd (workTally s 7 w.tenant 1) 0x9128 1024) w.tenant 0x14 1024
          let p := anyWrite s w (d.buf + sec * 1024) (secOf (auData f loc) (num % 4))
          if p.1 then readSettle p.2 q i e (mark .written) else fleFails p.2 q i e (readRec c.sectors) cMemerr
        else
          let s := logRec s w 9 (BitVec.ofNat 64 (num * 1024)) (BitVec.ofNat 64 d.lbs)
            (BitVec.ofNat 64 (loc.getD 0))
          readSettle s q i e (mark .failed)
      | _ => s
    | _ => s)

/-- FLE_READ_DEADLINE (R313): at the deadline the outstanding sectors are late. -/
def execFleReadDeadline (q : BitVec 16) (i : Word) (s : State) : Ans :=
  .next (
    let q := q.toNat
    match runningOp s q i 7 1 with
    | some (e, .flash c) =>
      let d := fleD e
      if d.deadline != 0 && d.deadline ≤ now s then
        readSettle s q i e { c with sectors := c.sectors.map (fun x => if sectorPending x then .late else x) }
      else s
    | _ => s)

/-! ## WRITE -/

/-- A WRITE whose pages parity covers writes its record and finishes (R314). -/
def writeSettle (s : State) (q : Nat) (i : Word) (e : Entry) (c : FlashCtx) : State :=
  let f := fleOf s (qUnit q)
  if c.pages.all (isCovered f) then fleEnd s q i e { count := (fleD e).size / 1024 } 0 else setWork s q i (.flash c)

/-- Every running WRITE of the engine that parity now covers finishes. -/
def fleSettle (s : State) (u : Nat) : State :=
  (fleRunning s u).foldl (fun s r =>
    match r.2.2.1.st with
    | .running (.flash c) => if hdrOp (hdr r.2.2.1) = 2 then writeSettle s r.1 r.2.1 r.2.2.1 c else s
    | _ => s) s

/-- The AU slots of a WRITE: sectors it names from `data`, the others as they are (R308). -/
def writeSlots (f : Fle) (d : FleD) (data : List Byte) : List FSlot :=
  let lo := d.off / 1024
  let n := d.size / 1024
  (List.range ((lo + n - 1) / 4 - lo / 4 + 1)).map (fun k =>
    let lau := lo / 4 + k
    let old := auData f (mapGet f d.lbs lau)
    let named := fun (j : Nat) => lo ≤ lau * 4 + j && lau * 4 + j < lo + n
    { a := 0, lbs := d.lbs, lau := lau,
      data := ((List.range 4).map (fun j => if named j then secOf data (lau * 4 + j - lo) else secOf old j)).flatten,
      lost := (lostSectors f (mapGet f d.lbs lau)).filter (fun j => !(named j)),
      old := mapGet f d.lbs lau })

/-- The locations of the AUs that a WRITE covers in part, whose other sectors it reads (R308). -/
def partAus (f : Fle) (d : FleD) : List Nat :=
  let lo := d.off / 1024
  let hi := lo + d.size / 1024
  ((List.range (ausOf d)).map (fun k => lo / 4 + k)).filterMap (fun a =>
    if lo ≤ a * 4 && a * 4 + 4 ≤ hi then none else mapGet f d.lbs a)

/-- WRITE (R308, R310, R314, R319): applied in the order of acceptance for its AUs; held while the engine must wait for
free superblocks or for parity. -/
def execWrite (q : BitVec 16) (i : Word) (s : State) : Ans :=
  .next (
    let q := q.toNat
    let u := qUnit q
    match runningOp s q i 7 2 with
    | some (e, .plain acc) =>
      let d := fleD e
      let s := fleReq s u
      let w := descWho q e
      if d.size = 0 then finish s q i 0
      else if unmountedThen acc then fleFails s q i e {} cFlashErr
      else
        match fleRefuse s u (accOf acc) 2 d with
        | some st => fleEnd s q i e { status := st } 0
        | none =>
          let f := fleOf s u
          let f := if freeSb f < fgFree f then f.flag 6 else f
          let s := setFle s u f
          if changeBefore s u (accOf acc) d.lbs (d.off / 4096) ((d.off + d.size - 1) / 4096) then s
          else if freeSb f ≤ reserve f then s
          else
            let r := anyRead (mapTouch s u w.tenant (ausOf d)) w d.buf d.size
            if !r.ok then fleFails r.s q i e {} cMemerr
            else
              match programData (noteRebuilt f (partAus f d)) none (toPages (writeSlots f d r.data)) with
              | none => s
              | some (f, ls) =>
                let s := setFle r.s u f
                let s := tally (ctrAdd (workTally s 7 w.tenant (d.size / 1024)) 0x9129 d.size) w.tenant 0x15 d.size
                let s := setWork s q i (.flash { acc := accOf acc, start := s.tb.time, pages := ls })
                fleSettle s u
    | _ => s)

/-! ## TRIM, SPACE, SYNC -/

/-- TRIM (R305, R308, R310). -/
def execTrim (q : BitVec 16) (i : Word) (s : State) : Ans :=
  .next (
    let q := q.toNat
    let u := qUnit q
    match runningOp s q i 7 3 with
    | some (e, .plain acc) =>
      let d := fleD e
      let s := fleReq s u
      if d.size = 0 then finish s q i 0
      else if unmountedThen acc then fleFails s q i e {} cFlashErr
      else
        match fleRefuse s u (accOf acc) 3 d with
        | some st => fleEnd s q i e { status := st } 0
        | none =>
          let lau := d.off / 4096
          let n := d.size / 4096
          if changeBefore s u (accOf acc) d.lbs lau (lau + n - 1) then s
          else
            let s := mapTouch s u (descWho q e).tenant n
            let f := programOwn (fleOf s u) { seq := 0, kind := 3, trims := [(d.lbs, lau, n)] }
            fleEnd (fleSettle (setFle s u (roClear f (unmapAus f d.lbs lau n))) u) q i e { count := n } 0
    | _ => s)

/-- The status of a CREATE (R310), 0 where it is applied. -/
def createStatus (f : Fle) (d : FleD) : Nat :=
  if (tfind f.spaces d.lbs).isSome then 4
  else if capSum f + d.cap > usableAu f then 2
  else if 8 * (capSum f + d.cap) + 16 * 2 ^ 20 > f.mapSize.toNat then 8
  else 0

def spaceBefore (s : State) (u acc : Nat) : Bool := earlier s u acc (fun op _ _ => op = 4)

/-- SPACE_CREATE (R305, R310): applied in the order of acceptance, durable before it retires. -/
def execSpaceCreate (q : BitVec 16) (i : Word) (s : State) : Ans :=
  .next (
    let q := q.toNat
    let u := qUnit q
    match runningOp s q i 7 4 with
    | some (e, .plain acc) =>
      let d := fleD e
      if d.act != 0 || spaceBefore s u (accOf acc) then s
      else
        let s := fleReq s u
        let f := fleOf s u
        if unmountedThen acc then fleFails s q i e {} cFlashErr
        else if createStatus f d != 0 then fleEnd s q i e { status := createStatus f d } 0
        else
          let f := programOwn f { seq := 0, kind := 5, space := some (d.lbs, d.cap) }
          let f := { f with spaces := tset f.spaces d.lbs d.cap,
                            gone := match tfind f.gone d.lbs with
                              | some g => tset f.gone d.lbs (g.1, accOf acc)
                              | none => f.gone }
          fleEnd (fleSettle (setFle s u f) u) q i e {} 0
    | _ => s)

/-- SPACE_DELETE (R311): waits for the earlier descriptors of its space, then unmaps it durably. -/
def execSpaceDelete (q : BitVec 16) (i : Word) (s : State) : Ans :=
  .next (
    let q := q.toNat
    let u := qUnit q
    match runningOp s q i 7 4 with
    | some (e, .plain acc) =>
      let d := fleD e
      if d.act != 1 || spaceBefore s u (accOf acc)
          || unretired s u (accOf acc) (fun op x => op ≤ 3 && x.lbs = d.lbs) then s
      else
        let s := fleReq s u
        let f := fleOf s u
        if unmountedThen acc then fleFails s q i e {} cFlashErr
        else if (tfind f.spaces d.lbs).isNone then fleEnd s q i e { status := 3 } 0
        else
          let n := ((fleOf s u).map.filter (fun a => a.1 / 2 ^ 36 = d.lbs)).length
          let s := mapTouch s u (descWho q e).tenant n
          let f := programOwn (fleOf s u) { seq := 0, kind := 5, space := some (d.lbs, 0) }
          let g := { unmapSpace f d.lbs with spaces := tdel f.spaces d.lbs, gone := tset f.gone d.lbs (accOf acc, 0) }
          fleEnd (fleSettle (setFle s u (roClear f g)) u) q i e {} 0
    | _ => s)

/-- SYNC (R321): cuts a checkpoint and retires when it is durable. -/
def execSync (q : BitVec 16) (i : Word) (s : State) : Ans :=
  .next (
    let q := q.toNat
    let u := qUnit q
    match runningOp s q i 7 5 with
    | some (e, .plain acc) =>
      let s := fleReq s u
      if unmountedThen acc then fleFails s q i e {} cFlashErr
      else fleEnd (updFle s u (fun f => cutCheckpoint f s.tb.time)) q i e {} 0
    | _ => s)

end Sys2Proof.Machine
end

