-- ==== Sys2Proof/Machine/Ladle.lean ====
section
/-!
DEFINITION. Chapter 11: the Ladle (R251 to R258).
-/
namespace Sys2Proof.Machine
open Sys2Proof

/-- A source, a destination, a size. -/
structure Extent where
  src : Nat
  dst : Nat
  size : Nat

structure MoveD where
  exts : List Extent
  list : Nat
  next : Nat
  listSize : Nat
  deadline : Nat
  onlate : Nat
  stat : Nat

def moveD (e : Entry) : MoveD :=
  let w := bodyWord e
  if hdrOp (hdr e) = 1 then
    { exts := [⟨fld (w 0) 55 0, fld (w 1) 55 0, fld (w 2) 39 0⟩, ⟨fld (w 3) 55 0, fld (w 4) 55 0, fld (w 5) 39 0⟩],
      list := 0, next := 0, listSize := 0, deadline := (w 6).toNat, onlate := fld (w 7) 63 62, stat := fld (w 7) 55 0 }
  else
    { exts := [], list := fld (w 0) 55 0, next := fld (w 1) 12 0, listSize := fld (w 2) 39 0, deadline := (w 3).toNat,
      onlate := fld (w 4) 63 62, stat := fld (w 4) 55 0 }

def ladleShape : Nat → Option Shape
  | 1 => some [m6356, m6356, mask 63 40, m6356, m6356, mask 63 40, 0, mask 61 56]
  | 2 => some [m6356, mask 63 13, mask 63 40, 0, mask 61 56]
  | _ => none

/-- Source and destination overlap and are not the same. -/
def extOverlap (x : Extent) : Bool := x.src != x.dst && overlaps x.src x.size x.dst x.size

/-- Two of the four extents of a MOVE overlap (R254). -/
def moveOverlap (l : List Extent) : Bool :=
  l.any extOverlap || (match l with
    | [x, y] =>
      overlaps x.src x.size y.src y.size || overlaps x.src x.size y.dst y.size || overlaps x.dst x.size y.src y.size
        || overlaps x.dst x.size y.dst y.size
    | _ => false)

/-- The extents as buffers. -/
def extBufs (l : List Extent) : List Buf :=
  (l.map (fun x => [(⟨x.src, x.size, x.size, false⟩ : Buf), ⟨x.dst, x.size, x.size, true⟩])).flatten

def ladleChecks (s : State) (op : Nat) (d : MoveD) : List Chk :=
  let hits := fun (a n : Nat) => d.stat != 0 && overlaps a n d.stat 16
  if op = 1 then
    let comp := d.exts.getD 1 ⟨0, 0, 0⟩
    let own : List Chk := [
      (5, d.onlate > 1 || d.exts.any (fun x => x.size % 64 != 0) || (comp.size = 0 && (comp.src != 0 || comp.dst != 0)), cBadField),
      (6, d.exts.any (fun x => x.size > 2 ^ 36), cOverLimit),
      (10, moveOverlap d.exts || d.exts.any (fun x => hits x.src x.size || hits x.dst x.size), cOverlap)]
    own ++ (bufChecks s true (extBufs d.exts)).filter (fun c => c.1 != 10) ++ recChecks s d.stat 16 true
  else
    let own : List Chk := [
      (5, d.onlate > 1, cBadField), (6, d.next > 4096, cOverLimit),
      (8, d.listSize != 0 && !(inT0 d.list || area d.list = .t1), cBadAddr),
      (10, hits d.list d.listSize, cOverlap)]
    own ++ bufChecks s false [⟨d.list, d.listSize, 32 * d.next, false⟩] ++ recChecks s d.stat 16 true

/-! ## Copies -/

/-- A channel of the extent is not in memory mode (R258). -/
def waitsMode (s : State) (a n : Nat) : Bool :=
  n != 0 && (match area a, area (a + n - 1) with
    | .t2 c, .t2 d => (List.range (d - c + 1)).any (fun k => (tget s.chans {} (c + k)).mode != .mem)
    | _, _ => false)

/-- One extent is copied whole; a source that is its destination is left alone. -/
def copyExt (s : State) (u : Nat) (w : Who) (x : Extent) : Bool × State :=
  if x.src = x.dst || x.size = 0 then (true, s)
  else
    let s := if waitsMode s x.src x.size || waitsMode s x.dst x.size then ldlFlag s u 3 else s
    let r := anyRead s w x.src x.size
    if r.ok then
      let s := workTally r.s 6 w.tenant (x.size / 64)
      anyWrite s w x.dst r.data
    else (false, r.s)

def copyAll (s : State) (u : Nat) (w : Who) : List Extent → Bool × State
  | [] => (true, s)
  | x :: r =>
    let a := copyExt s u w x
    if a.1 then copyAll a.2 u w r else a

/-- Bytes that an extent's copy writes. -/
def extBytes (x : Extent) : Nat := if x.src = x.dst then 0 else x.size

def sumBytes (l : List Extent) : Nat := (l.map extBytes).foldl (· + ·) 0

/-- A free order of the extents, which run concurrently (R254, R255). -/
def permute (c : Nat) : Nat → List Extent → List Extent
  | 0, l => l
  | k + 1, l =>
    match l[Config.pick c k % l.length]? with
    | some x => x :: permute c k (l.eraseIdx (Config.pick c k % l.length))
    | none => l

/-- The record of R257, and the end of the descriptor. -/
def moveEnd (s : State) (q : Nat) (i : Word) (w : Who) (d : MoveD) (done status bytes : Nat) : State :=
  if d.stat = 0 then finish s q i 0
  else
    let p := nodeWrite s w d.stat (wordBytes (put (done % 2 ^ 32) 32 ||| put status 0) ++ wordBytes (BitVec.ofNat 64 bytes))
    finish p.2 q i (if p.1 then 0 else cMemerr)

/-- The record fails a check of R254 (R253). -/
def badExt (s : State) (b : List Byte) : Bool :=
  let w := fun (k : Nat) => bytesWord ((b.drop (8 * k)).take 8)
  let x : Extent := ⟨fld (w 0) 55 0, fld (w 1) 55 0, fld (w 2) 39 0⟩
  fld (w 0) 63 56 != 0 || fld (w 1) 63 56 != 0 || fld (w 2) 63 40 != 0 || w 3 != 0 || x.size % 64 != 0 || x.size > 2 ^ 36
    || (x.size != 0 && (x.src % 64 != 0 || x.dst % 64 != 0 || !(bufArea x.src true && withinTier s x.src x.size)
      || !(bufArea x.dst true && withinTier s x.dst x.size) || extOverlap x))

def extOf (b : List Byte) : Extent :=
  let w := fun (k : Nat) => bytesWord ((b.drop (8 * k)).take 8)
  ⟨fld (w 0) 55 0, fld (w 1) 55 0, fld (w 2) 39 0⟩

/-- The extents of a descriptor in start order: whether memory served, the extents, whether a record was skipped. -/
def moveExts (s : State) (w : Who) (op : Nat) (d : MoveD) : Bool × List Extent × Bool × State :=
  if op = 1 then (true, d.exts.filter (fun x => x.size != 0), false, s)
  else
    let r := nodeRead s w d.list (32 * d.next)
    let l := chunks 32 r.data.length r.data
    let l := l.filter (fun b => b.length = 32)
    (r.ok, (l.filter (fun b => !(badExt r.s b))).map extOf, l.any (badExt r.s), r.s)

/-- Nothing to move: a count of 0 (R95). -/
def moveEmpty (op : Nat) (d : MoveD) : Bool := if op = 1 then d.exts.all (fun x => x.size = 0) else d.next = 0

/-- A started extent waits for a channel in processor mode (R258). -/
def noteMode (s : State) (u : Nat) (l : List Extent) : State :=
  if l.any (fun x => x.src != x.dst && (waitsMode s x.src x.size || waitsMode s x.dst x.size)) then ldlFlag s u 3 else s

/-- LDL_STATUS notes a skipped record and a deadline that has come, however the move ends (R254, R256). -/
def noteMove (s : State) (u : Nat) (bad late : Bool) : State :=
  let s := if bad then ldlFlag s u 2 else s
  if late then ldlFlag s u 0 else s

/-- A dispatched descriptor of the matrix engines has weights or weight scales in one of the destinations. -/
def usesWeights (q : Nat) (exts : List Extent) (e : Entry) : Bool :=
  let d := matD e
  let op := hdrOp (hdr e)
  inFlight e && qClass q = 0 && (op = 1 || op = 2) && exts.any (fun x => x.src != x.dst
    && (overlaps x.dst x.size d.b d.bSize || overlaps x.dst x.size d.bsc d.bscSize))

/-- A move over weights still in use: the result of the descriptors that use them is undefined (R143). -/
def spoilWeights (s : State) (exts : List Extent) : State :=
  { s with queues := s.queues.map (fun p => (p.1, { p.2 with
      entries := p.2.entries.map (fun e => { e with spoiled := e.spoiled || usesWeights p.1 exts e }) })) }

/-- The extents past the first `done` are left undefined; `started` of all were begun (R256). -/
def abandon (s : State) (q : Nat) (i : Word) (w : Who) (d : MoveD) (exts : List Extent) (bad : Bool) (done started : Nat) : State :=
  let u := qUnit q
  let a := copyAll (noteMode (noteMove (spoilWeights s exts) u bad true) u (exts.take started)) u w (exts.take done)
  if !a.1 then finish a.2 q i cMemerr
  else
    let rest := exts.drop done
    let s := rest.foldl (fun s x => if x.src = x.dst then s else (anyWrite (tick1 s) w x.dst (freeBytes s x.size)).2) a.2
    let part := sumBytes ((exts.take started).drop done)
    let s := tick1 s
    let more := 64 * ((Config.freeWord s.choice).toNat % (part / 64 + 1))
    let s := ldlFlag s u 1
    moveEnd s q i w d done (2 + if bad then 4 else 0) (sumBytes (exts.take done) + more)

/-- A dispatched move runs to its end (R252 to R258). -/
def moveWork (s : State) (q : Nat) (i : Word) (op : Nat) : State :=
  match runningOp s q i 6 op with
  | some (e, .plain _) =>
    let d := moveD e
    let w := descWho q e
    let u := qUnit q
    if moveEmpty op d then finish s q i 0
    else
      let x := moveExts s w op d
      let exts := x.2.1
      let bad := x.2.2.1
      let late := d.deadline != 0 && d.deadline ≤ now s
      let s := noteMove x.2.2.2 u bad late
      if !x.1 then finish s q i cMemerr
      else if late && d.onlate = 1 then abandon s q i w d exts bad 0 0
      else
        let a := copyAll (tick1 (spoilWeights s exts)) u w (if op = 1 then exts else permute s.choice exts.length exts)
        if !a.1 then finish a.2 q i cMemerr
        else moveEnd a.2 q i w d exts.length ((if late then 1 else 0) + if bad then 4 else 0) (sumBytes exts)
  | _ => s

/-- MOVE. -/
def execMove (q : BitVec 16) (i : Word) (s : State) : Ans := .next (moveWork s q.toNat i 1)

/-- MOVEL. -/
def execMovel (q : BitVec 16) (i : Word) (s : State) : Ans := .next (moveWork s q.toNat i 2)

/-- A running Ladle descriptor, MOVE or MOVEL. -/
def ladleRunning (s : State) (q : Nat) (i : Word) : Option (Nat × Entry) :=
  match runningOp s q i 6 1, runningOp s q i 6 2 with
  | some (e, _), _ => some (1, e)
  | _, some (e, _) => some (2, e)
  | _, _ => none

/-- LADLE_DEADLINE (R256): `done` leading extents are complete and `started` were begun when the deadline came. -/
def execLadleDeadline (q : BitVec 16) (i : Word) (done started : Nat) (s : State) : Ans :=
  .next (
    let q := q.toNat
    match ladleRunning s q i with
    | some (op, e) =>
      let d := moveD e
      let w := descWho q e
      if d.deadline = 0 || now s < d.deadline || moveEmpty op d then s
      else if d.onlate = 0 then ldlFlag s (qUnit q) 0
      else
        let x := moveExts s w op d
        if !x.1 then finish (noteMove x.2.2.2 (qUnit q) x.2.2.1 true) q i cMemerr
        else if done < x.2.1.length && done ≤ started && started ≤ x.2.1.length then
          abandon x.2.2.2 q i w d x.2.1 x.2.2.1 done started
        else s
    | none => s)

end Sys2Proof.Machine
end

