-- ==== Sys2Proof/Machine/Tiers.lean ====
section
/-!
DEFINITION. Chapter 11: host windows (R260, R262), refresh of the near tier and of the HBM stacks (R244, R245).
-/
namespace Sys2Proof.Machine
open Sys2Proof

/-! ## Host windows -/

def setSeg (s : State) (p : HostPort) (seg : Nat) (m : Bool) : State :=
  { s with tiers := { s.tiers with windows :=
      match m with
      | true => tset s.tiers.windows (segKey p seg) true
      | false => tdel s.tiers.windows (segKey p seg) } }

/-- WINDOW_TABLE_UPDATE (R260): the host maps or unmaps a segment through its port. -/
def execWindowTableUpdate (p : HostPort) (seg : BitVec 14) (mapped : Bool) (s : State) : Ans :=
  .next (if hostLost s p then s else setSeg s p seg.toNat mapped)

/-- The extent of a table's rows, which may lie in a host window (R286). -/
def tableRows (s : State) (a : Nat) : Nat × Nat :=
  let t := tableOf (seenGet s a 64)
  (t.base, t.rows * tStride t)

/-- The extents that a Ladle descriptor copies: a MOVEL's as its list holds them. -/
def ladleExts (s : State) (e : Entry) : List Extent :=
  let d := moveD e
  if hdrOp (hdr e) = 1 then d.exts else (chunks 32 (32 * d.next) (seenGet s d.list (32 * d.next))).map extOf

/-- The extents in node and host memory that a dispatched descriptor of a class that may reach host windows still uses (R242); a
flash WRITE has read its buffer once its pages are programmed. -/
def t3Extents (s : State) (cls : Nat) (e : Entry) : List (Nat × Nat) :=
  match cls, hdrOp (hdr e) with
  | 4, 1 => let d := gatherD e; [(d.idx, d.idxSize), (d.offs, d.offsSize), (d.out, d.outSize), tableRows s d.table]
  | 4, 2 => let d := scatterD e; [(d.src, d.srcSize), tableRows s d.table]
  | 6, _ => ((ladleExts s e).map (fun x => [(x.src, x.size), (x.dst, x.size)])).flatten
  | 7, 1 => [((fleD e).buf, (fleD e).size)]
  | 7, 2 => if notApplied e then [((fleD e).buf, (fleD e).size)] else []
  | _, _ => []

/-- The extents that a descriptor writes and that may lie in a host window. -/
def t3Dests (s : State) (cls : Nat) (e : Entry) : List (Nat × Nat) :=
  match cls, hdrOp (hdr e) with
  | 4, 1 => let d := gatherD e; [(d.out, d.outSize)]
  | 4, 2 => [tableRows s (scatterD e).table]
  | 6, _ => (ladleExts s e).map (fun (x : Extent) => (x.dst, x.size))
  | 7, 1 => [((fleD e).buf, (fleD e).size)]
  | _, _ => []

/-- The windows that a descriptor writes to. -/
def t3Written (s : State) (cls : Nat) (e : Entry) : List HostPort :=
  [HostPort.a, .b].filter (fun p => (t3Dests s cls e).any (fun x => overlaps x.1 x.2 (windowBase p) (2 ^ 44)))

/-- The zero-length reads that the node issues, and the ports complete, before the retire counter passes a descriptor that
wrote to a window (R261). The answer says whether each completed: the read of a window whose host is lost, or does not complete
it within CTO_MS, fails as any access to it (R262, R373). -/
def t3Flush (s : State) (q : Nat) (e : Entry) : Bool × State :=
  (t3Written s (qClass q) e).foldl (fun r p =>
    let x := segRead (if hostLost r.2 p then r.2 else emit r.2 (.hostFlush p)) (descWho q e) p (windowBase p) 0
    (r.1 && x.ok, x.s)) (true, s)

/-- A descriptor in progress fails with MEMERR; a flash READ or WRITE writes its record (R312). -/
def failDesc (s : State) (q : Nat) (i : Word) (e : Entry) : State :=
  if qClass q = 7 && (hdrOp (hdr e) = 1 || hdrOp (hdr e) = 2) then
    fleFails s q i e (match e.st with
      | .running (.flash c) => if hdrOp (hdr e) = 1 then readRec c.sectors else {}
      | _ => {}) cMemerr
  else finish s q i cMemerr

/-- The host of port `p` has had CTO_MS since `t` (R373). -/
def ctoDue (s : State) (p : HostPort) (t : Word) : Bool :=
  decide (t.toNat + max 1 (fld (tget s.host {} (portNum p)).ctl 47 40) * 1000000 ≤ now s)

/-- A descriptor has an access outstanding to an extent: it runs and uses it, or it has written to it and its flush is still to
come (R261). -/
def meets (s : State) (q : Nat) (e : Entry) (a n : Nat) : Bool :=
  match e.st with
  | .running _ => (t3Extents s (qClass q) e).any (fun x => overlaps x.1 x.2 a n)
  | .finished 0 => (t3Dests s (qClass q) e).any (fun x => overlaps x.1 x.2 a n)
  | _ => false

/-- The descriptors that meet `p`, by queue and index. -/
def descsOf (s : State) (p : Nat → Entry → Bool) : List (Nat × Word) :=
  s.queues.flatMap (fun x => (indicesOf x.2 (p x.1)).map (fun i => (x.1, i)))

/-- Those descriptors fail (R262). -/
def failAll (s : State) (l : List (Nat × Word)) : State :=
  l.foldl (fun s x => match entryAt s x.1 x.2 with | some e => failDesc s x.1 x.2 e | none => s) s

/-- The descriptors with an access outstanding to an extent fail (R262). -/
def failOn (s : State) (a n : Nat) : State := failAll s (descsOf s (fun q e => meets s q e a n))

/-- The accesses outstanding to a whole window fail. -/
def failOnWindow (s : State) (p : HostPort) : State := failOn s (windowBase p) (2 ^ 44)

/-- The running descriptors with an access to an extent that may have waited CTO_MS. -/
def lateOn (s : State) (p : HostPort) (a n : Nat) : List (Nat × Word) :=
  descsOf s (fun q e => (match e.st with | .running _ => meets s q e a n | _ => false) && ctoDue s p e.since)

/-- T3_SEGMENT_LOSS (R262): a host is lost (cause 0), or a segment became unmapped (2), while accesses to it were outstanding,
and they fail; or accesses to it have had no completion within CTO_MS (1), and those fail and set CTO (R373). A record names the
window and the cause. -/
def execT3SegmentLoss (p : HostPort) (seg : BitVec 14) (cause : BitVec 2) (s : State) : Ans :=
  .next (
    let a := windowBase p + seg.toNat * 2 ^ 30
    let w : Who := { cls := 0xC, unit := portNum p }
    if cause = 3 || (cause = 0 && !(hostLost s p)) then s
    else if cause = 1 then
      let l := lateOn s p a (2 ^ 30)
      if l.isEmpty then s else t3Loss (hostFlag (failAll s l) p 3) w p 1
    else
      let s := if cause = 2 then setSeg s p seg.toNat false else s
      t3Loss (failOn s a (2 ^ 30)) w p cause.toNat)

/-! ## Refresh -/

/-- Quarter degrees. -/
def qc (deg : Nat) : Int := deg * 4

/-- The near tier's refresh code (R244): 1x, 2x, 4x. -/
def ntRate (t : Int) : Nat := if t > qc 95 then 2 else if t > qc 85 then 1 else 0

/-- NT_REFRESH_CHANGE (R244). -/
def execNtRefreshChange (layer : Fin 4) (tempQc : BitVec 16) (s : State) : Ans :=
  let t := tempQc.toInt
  let w := stickIf (stickIf s.tiers.ntSticky 1 (t > qc 95)) 0 (t > qc 85)
  .next { s with tiers := { s.tiers with
    ntSticky := w, layerTemp := tset s.tiers.layerTemp layer.val tempQc,
    layerRate := tset s.tiers.layerRate layer.val (ntRate t) } }

/-- HBM_REFRESH_CHANGE (R245): the rate doubles above 85 °C. -/
def execHbmRefreshChange (stack : Fin 16) (tempQc : BitVec 16) (s : State) : Ans :=
  .next { s with tiers := { s.tiers with
    stackTemp := tset s.tiers.stackTemp stack.val tempQc,
    stackRate := tset s.tiers.stackRate stack.val (bit (decide (tempQc.toInt > qc 85))) } }

/-- The hottest layer, the lowest-numbered of equals. -/
def hotLayer (s : State) : Nat :=
  [1, 2, 3].foldl (fun h k =>
    if (tget s.tiers.layerTemp 0 k).toInt > (tget s.tiers.layerTemp 0 h).toInt then k else h) 0

def rdNtStatus (s : State) : Word :=
  let h := hotLayer s
  put (tget s.tiers.layerTemp 0 h).toNat 16 ||| put h 12 ||| put (tget s.tiers.layerRate 0 h) 8 ||| s.tiers.ntSticky

def wrNtStatus (s : State) (v : Word) : State := { s with tiers := { s.tiers with ntSticky := w1c s.tiers.ntSticky v (mask 1 0) } }

def wrLdlStatus (s : State) (u : Nat) (v : Word) : State := { s with ldl := tmod s.ldl 0 u (fun x => w1c x v (mask 3 0)) }

end Sys2Proof.Machine
end

