-- ==== Sys2Proof/Machine/Checks.lean ====
section
/-!
DEFINITION. Chapter 18: the checks on a test's outputs (R408).
-/
namespace Sys2Proof.Machine
open Sys2Proof

/-! ## CRC-32: the IEEE polynomial, initial value all ones, final inversion -/

def crcShift (c : BitVec 32) : BitVec 32 := if c.getLsbD 0 then (c >>> 1) ^^^ 0xEDB88320#32 else c >>> 1

def crcByte (c : BitVec 32) (b : Byte) : BitVec 32 := (List.range 8).foldl (fun c _ => crcShift c) (c ^^^ b.setWidth 32)

def crc32 (l : List Byte) : BitVec 32 := ~~~(l.foldl crcByte 0xFFFFFFFF#32)

/-! ## The five kinds -/

/-- The CHECK code of a kind. -/
def checkCode : CheckWhat → Nat
  | .exact .. => 1
  | .range .. => 2
  | .bound .. => 3
  | .fire .. => 4
  | .count .. => 5

/-- A value lies within [lo, hi]; a NaN does not. -/
def numIn (lo hi x : Num) : Bool := !(isNan x) && !(numLt x lo) && !(numLt hi x)

/-- Each element in [lo, hi], as FP32 or as INT32; with NAN_OK an FP32 element may be NaN. -/
def inRange (int nanOk : Bool) (lo hi : BitVec 32) (x : BitVec 32) : Bool :=
  let v := fun (b : BitVec 32) => if int then intNum b.toInt else ofF32 b
  numIn (v lo) (v hi) (v x) || (nanOk && isNan (v x))

/-- An FP32 element lies within a bound of its reference. -/
def inBound (x ref bound : BitVec 32) : Bool :=
  let d := numAbs (numSub (ofF32 x) (ofF32 ref))
  x = ref || (!(isNan d) && !(numLt (ofF32 bound) d))

/-- The check passes. -/
def checkOk (c : CheckResult) : Bool :=
  match c.what with
  | .exact out stored => crc32 out = stored
  | .range int nanOk lo hi xs => xs.all (inRange int nanOk lo hi)
  | .bound xs => xs.all (fun e => inBound e.1 e.2.1 e.2.2)
  | .fire marked reported => marked.all (fun k => reported.contains k) && reported.all (fun k => marked.contains k)
  | .count stored value => stored = value

/-- Every check of a test passed. -/
def checksPass (l : List CheckResult) : Bool := l.all checkOk

end Sys2Proof.Machine
end

