-- ==== Sys2Proof/Machine/Rerank.lean ====
section
/-!
DEFINITION. Chapter 08: rerank (R186 to R192).
-/
namespace Sys2Proof.Machine
open Sys2Proof

structure RrD where
  dp : Nat
  qvec : Nat
  inp : Nat
  out : Nat
  inSize : Nat
  outSize : Nat
  qvecSize : Nat
  nrr : Nat
  fbOrder : Bool
  deadline : Nat

def rrD (e : Entry) : RrD :=
  let w := bodyWord e
  { dp := fld (w 0) 55 0, qvec := fld (w 1) 55 0, inp := fld (w 2) 55 0, out := fld (w 3) 55 0, inSize := fld (w 4) 63 32,
    outSize := fld (w 4) 31 0, qvecSize := fld (w 5) 63 32, nrr := fld (w 6) 63 53, fbOrder := bitAt (w 6) 52,
    deadline := (w 7).toNat }

def rrChecks (s : State) (d : RrD) : List Chk :=
  let t01 := fun (a : Nat) => inT0 a || area a = .t1
  let need := 32 + 16 * d.nrr
  let inp : Buf := ⟨d.inp, d.inSize, need, false⟩
  let out : Buf := ⟨d.out, d.outSize, need, true⟩
  let qv : Buf := ⟨d.qvec, d.qvecSize, 0, false⟩
  let all := bufChecks s false [inp, out, qv]
  let ten := if d.inp = d.out then anyOverlap [out, qv] || anyOverlap [{ inp with out := true }, qv]
    else anyOverlap [{ inp with out := true }, out, { qv with out := true }]
  let own : List Chk := [(5, d.nrr = 0, cBadField), (6, d.nrr > 1024, cOverLimit), (8, !(t01 d.inp) || !(t01 d.out), cBadAddr)]
  own ++ all.filter (fun c => c.1 != 10) ++ [(10, ten, cOverlap)]

/-! ## Flags of R190, as bits of the flags field [31:16] -/

def fCode : Nat := 1
def fFallback : Nat := 2
def fLate : Nat := 4
def fRderr : Nat := 8
def fBadvid : Nat := 16

def hasFlag (n k : Nat) : Bool := n &&& k != 0

/-- `fallback` of R188. -/
def fallBack (e : RerankEntry) (cause : Nat) (st : RerankSt) : RerankEntry :=
  { e with flags := e.flags ||| fFallback ||| cause, st := st }

/-- RECSIZE (R187). -/
def recSize (p : DParam) : Nat := (vecBytes p + 1023) / 1024 * 1024

/-- The FLE and the byte offset of the record of local slot `x` (R187). -/
def recordPlace (p : DParam) (x : Nat) : Nat × Nat :=
  let fs := (List.range 4).filter (fun k => p.fmask.testBit k)
  (fs.getD (x % fs.length) 0, p.vbase + x / fs.length * recSize p)

def vidShard (v : Word) : Nat := fld v 63 48
def vidSlot (v : Word) : Nat := fld v 47 8

/-! ## Reads of a unit -/

/-- The running reranks of DSE `u`. -/
def reranksOf (s : State) (u : Nat) : List (Nat × Word × Entry × RerankCtx) :=
  ((unitQueues 1 u).map (fun q =>
    let x := queueOf s q
    (List.range x.entries.length).filterMap (fun k =>
      match x.entries[k]? with
      | some e => (match e.st with
        | .running (.rerank c) => some (q, x.retired + BitVec.ofNat 64 k, e, c)
        | _ => none)
      | none => none))).flatten

def dseOf (s : State) (u : Nat) : DseUnit := tget s.dse {} u

def updDse (s : State) (u : Nat) (f : DseUnit → DseUnit) : State := { s with dse := tmod s.dse {} u f }

/-- RD_INFLIGHT: reads outstanding, abandoned ones included (R189, R195). -/
def rdInflight (s : State) (u : Nat) : Nat :=
  (dseOf s u).abandoned.length + ((reranksOf s u).map (fun r =>
    (r.2.2.2.entries.filter (fun e => decide (e.st = .outstanding))).length)).foldl (· + ·) 0

/-- RD_LIMIT as it is taken (R195). -/
def rdLimit (s : State) (u : Nat) : Nat :=
  let n := (dseOf s u).rdLimit
  if n = 0 || n > 1024 then 1024 else n

/-- Up to `k` waiting entries issue their reads, in input order. -/
def issueReads : Nat → List RerankEntry → List RerankEntry × Nat
  | _, [] => ([], 0)
  | 0, l => (l, 0)
  | k + 1, e :: r =>
    if e.st = .waiting then
      let a := issueReads k r
      ({ e with st := .outstanding } :: a.1, a.2 + 1)
    else
      let a := issueReads (k + 1) r
      (e :: a.1, a.2)

/-- The entries that are outstanding in the second list and were not in the first. -/
def newReads (before after : List RerankEntry) : List Nat :=
  (List.range after.length).filter (fun k =>
    match before[k]?, after[k]? with
    | some x, some y => x.st = .waiting && y.st = .outstanding
    | _, _ => false)

/-- The read of an entry goes to its flash engine, unless nobody serves that engine (R187). -/
def sendRead (s : State) (q : Nat) (i : Word) (e : Entry) (p : DParam) (k : Nat) (x : RerankEntry) : State :=
  let at_ := recordPlace p (vidSlot x.vid)
  if unitOffline s 7 at_.1 then s
  else acceptRead s at_.1 (descWho q e).tenant { q := q, i := i, k := k, acc := 0 } p.lbs at_.2 (recSize p)

/-- The unit's free places are taken by waiting reads, those of the lower queue and the earlier descriptor first (DESIGN CHOICE,
log 120); a read whose deadline has come is not issued. -/
def issueAll (s : State) (u : Nat) : State :=
  (reranksOf s u).foldl (fun s r =>
    let d := rrD r.2.2.1
    let c := r.2.2.2
    if d.deadline != 0 && d.deadline ≤ now s then s
    else
      let a := issueReads (rdLimit s u - rdInflight s u) c.entries
      let s := setWork s r.1 r.2.1 (.rerank { c with entries := a.1, reads := c.reads + a.2 })
      let p := dparamOf c.dparam
      (newReads c.entries a.1).foldl (fun s k =>
        match a.1[k]? with
        | some x => sendRead s r.1 r.2.1 r.2.2.1 p k x
        | none => s) s) s

def allResolved (c : RerankCtx) : Bool :=
  c.entries.all (fun e => match e.st with | .waiting | .outstanding => false | _ => true)

/-! ## The commands -/

def rrHeader (valid status reads fb late failed bad nan : Nat) : List Byte :=
  header4 valid status reads fb late failed bad nan

/-- RERANK that ends BAD_PARAM (R191). -/
def rrBad (s : State) (w : Who) (q : Nat) (i : Word) (d : RrD) : State :=
  let p := nodeWrite (dseFlag s (qUnit q) 6) w d.out (rrHeader 0 4 0 0 0 0 0 0 ++ (List.replicate d.nrr fillerEntry).flatten)
  finish p.2 q i (if p.1 then 0 else cMemerr)

/-- The first look at a considered entry (R188). -/
def considered (p : DParam) (late : Bool) (b : List Byte) : RerankEntry :=
  let w1 := bytesWord ((b.drop 8).take 8)
  let e : RerankEntry := {
    vid := bytesWord (b.take 8), score := BitVec.ofNat 32 (fld w1 63 32), slot := fld w1 15 0,
    flags := fld w1 31 16 &&& 0xFFE1, st := .resolved }
  if !(hasFlag e.flags fCode) then e
  else if e.vid = -1 || vidShard e.vid != p.shard || vidSlot e.vid ≥ p.nslots then fallBack e fBadvid .resolved
  else if late then fallBack e fLate .resolved
  else { e with st := .waiting }

/-- DSE_STATUS follows an entry's cause (R195). -/
def rrFlag (s : State) (u cause : Nat) : State :=
  if cause = fLate then dseFlag s u 2 else if cause = fRderr then dseFlag s u 1 else s

/-- RERANK (R188): the considered entries, and the reads that may be issued. -/
def execRerank (q : BitVec 16) (i : Word) (s : State) : Ans :=
  .next (
    let q := q.toNat
    let u := qUnit q
    match runningOp s q i 1 3 with
    | some (e, .plain _) =>
      let d := rrD e
      let w := descWho q e
      let x := readDparam s w d.dp
      if !x.ok then finish x.s q i cMemerr
      else
        match x.p with
        | none => rrBad x.s w q i d
        | some p =>
          if d.qvecSize < 4 * p.dims then rrBad x.s w q i d
          else
            let h := readAll x.s w [(d.qvec, 4 * p.dims), (d.inp, 32)]
            if !h.1 then finish h.2.2 q i cMemerr
            else
              let n := min (fld (bytesWord ((h.2.1.getD 1 []).take 8)) 63 32) d.nrr
              let r := nodeRead h.2.2 w (d.inp + 32) (16 * n)
              if !r.ok then finish r.s q i cMemerr
              else
                let late := d.deadline != 0 && d.deadline ≤ now s
                let es := (chunks 16 r.data.length r.data).map (considered p late)
                let s := if es.any (fun e => hasFlag e.flags fLate) then dseFlag r.s u 2 else r.s
                let s := setWork s q i (.rerank { dparam := x.raw, qvec := h.2.1.getD 0 [], entries := es })
                issueAll s u
    | _ => s)

/-- The entry `k` of a running rerank with an outstanding read. -/
def outstandingAt (s : State) (q : Nat) (i : Word) (k : Nat) : Option (Entry × RerankCtx × RerankEntry) :=
  match runningOp s q i 1 3 with
  | some (e, .rerank c) =>
    match c.entries[k]? with
    | some x => if x.st = .outstanding then some (e, c, x) else none
    | none => none
  | _ => none

def isAbandoned (s : State) (q : Nat) (i : Word) (k : Nat) : Bool := (dseOf s (qUnit q)).abandoned.contains (q, i, k)

/-- An abandoned read gives its place back. -/
def freePlace (s : State) (q : Nat) (i : Word) (k : Nat) : State :=
  updDse s (qUnit q) (fun x => { x with abandoned := x.abandoned.filter (· != (q, i, k)) })

def lateCount (s : State) (u : Nat) : State :=
  updDse s u (fun x => { x with lateData := min 65535 (x.lateData + 1) })

/-- The outstanding reads of a rerank that ends without them are abandoned. -/
def abandonAll (s : State) (q : Nat) (i : Word) (c : RerankCtx) : State :=
  updDse s (qUnit q) (fun x => { x with abandoned := x.abandoned ++
    ((List.range c.entries.length).filter (fun k =>
      match c.entries[k]? with | some e => e.st = .outstanding | none => false)).map (fun k => (q, i, k)) })

/-- An entry of a running rerank is settled, and its place is free for another read. -/
def settle (s : State) (q : Nat) (i : Word) (c : RerankCtx) (k : Nat) (e : RerankEntry) : State :=
  issueAll (setWork s q i (.rerank { c with entries := lset c.entries k e })) (qUnit q)

/-- A sector of the record failed: the flash engine's record of it (R314). -/
def flashUe (s : State) (w : Who) (f lbs off : Nat) : State :=
  match mapGet (fleOf s f) lbs (off / auBytes) with
  | some l => logRec s { w with cls := 7, unit := f } 9 (BitVec.ofNat 64 off) (BitVec.ofNat 64 lbs) (BitVec.ofNat 64 l)
  | none => s

/-- RERANK_READ_DATA (R188, R189, R192): the data of entry `slot` arrives. -/
def execRerankReadData (q : BitVec 16) (i : Word) (slot : Nat) (r : List Residue) (s : State) : Ans :=
  .next (
    let q := q.toNat
    let u := qUnit q
    if readHeld s q i slot then s
    else if isAbandoned s q i slot then issueAll (lateCount (freePlace (endRead s q i slot) q i slot) u) u
    else
      let s := endRead s q i slot
      match outstandingAt s q i slot with
      | none => s
      | some (e, c, x) =>
        let d := rrD e
        let p := dparamOf c.dparam
        let w := descWho q e
        if d.deadline != 0 && d.deadline ≤ now s then
          settle (lateCount (rrFlag s u fLate) u) q i c slot (fallBack x fLate .resolved)
        else
          let at_ := recordPlace p (vidSlot x.vid)
          match (if unitOffline s 7 at_.1 then none else fleData (fleOf s at_.1) p.lbs at_.2 (recSize p)) with
          | none => settle (rrFlag s u fRderr) q i c slot (fallBack x fRderr .resolved)
          | some data =>
            let n := recSize p
            let s := updFle s at_.1 (fun f => noteRebuilt f (locsFrom f p.lbs at_.2 n))
            let s := tally (ctrAdd (workTally s 7 w.tenant (n / 1024)) 0x9128 n) w.tenant 0x14 n
            let z := descResidue (workTally s 1 w.tenant 1) q i e r (fun s => dseFlag s u 3)
            if !z.1 then
              issueAll (finish (abandonAll z.2 q i { c with entries := lset c.entries slot { x with st := .resolved } }) q i cArith) u
            else
              let s := z.2
              let qv := (List.range p.dims).map (f32At c.qvec)
              let y := f32 (fullDist s.choice p.metric qv ((rowElems p.vfmt p.dims data).map (decodeNum p.vfmt)))
              let s := chooseMore s distChoices
              let bad := isNan (ofF32 y)
              let s := if bad then dseFlag s u 0 else s
              settle s q i { c with nan := c.nan + bit bad } slot
                { x with score := y, flags := x.flags &&& 0xFFFE, st := .resolved }) 

/-- RERANK_READ_ERROR (R188, R189): the read of entry `slot` failed. -/
def execRerankReadError (q : BitVec 16) (i : Word) (slot : Nat) (s : State) : Ans :=
  .next (
    let q := q.toNat
    let u := qUnit q
    if readHeld s q i slot then s
    else if isAbandoned s q i slot then issueAll (freePlace (endRead s q i slot) q i slot) u
    else
      let s := endRead s q i slot
      match outstandingAt s q i slot with
      | none => s
      | some (e, c, x) =>
        let p := dparamOf c.dparam
        let at_ := recordPlace p (vidSlot x.vid)
        let s := flashUe s (descWho q e) at_.1 p.lbs at_.2
        let d := rrD e
        let cause := if d.deadline != 0 && d.deadline ≤ now s then fLate else fRderr
        settle (rrFlag s u cause) q i c slot (fallBack x cause .resolved))

/-- RERANK_DEADLINE (R188, R189): outstanding and waiting reads fall back with LATE; the outstanding are abandoned. -/
def execRerankDeadline (q : BitVec 16) (i : Word) (s : State) : Ans :=
  .next (
    let q := q.toNat
    match runningOp s q i 1 3 with
    | some (e, .rerank c) =>
      let d := rrD e
      if d.deadline != 0 && d.deadline ≤ now s && !(allResolved c) then
        let s := abandonAll s q i c
        let es := c.entries.map (fun e => match e.st with
          | .waiting => fallBack e fLate .resolved
          | .outstanding => fallBack e fLate .abandoned
          | _ => e)
        setWork (dseFlag s (qUnit q) 2) q i (.rerank { c with entries := es })
      else s
    | _ => s)

/-- The order of R191: by distance, equal distances in input order; with FB_ORDER the fallback entries after the rest. -/
def rrOrder (fb : Bool) (l : List RerankEntry) : List RerankEntry :=
  let byDist := fun (l : List RerankEntry) =>
    l.foldl (fun a e => insertBy (fun x y => decide (rankKey x.score < rankKey y.score)) e a) []
  if fb then byDist (l.filter (fun e => !(hasFlag e.flags fFallback))) ++ l.filter (fun e => hasFlag e.flags fFallback)
  else byDist l

/-- RERANK_OUTPUT (R191). -/
def execRerankOutput (q : BitVec 16) (i : Word) (s : State) : Ans :=
  .next (
    let q := q.toNat
    match runningOp s q i 1 3 with
    | some (e, .rerank c) =>
      if !(allResolved c) then s
      else
        let d := rrD e
        let count := fun (k : Nat) => (c.entries.filter (fun e => hasFlag e.flags k)).length
        let fb := count fFallback
        let n := c.entries.length
        let bytes := rrHeader n (if fb = 0 then 0 else 1) c.reads fb (count fLate) (count fRderr) (count fBadvid) c.nan
          ++ ((rrOrder d.fbOrder c.entries).map (fun e => resultBytes e.vid e.score e.flags)).flatten
          ++ (List.replicate (d.nrr - n) fillerEntry).flatten
        let p := nodeWrite s (descWho q e) d.out bytes
        finish p.2 q i (if p.1 then 0 else cMemerr)
    | _ => s)

end Sys2Proof.Machine
end

