-- ==== Sys2Proof/Machine/Units.lean ====
section
/-!
DEFINITION. Engine units and their spares (R99, R456 to R458): which physical unit serves a logical number, what becomes of
descriptors when a unit is lost or retired, the end of a service command.
-/
namespace Sys2Proof.Machine
open Sys2Proof

/-! ## Spares -/

/-- The key of spare `k` of a class, numbered above the units in service. -/
def spareKey (cls k : Nat) : Nat := unitKey cls (unitCount cls + k)

/-- Spare `k` serves unit `u`. -/
def spareIs (x : SpareUse) (k : Nat) : Bool := x = .standIn k || x = .mapped k

/-- The unit that spare `k` of a class serves, if any. -/
def spareOf (s : State) (cls k : Nat) : Option Nat :=
  (List.range (unitCount cls)).find? (fun u => spareIs (unitOf s cls u).spare k)

/-- The spare has been lost or failed its self-test. -/
def spareLost (s : State) (cls k : Nat) : Bool := s.boot.lostSpares.contains (spareKey cls k)

/-- The spares of a class that are free. -/
def freeSpares (s : State) (cls : Nat) : List Nat :=
  (List.range (spareCount cls)).filter (fun k => !(spareLost s cls k) && spareOf s cls k = none)

def freeSpare (s : State) (cls : Nat) : Option Nat := (freeSpares s cls).head?

/-- Who dispatches for a logical unit: none while nothing may, false for the unit itself, true for its spare. After a
RESUME a stand-in finishes what it dispatched before the unit dispatches again (R457); a spare just mapped in first runs its
tests (R418). -/
def serving (s : State) (cls u : Nat) : Option Bool :=
  let x := unitOf s cls u
  if x.fresh then none
  else match x.mode, x.spare with
  | .inService, .none => some false
  | .inService, _ => none
  | .retired, .mapped _ => some true
  | .retired, _ => none
  | _, .standIn _ => some true
  | _, _ => none

/-! ## Service commands -/

/-- A service command ends with a RESULT, and counter 0x9030 passes it (R463). -/
def svcEnd (s : State) (result : Nat) : State :=
  ctrAdd { s with boot := { s.boot with svcResult := result, svc := .idle } } 0x9030 1

/-- The unit is under a pattern test (R416). -/
def underPattern (s : State) (cls u : Nat) : Bool :=
  s.err.testing && s.err.curClass = cls && s.err.curUnit = u

/-- What follows when a descriptor of a unit has retired: a stand-in that has finished leaves a unit that is back in service
(R457), and a unit under a pattern test that has drained enters CHECK mode (R416). -/
def settleUnit (s : State) (cls u : Nat) : State :=
  let x := unitOf s cls u
  match x.mode with
  | .inService =>
    if slotsUsed s cls u true = 0 then
      let s := match x.spare with
        | .standIn _ => updUnit s cls u (fun y => { y with spare := .none })
        | _ => s
      if s.boot.svc = .resume cls u then svcEnd s 0 else s
    else s
  | .testing =>
    if underPattern s cls u && !x.check && slotsUsed s cls u false = 0 then
      let s := updUnit s cls u (fun y => { y with check := true })
      { s with err := { s.err with testStart := s.tb.time } }
    else s
  | _ => s

/-! ## Losing a unit -/

/-- The record of a retired unit (R411): whether a spare took its place, and the kind of record that caused it, 0 for none
(DESIGN CHOICE, log 50). -/
def unitRecord (s : State) (cls u : Nat) (spare : Bool) (cause : Nat) : State :=
  logRec s { cls := cls, unit := u } 0x0C 0 (BitVec.ofNat 64 (bit spare)) (BitVec.ofNat 64 cause)

/-- A dispatched descriptor is lost with its unit: its reads are abandoned, its footprint ends, what it wrote to a host window
is flushed (R261), and it retires with UNIT_LOST. -/
def loseEntry (s : State) (q : Nat) (i : Word) : State :=
  match entryAt s q i with
  | none => s
  | some e =>
    let s := match e.st with
      | .running (.rerank c) => abandonAll s q i c
      | _ => s
    let s := if qClass q = 8 then nbuRetired s q i e else (t3Flush s q e).2
    retireEntry s q i cUnitLost

/-- The banks still work for the descriptor: its broadcast commands have not all ended (R267). -/
def banksBusy (s : State) (q : Nat) (e : Entry) : Bool :=
  qClass q = 8 && usesBanks e && ((chanOf s (qUnit q)).bcast != none || (chanOf s (qUnit q)).more)

/-- It runs on the unit itself, or on its spare: its work is not done, or the banks still do it. -/
def runsOn (s : State) (q : Nat) (spare : Bool) (e : Entry) : Bool :=
  e.onSpare == spare &&
    (match e.st with
     | .running _ => true
     | .finished _ => banksBusy s q e
     | _ => false)

/-- Every descriptor dispatched on the unit, or on its spare, is lost (R99). -/
def loseRunning (s : State) (cls u : Nat) (spare : Bool) : State :=
  (unitQueues cls u).foldl (fun s q => (indicesOf (queueOf s q) (runsOn s q spare)).foldl (fun s i => loseEntry s q i) s) s

/-- Every undispatched descriptor of the unit retires with UNIT_LOST (R99, R457). -/
def loseQueued (s : State) (cls u : Nat) : State :=
  (unitQueues cls u).foldl (fun s q =>
    let s := (indicesOf (queueOf s q) (fun e => e.st = .queued)).foldl (fun s i => retireEntry s q i cUnitLost) s
    updQueue s q (fun x => { x with checked := false })) s

/-- A unit leaves for good: its stand-in keeps its number, else a free spare takes it, else its queues are lost; a record of
kind UNIT_RETIRED says so (R99, R457). -/
def retireUnit (s : State) (cls u cause : Nat) : State :=
  let take := match (unitOf s cls u).spare with
    | .standIn k => some (k, false)
    | .mapped k => some (k, (unitOf s cls u).fresh)
    | .none => (freeSpare s cls).map (fun k => (k, true))
  match take with
  | some (k, new) =>
    let s := updUnit s cls u (fun x => { x with mode := .retired, check := false, spare := .mapped k, fresh := new })
    unitRecord s cls u true cause
  | none =>
    let s := updUnit s cls u (fun x => { x with mode := .retired, check := false, fresh := false })
    let s := loseQueued { s with boot := { s.boot with degraded := true } } cls u
    unitRecord s cls u false cause

/-- A command or a test that named a lost unit ends: the command with REFUSED_STATE (DESIGN CHOICE, log 51). -/
def dropService (s : State) (cls u : Nat) : State :=
  let s := if underPattern s cls u then { s with err := { s.err with testing := false } } else s
  if s.boot.svc = .quiesce cls u || s.boot.svc = .resume cls u || s.boot.svc = .reload cls u
      || (cls = 8 && s.boot.svc = .migrate u) then svcEnd s 1 else s

/-- The banks of a lost NBU are no longer busy. -/
def freeBanks (s : State) (cls u : Nat) : State :=
  if cls = 8 then nbuClear (updChan s u (fun c => { c with bcast := none, more := false, nbuWait := none })) u else s

/-- A unit is lost without a plan (R99, R456). -/
def loseUnit (s : State) (cls u : Nat) : State :=
  if (unitOf s cls u).mode = .retired then s
  else
    let s := loseRunning s cls u false
    retireUnit (dropService (freeBanks s cls u) cls u) cls u 0

/-- A spare is lost: as a stand-in its dispatched descriptors are lost and the others go back to the unit (R458); in a
retired unit's place R99 applies to it. -/
def loseSpare (s : State) (cls k : Nat) : State :=
  if k ≥ spareCount cls || spareLost s cls k then s
  else
    let w := spareOf s cls k
    let s := { s with boot := { s.boot with lostSpares := s.boot.lostSpares ++ [spareKey cls k] } }
    match w with
    | none => s
    | some u =>
      let s := loseRunning s cls u true
      let old := (unitOf s cls u).mode
      let s := updUnit s cls u (fun x => { x with spare := .none, fresh := false })
      if old = .retired then retireUnit s cls u 0 else settleUnit s cls u

/-! ## Tests (R416 to R418) -/

/-- The record of a failed check (R417); the layout of PLAUS_FAIL's SYNDROME is the model's: the check's number in [15:8], its
CHECK code in [7:0] (DESIGN CHOICE, log 52). -/
def plausFail (s : State) (cls u test addr num code : Nat) : State :=
  logRec s { cls := cls, unit := u } 0x0A (BitVec.ofNat 64 addr) (put num 8 ||| put code 0) (BitVec.ofNat 64 test)

/-- The records of test number `test` of pack version `ver` that failed: one for each check that failed, then one of the
test; the unit's bit in ERR_UNIT_FAIL (R417). -/
def testFailed (s : State) (cls u test : Nat) (ver : BitVec 16) (l : List CheckResult) : State :=
  let s := (l.filter (fun c => !(checkOk c))).foldl (fun s c => plausFail s cls u test c.addr c.num (checkCode c.what)) s
  let s := logRec s { cls := cls, unit := u } 0x0B 0 (ver.setWidth 64) (BitVec.ofNat 64 test)
  { s with err := { s.err with unitFail := sadd s.err.unitFail (unitKey cls u) } }

/-- The descriptors of a unit's tests run in the region at ERR_PP_BASE: their work and bytes are counted for tenant 0 (R426);
how much they do, and what they leave in the region, is the pack's, whose layout is not stated (log 54). -/
def testWork (s : State) (cls : Nat) : State :=
  let c := Config.pick s.choice
  let s := [0, 1, 2, 3].foldl (fun s t => tierTouch s 0 t (c (t + 1))) (workTally (tick1 s) cls 0 (c 0))
  if s.err.ppBase = 0 then s else undefine s (s.err.ppBase.toNat + c 5 % 2 ^ 20) (c 6 % 2 ^ 20)

/-- The tests of a recovery, each that failed with its own records (R418). -/
def testsFailed (s : State) (cls u : Nat) (l : List CheckResult) : State :=
  ((l.filter (fun c => !(checkOk c))).map (·.test)).eraseDups.foldl (fun s t =>
    testFailed s cls u t s.err.packVer (l.filter (fun c => c.test = t))) s

/-- AUTO_RETIRE and a spare free or standing in: the unit is retired after a failed test (R417). -/
def autoRetire (s : State) (cls u : Nat) : Bool :=
  bitAt s.err.ppCtl 1 && ((unitOf s cls u).spare != .none || (freeSpare s cls).isSome)

/-! ## The tests of a spare just mapped in (R418) -/

/-- Those of the numbers below `n` that a free choice takes. -/
def someOf (c n : Nat) : List Nat := (List.range n).filter (fun k => Config.pick c k % 2 = 1)

/-- The tests that such a spare has failed, at least one, and of each the checks with the outputs they looked at: all free. -/
def spareRecords (s : State) (cls u : Nat) : State :=
  let c := s.choice
  let tests := match someOf c 1024 with
    | [] => [Config.pick c 1024 % 1024]
    | l => l
  tests.foldl (fun s t =>
    let c := s.choice
    let s := (someOf c 16).foldl (fun s k =>
      plausFail s cls u t (Config.pick c (16 + k) % 2 ^ 56) k (1 + Config.pick c (32 + k) % 5)) (tick1 s)
    testFailed s cls u t s.err.packVer []) (tick1 s)

/-- The spare in a unit's place has failed: with AUTO_RETIRE another free spare takes its place; with none free the queues are
lost (R99, R417, R418). -/
def spareFails (s : State) (cls u : Nat) : State :=
  let s := updUnit (spareRecords s cls u) cls u (fun x => { x with fresh := false })
  match freeSpare s cls, (unitOf s cls u).spare with
  | some _, .mapped k =>
    if bitAt s.err.ppCtl 1 then
      let s := { s with boot := { s.boot with lostSpares := s.boot.lostSpares ++ [spareKey cls k] } }
      retireUnit (errFlag (updUnit s cls u (fun x => { x with spare := .none })) 7) cls u 0x0B
    else s
  | some _, _ => s
  | none, _ => loseQueued (updUnit s cls u (fun x => { x with offline := true })) cls u

/-- In a nanosecond of its tests a spare is still tested, passes, or fails: which is free (log 81). -/
def spareTick (s : State) (k : Nat) : State :=
  let cls := k / 1024
  let u := k % 1024
  match Config.pick s.choice (16 + k) % 3 with
  | 0 => s
  | 1 => updUnit (testWork s cls) cls u (fun x => { x with fresh := false })
  | _ => spareFails (testWork s cls) cls u

/-- The spares that are being tested. -/
def testSpares (s : State) : State :=
  let l := (s.units.filter (fun e => e.2.fresh)).map Prod.fst
  if l.isEmpty then s else l.foldl spareTick (tick1 s)

end Sys2Proof.Machine
end

