-- ==== Sys2Proof/Machine/Queues.lean ====
section
/-!
DEFINITION. Chapter 04: what happens at the head of a queue, dispatch, retirement, the queue registers (R79 to R102).
-/
namespace Sys2Proof.Machine
open Sys2Proof

/-! ## Every class's descriptors -/

/-- The body layout of an opcode of a class. -/
def shapeOf (cls op : Nat) : Option Shape :=
  match cls with
  | 0 => mxeShape op
  | 1 => dseShape op
  | 2 => gweShape op
  | 3 => sleShape op
  | 4 => gteShape op
  | 5 => qteShape op
  | 6 => ladleShape op
  | 7 => fleShape op
  | _ => nbuShape op

/-- Steps 4 to 10 of R94 for a descriptor of a class. -/
def bodyChecks (s : State) (cls u op : Nat) (e : Entry) : List Chk :=
  match cls with
  | 0 => if op = 3 then attChecks s (attD e) else matChecks s op (matD e)
  | 1 =>
    match op with
    | 1 => distChecks s (distD e)
    | 2 => qbChecks s (qbD e)
    | _ => rrChecks s (rrD e)
  | 2 => walkChecks s (walkD e)
  | 3 => topkChecks s (topkD e)
  | 4 => gteChecks s op e
  | 5 => qteChecks s op (qteD e)
  | 6 => ladleChecks s op (moveD e)
  | 7 => fleChecks s op (fleD e)
  | _ => nbuChecks s u op e

/-- What a descriptor keeps from its dispatch: its unit's saturation monitor (R123), its place in the order of acceptance of
its flash engine (R308), the node's number and epoch (R298). -/
def monitorOf (s : State) (cls u : Nat) : Word :=
  match cls with
  | 0 => (tget s.mxe mxeReset u).mon
  | 4 => put s.cmp.epoch.toNat 16 ||| put s.cmp.node.toNat 0
  | 5 => (tget s.qte qteReset u).mon
  | 7 => put (bit (!(fleOf s u).mounted)) 63 ||| BitVec.ofNat 64 (fleOf s u).accepted
  | _ => 0

/-! ## The head of a queue -/

/-- DESC_AT_HEAD (R94): steps 1 to 3, then the wait begins. A descriptor that comes to a unit nobody serves retires with
UNIT_LOST (R99, log 53). -/
def execDescAtHead (q : BitVec 16) (s : State) : Ans :=
  .next (
    let q := q.toNat
    let x := queueOf s q
    if !(qExists q) || !(qEnabled x) || x.halted || x.checked then s
    else
      match headEntry x with
      | none => s
      | some e =>
        let i := headIndex x
        if unitOffline s (qClass q) (qUnit q) then retireEntry s q i cUnitLost
        else
          match headChecks e (shapeOf (qClass q) (hdrOp (hdr e))) with
          | some c => retireEntry s q i c
          | none => updQueue s q (fun x => { x with checked := true, waitStart := s.tb.time }))

/-- The head's WT wait holds it. -/
def headWaits (s : State) (x : Queue) : Bool :=
  match headEntry x with
  | some e => x.checked && hdrWT (hdr e) && !(satisfies (ctrGet s (hdrWaitCtr (hdr e))) (targetWord e))
  | none => false

/-- WAIT_TIMEOUT (R101). -/
def execWaitTimeout (q : BitVec 16) (s : State) : Ans :=
  .next (
    let q := q.toNat
    let x := queueOf s q
    let tmo := fld x.ctl 47 32
    if qExists q && qEnabled x && !x.halted && tmo != 0 && headWaits s x && x.waitStart.toNat + tmo * 1000 ≤ now s then
      let s := updQueue s q (fun x => { x with checked := false, sticky := stick x.sticky 2 })
      retireEntry s q (headIndex x) cWaitTimeout
    else s)

/-! ## Dispatch (R91) -/

/-- Execution slots of a unit; the contexts that CTX_LIMIT leaves a walk engine (R177). -/
def slotLimit (s : State) (cls u : Nat) : Nat :=
  if cls = 2 then
    let l := (tget s.gwe {} u).limit
    if l = 0 || l > 1024 then 1024 else l
  else slotCount cls

/-- The slots in use that count against the limit: of a walk engine those of the unit and of its stand-in together, as
IN_USE counts them (R177). -/
def slotsTaken (s : State) (cls u : Nat) (spare : Bool) : Nat :=
  if cls = 2 then slotsUsed s cls u false + slotsUsed s cls u true else slotsUsed s cls u spare

/-- The head of the queue is dispatchable, but for the slot. -/
def headReady (s : State) (q : Nat) : Bool :=
  let x := queueOf s q
  match headEntry x with
  | none => false
  | some e => qEnabled x && !x.halted && x.checked && !(headWaits s x) && (!(hdrORD (hdr e)) || headPos x = 0)

def weightOf (x : Queue) : Nat := max 1 (fld x.ctl 11 8)

/-- The queue that is served next: the one whose turn it is until its weight is used up, then the next of the unit's queues
in order with a dispatchable head (log 14). -/
def pickQueue (s : State) (cls u : Nat) : Option Nat :=
  let x := unitOf s cls u
  let n := queueCount cls
  let cur := mkQ cls u (x.turn % n)
  if headReady s cur && x.served < weightOf (queueOf s cur) then some cur
  else ((List.range n).map (fun k => mkQ cls u ((x.turn + 1 + k) % n))).find? (headReady s)

/-- The turn passes to, or stays with, the queue just served. -/
def takeTurn (s : State) (cls u q : Nat) : State :=
  updUnit s cls u (fun x =>
    if x.turn % queueCount cls = qSub q && x.served < weightOf (queueOf s q) then { x with served := x.served + 1 }
    else { x with turn := qSub q, served := 1 })

/-- What a class's engine notes of a descriptor it begins. -/
def onDispatch (s : State) (cls u q : Nat) (i : Word) (e : Entry) : State :=
  match cls with
  | 2 => { s with gwe := tmod s.gwe {} u (fun g => { g with peak := max g.peak (slotsUsed s 2 u false + slotsUsed s 2 u true) }) }
  | 7 => updFle s u (fun f => { f with accepted := f.accepted + 1 })
  | 8 =>
    if !(usesBanks e) then s
    else
      let s := { s with foot := s.foot ++ [footOf q i e] }
      updChan s u (fun c => { c with nbuWait := match c.nbuWait with | none => some s.tb.time | w => w })
  | _ => s

/-- DESC_DISPATCH (R91, R94): the next dispatchable head of a unit is rejected by steps 4 to 10, or runs. -/
def execDescDispatch (cls : BitVec 4) (unit : BitVec 10) (s : State) : Ans :=
  .next (
    let cls := cls.toNat
    let u := unit.toNat
    if u ≥ unitCount cls then s
    else
      match serving s cls u with
      | none => s
      | some spare =>
        if slotsTaken s cls u spare ≥ slotLimit s cls u then s
        else
          match pickQueue s cls u with
          | none => s
          | some q =>
            let x := queueOf s q
            match headEntry x with
            | none => s
            | some e =>
              let i := headIndex x
              let s := updQueue (takeTurn s cls u q) q (fun x => { x with checked := false })
              match firstFail (bodyChecks s cls u (hdrOp (hdr e)) e) with
              | some c => retireEntry s q i c
              | none =>
                let s := setEntry s q i { e with
                  st := .running (.plain (monitorOf s cls u)), onSpare := spare, since := s.tb.time,
                  acc := if cls = 7 then (fleOf s u).accepted else e.acc }
                onDispatch s cls u q i e)

/-! ## Retirement (R86 to R89) -/

/-- DESC_RETIRE (R86): a finished descriptor retires, and the counter passes the retired prefix. One whose flush of a window
failed retires with MEMERR (R261, R262), and an NBU's whose write of OUT failed (R284). -/
def execDescRetire (q : BitVec 16) (i : Word) (s : State) : Ans :=
  .next (
    let q := q.toNat
    match entryAt s q i with
    | none => s
    | some e =>
      match e.st with
      | .finished code =>
        if !(qExists q) || banksBusy s q e then s
        else
          let bad := s.foot.any (fun f => f.q = q && f.i = i && f.failed)
          let x := if qClass q = 8 then (!bad, nbuRetired s q i e) else t3Flush s q e
          settleUnit (retireEntry x.2 q i (if code = 0 && !x.1 then cMemerr else code)) (qClass q) (qUnit q)
      | _ => s)

/-- UNIT_LOSS (R99, R456, R458): a unit, or a spare, numbered above the units of its class. -/
def execUnitLoss (cls : BitVec 4) (unit : BitVec 10) (s : State) : Ans :=
  .next (
    let c := cls.toNat
    let u := unit.toNat
    if c > 8 then s
    else if u < unitCount c then loseUnit s c u
    else loseSpare s c (u - unitCount c))

/-! ## Registers (R102) -/

/-- Cancels what is in the queue and not dispatched (R98). -/
def flushQueue (s : State) (q : Nat) : State :=
  let s := (indicesOf (queueOf s q) (fun e => e.st = .queued)).foldl (fun s i => retireEntry s q i cCancelled) s
  updQueue s q (fun x => { x with checked := false })

def qctlMask : Word := mask 47 32 ||| mask 11 8 ||| mask 2 2 ||| mask 0 0

/-- A write of QCTL (R102, R493). The WT wait of the head runs on through HALTED and through a disable, so that its time
counts from its first begin (DESIGN CHOICE, log 96). -/
def wrQctl (s : State) (q : Nat) (v : Word) : State :=
  let s := updQueue s q (fun x => { x with ctl := v &&& qctlMask, halted := x.halted && !(bitAt v 3) })
  if bitAt v 1 then flushQueue s q else s

/-- FLUSH (R98). -/
def execFlush (a : Acc) (q : BitVec 16) (v : Word) (s : State) : Ans :=
  .next (accDo s a (fun s => if qExists q.toNat && bitAt v 1 then wrQctl s q.toNat v else s))

/-- QUEUE_RESUME (R97). -/
def execQueueResume (a : Acc) (q : BitVec 16) (v : Word) (s : State) : Ans :=
  .next (accDo s a (fun s => if qExists q.toNat && bitAt v 3 then wrQctl s q.toNat v else s))

def rdQstatus (s : State) (q : Nat) : Word :=
  let x := queueOf s q
  put x.rejects.toNat 48 ||| put (credits s q) 32 ||| put (queueDepth (qClass q)) 16 ||| put (bit x.halted) 4
    ||| put (bit (headWaits s x)) 3 ||| x.sticky

def wrQstatus (s : State) (q : Nat) (v : Word) : State :=
  updQueue s q (fun x => { x with sticky := w1c x.sticky v (mask 2 1) })

/-- The six registers of a queue by offset. -/
def rdQueue (s : State) (q o : Nat) : Word :=
  let x := queueOf s q
  match o with
  | 0x00 => x.ctl
  | 0x08 => rdQstatus s q
  | 0x10 => qIssue x
  | 0x18 => x.retired
  | 0x20 => x.completed
  | 0x28 => x.lastErr
  | _ => 0

def wrQueue (s : State) (q o : Nat) (v : Word) : State :=
  match o with
  | 0x00 => wrQctl s q v
  | 0x08 => wrQstatus s q v
  | _ => s

end Sys2Proof.Machine
end

