-- ==== Sys2Proof/Machine/Abandon.lean ====
section
/-!
DEFINITION. Memory at a WARM reset (R453, R454, R473): what abandoned descriptors leave of their results, the lines that caches
held, and the zeros of the code regions that are released.
-/
namespace Sys2Proof.Machine
open Sys2Proof

/-- A range of node memory is written with zeros: nothing of it stays in a cache, and no codeword of it is bad. -/
def zeroRange (s : State) (a n : Nat) : State :=
  let s := invalidateExt s a n
  { s with mem := { s.mem with
      cells := s.mem.cells.filter (fun c => !(a ≤ c.1 && c.1 < a + n)),
      ce := s.mem.ce.filter (fun c => !(a ≤ c && c < a + n)),
      rewritten := s.mem.rewritten ++ (s.mem.lostCh.map (fun ch =>
        if overlaps (t2Base + ch * 2 ^ 32) (2 ^ 32) a n then (cwsOf a n).filter (cwLost s) else [])).flatten,
      ue := s.mem.ue.filter (fun c => !(a ≤ c && c < a + n)) } }

/-- The channels of T2 that a range touches come to memory mode and to its turn, one after the other (R24, R264). -/
def rangeTurn (s : State) (a n : Nat) : State :=
  match area a, area (a + n - 1) with
  | .t2 c, .t2 d => if n = 0 then s else (List.range (d - c + 1)).foldl (fun s k => chanTurn s (c + k)) s
  | _, _ => s

/-- A range is written with zeros as an agent of the node writes it: at its channels' turn, and undefined where it lies in the
footprint of an NBU descriptor (R282). -/
def zeroLive (s : State) (w : Who) (a n : Nat) : State :=
  let s := zeroRange (rangeTurn s a n) a n
  if s.foot.any (fun f => inFoot w f a n) then
    let f := footBytes s w a (List.replicate n 0)
    memSet f.2 a f.1
  else s

/-! ## What a descriptor writes -/

/-- A record at `a`, 0 for none. -/
def recExt (a n : Nat) : List (Nat × Nat) := if a = 0 then [] else [(a, n)]

/-- The rows, riser slots and stamps of a table that the indices at `idx` name. -/
def tableExts (s : State) (table idx nidx : Nat) (rows stamps : Bool) : List (Nat × Nat) :=
  let t := tableOf (seenGet s table 64)
  ((words32 (seenGet s idx (4 * nidx))).filter (fun r => r < t.rows)).flatMap (fun r =>
    (if rows then [(rowAddr t r, rowLen t)] else []) ++ (if t.riser = 0 then [] else [(slotAddr t r, slotSize t)])
      ++ (if stamps then [(t.stamps + 8 * r, 8)] else []))

/-- The extents that a dispatched descriptor writes. -/
def outExts (s : State) (q : Nat) (i : Word) (e : Entry) : List (Nat × Nat) :=
  let op := hdrOp (hdr e)
  match qClass q with
  | 0 =>
    if op = 3 then
      let d := attD e
      [(d.o, d.sq * d.hq * headDim d.hdc * attOBytes d), (d.pt, if d.part then 8 * d.sq * d.hq else 0)]
    else
      let d := matD e
      (d.d, d.m * rowBytes d.dF d.n) :: recExt d.report 16
  | 1 =>
    match op with
    | 1 => [((distD e).out, 4 * (distD e).count)]
    | 2 => [((qbD e).qblk, (qbD e).qblkSz)]
    | _ => [((rrD e).out, 32 + 16 * (rrD e).nrr)]
  | 2 =>
    let d := walkD e
    [(d.scratch, scratchNeed d), (d.out, 32 + 16 * d.nout)]
  | 3 =>
    let d := topkD e
    [(d.out, 32 + 16 * d.k), (d.spill, if spills d then spillNeed d else 0)]
  | 4 =>
    if op = 1 then
      let d := gatherD e
      [(d.out, outRows d * rowStride d.oF d.dim)] ++ recExt d.stat 32 ++ tableExts s d.table d.idx d.nidx false false
    else
      let d := scatterD e
      recExt d.stat 32 ++ tableExts s d.table d.idx d.nidx true (d.mode = 1)
  | 5 =>
    let d := qteD e
    [(d.dst, d.rows * rowBytes d.dstF d.cols),
      (d.scale, if qteWritesScale op d then d.rows * rowScales d.cols (blockLen d.sblk) else 0)] ++ recExt d.report 16
  | 6 =>
    (ladleExts s e).map (fun x => (x.dst, x.size)) ++ recExt (moveD e).stat 16
  | 7 =>
    let d := fleD e
    (if op = 1 then [(d.buf, d.size)] else []) ++ recExt d.stat 16
  | _ => [((footOf q i e).outAt, (footOf q i e).outSize)]

/-- The extents in T1 and T2 of every descriptor that runs, and of an NBU's whose OUT is not all in the banks. -/
def abandonedExts (s : State) : List (Nat × Nat) :=
  (s.queues.flatMap (fun x => x.2.entries.flatMap (fun e =>
    match e.st with
    | .running _ => outExts s x.1 0 e
    | .finished _ => if qClass x.1 = 8 then outExts s x.1 0 e else []
    | _ => []))).filter (fun p => inNode p.1 && !(inT0 p.1) && withinTier s p.1 p.2)

/-- The `k`-th extent holds a mixture of old and new data in units of 64 bytes (R453): each unit keeps its bytes or takes new
ones, which of the two is free, and so are the new bytes (log 86). -/
def spoil (c : Nat) : List Host.Cell → List (Nat × Nat) → List Host.Cell
  | m, [] => m
  | m, x :: r =>
    spoil (c + 1) ((pieces x.1 x.2).foldl (fun m p =>
      if Config.pick c (p.1 / 64) % 2 = 0 then m
      else cellsSet m p.1 ((List.range p.2).map (fun k => Config.freeByte c (p.1 - x.1 + k)))) m) r

/-! ## T1 and T2 at a WARM reset -/

/-- Lines that caches held Modified when the interior stopped: in T1 and T2 each may or may not have reached its tier
(R453). -/
def strayLines (s : State) : List (Nat × List Byte) :=
  ((s.caches.map (fun g => g.2.filterMap (fun e => if e.2.modified then some (e.1, e.2.data) else none))).flatten)

/-- The code regions are released: each is written with zeros (R454, R473). -/
def releaseAll (s : State) : State :=
  (s.sec.regions.filter (fun e => e.2.units != 0)).foldl (fun s e => zeroRange s e.2.base (e.2.units * 65536)) s

/-- T1 and T2 as a WARM reset keeps them. -/
def warmMem (s : State) : Memory :=
  let ext := abandonedExts s
  let l := strayLines s
  let cells := (List.range l.length).foldl (fun m k =>
    match l[k]? with
    | some (line, d) => if Config.pick s.choice k % 2 = 1 then cellsSet m (line * 64) d else m
    | none => m) s.mem.cells
  let m := (releaseAll { s with mem := { s.mem with cells := spoil (s.choice + 5) cells ext }, caches := [], dir := {} }).mem
  { cells := m.cells.filter (fun c => !(inT0 c.1)), ce := m.ce.filter (fun c => !(inT0 c)),
    ue := m.ue.filter (fun c => !(inT0 c)), retiredCh := m.retiredCh, lostCh := m.lostCh, rewritten := m.rewritten }

end Sys2Proof.Machine
end

