-- ==== Sys2Proof/Machine/Bundle.lean ====
section
/-!
DEFINITION. Chapter 21: key slots, bundles and their signatures (R466 to R470).
-/
namespace Sys2Proof.Machine
open Sys2Proof

/-! ## Results of the loader (R479) -/

def rOk : Nat := 0x00
def rBadFormat : Nat := 0x01
def rHash : Nat := 0x02
def rEcdsaFail : Nat := 0x03
def rLmsFail : Nat := 0x04
def rNoKey : Nat := 0x05
def rNotPermitted : Nat := 0x06
def rRollback : Nat := 0x07
def rRegion : Nat := 0x08
def rInUse : Nat := 0x09
def rExhausted : Nat := 0x0A
def rBadAddr : Nat := 0x0B

/-! ## Key slots (R467): 0 to 7 the owner's, 8 and 9 the vendor's -/

/-- A slot as it is fused: an owner slot empty, a vendor slot with its key (log 9). -/
def slotFused (k : Nat) : KeySlot :=
  if k < 8 then {} else { hash := Config.vendorKey (k - 8), programmed := true, perms := 0b0110 }

def slotOf (s : State) (k : Nat) : KeySlot := tget s.sec.slots (slotFused k) k

def updSlot (s : State) (k : Nat) (f : KeySlot → KeySlot) : State :=
  { s with sec := { s.sec with slots := tmod s.sec.slots (slotFused k) k f } }

def slotLive (x : KeySlot) : Bool := x.programmed && !x.revoked

/-! ## The header and the signer block (R468) -/

structure BHead where
  kind : Nat
  format : Nat
  version : BitVec 16
  svn : BitVec 16
  setFloor : Bool
  psize : Nat
  target : Nat
  entry : Nat
  hash : BitVec 384
  reserved : Bool

/-- A header from its 128 bytes. -/
def bhead (l : List Byte) : BHead :=
  let ws := bytesWords l
  let w := fun (k : Nat) => ws.getD k 0
  { kind := fld (w 0) 15 8, format := fld (w 0) 7 0, version := (w 1 >>> 48).setWidth 16, svn := (w 1 >>> 32).setWidth 16,
    setFloor := bitAt (w 1) 0, psize := fld (w 2) 39 0, target := fld (w 3) 63 32, entry := fld (w 3) 31 0,
    hash := BitVec.ofNat 384 (leNat ((l.drop 32).take 48)),
    reserved := (w 0 &&& mask 63 16) != 0 || (w 1 &&& mask 31 1) != 0 || (w 2 &&& mask 63 40) != 0
      || ((List.range 6).any (fun k => w (10 + k) != 0)) }

/-- The header is as R468 states, for a kind among `kinds`; reserved bits count as part of it (DEDUCED, log 58). -/
def bheadOk (h : BHead) (kinds : List Nat) : Bool :=
  h.format = 1 && kinds.contains h.kind && !h.reserved && 64 ≤ h.psize && h.psize ≤ 2 ^ 30 && h.psize % 64 = 0
    && (if h.kind = 3 then h.target / 2 ^ 26 % 4 = 0 && h.target % 2 ^ 16 = 0 else h.target = 0)
    && (if h.kind = 1 then h.entry % 4 = 0 && decide (h.entry < h.psize) else h.entry = 0)

/-- The signer block: its keys, its signatures, and whether its sizes are right. -/
structure Signer where
  ecKey : List Byte
  hssKey : List Byte
  ecSig : List Byte
  hssSig : List Byte
  ok : Bool

/-- Bytes of the block before the HSS signature. -/
def signerFixed : Nat := 328

def signerOf (l : List Byte) : Signer :=
  let w := bytesWord ((l.drop 320).take 8)
  let n := fld w 31 0
  { ecKey := l.take 97, hssKey := (l.drop 128).take 60, ecSig := (l.drop 192).take 96, hssSig := (l.drop 328).take n,
    ok := n ≤ 16384 && fld w 63 32 = 0 && signerFixed + n ≤ l.length }

def signerHash (g : Signer) : BitVec 384 := Config.sha384 (g.ecKey ++ g.hssKey)

/-! The limits that condition 4 of R470 sets on an HSS key and signature. Where they hold L, the types and the levels is taken
from the standard of HSS (PRESUMED, log 16). -/

/-- Big-endian bytes as a number. -/
def beNat (l : List Byte) : Nat := leNat l.reverse

/-- The height of an LMS type: H5 to H25, with SHA-256 and n of 32. -/
def lmsHeight (t : Nat) : Option Nat := if 5 ≤ t && t ≤ 9 then some (5 * (t - 4)) else none

/-- The chains of an LMOTS type: W1 to W8, with SHA-256 and n of 32. -/
def otsChains : Nat → Option Nat
  | 1 => some 265 | 2 => some 133 | 3 => some 67 | 4 => some 34 | _ => none

/-- One level's key and signature after another, `n` more below this one. -/
def hssLevels : Nat → List Byte → List Byte → Bool
  | n, key, sig =>
    match lmsHeight (beNat (key.take 4)), otsChains (beNat ((key.drop 4).take 4)) with
    | some h, some p =>
      let len := 12 + 32 * (1 + p + h)
      match n with
      | 0 => sig.length = len
      | m + 1 => hssLevels m ((sig.drop len).take 56) (sig.drop (len + 56))
    | _, _ => false

/-- L from 1 to 3 in the key, as many levels in the signature, each of a permitted type. -/
def hssLimits (key sig : List Byte) : Bool :=
  let l := beNat (key.take 4)
  1 ≤ l && l ≤ 3 && beNat (sig.take 4) + 1 = l && hssLevels (l - 1) (key.drop 4) (sig.drop 4)

/-- Conditions 3 and 4 of R470 over the 128 bytes of a header. -/
def signatures (g : Signer) (head : List Byte) : Nat :=
  if !(Config.ecdsaOk g.ecKey head g.ecSig) then rEcdsaFail
  else if !(hssLimits g.hssKey g.hssSig && Config.hssOk g.hssKey head g.hssSig) then rLmsFail
  else rOk

/-- Condition 2 of R470: a live slot with the signer's hash that `permit` allows. -/
def findSlot (s : State) (g : Signer) (permit : Nat → KeySlot → Bool) : Nat × Nat :=
  let l := (List.range 10).filter (fun k => slotLive (slotOf s k) && (slotOf s k).hash = signerHash g)
  match l.find? (fun k => permit k (slotOf s k)) with
  | some k => (rOk, k)
  | none => (if l.isEmpty then rNoKey else rNotPermitted, 0)

/-- Conditions 2 to 4 of R470: the first that fails, and the slot. -/
def signedBy (s : State) (head : List Byte) (g : Signer) (permit : Nat → KeySlot → Bool) : Nat × Nat :=
  let f := findSlot s g permit
  if f.1 != rOk then f else (signatures g head, f.2)

/-! ## Kinds (R469) -/

def bundleKinds : List Nat := [1, 2, 3, 4, 5]

/-- The signers a kind permits, given the payload's first word. -/
def kindPermits (kind : Nat) (w : Word) (k : Nat) (x : KeySlot) : Bool :=
  let owner := decide (k < 8)
  let p := fun (i : Nat) => x.perms.toNat.testBit i
  match kind with
  | 1 => owner && p 0
  | 2 => !owner || p 1
  | 3 => !owner || p 2
  | 4 => owner && p 3
  | 5 => if bitAt w 3 then !owner && k != 8 + fld w 2 0 else owner && p 3
  | _ => false

/-- A bundle's parts, cut from its bytes. -/
structure Bundle where
  head : List Byte
  h : BHead
  payload : List Byte
  signer : Signer

def bundleOf (l : List Byte) : Bundle :=
  let h := bhead (l.take 128)
  { head := l.take 128, h := h, payload := (l.drop 128).take h.psize, signer := signerOf (l.drop (128 + h.psize)) }

/-- R470: its conditions 1 to 5 in their order. -/
def acceptable (s : State) (b : Bundle) : Nat × Nat :=
  if !(bheadOk b.h bundleKinds) || !b.signer.ok then (rBadFormat, 0)
  else
    let r := signedBy s b.head b.signer (kindPermits b.h.kind (bytesWord (b.payload.take 8)))
    if r.1 != rOk then r
    else if b.h.svn.toNat < tget s.sec.floors 0 b.h.kind then (rRollback, r.2)
    else r

/-- Steps 3 and 4 of R472: the hash of the payload's copy, then R470. -/
def checkBundle (s : State) (b : Bundle) : Nat × Nat :=
  if Config.sha384 b.payload != b.h.hash then (rHash, 0) else acceptable s b

/-! ## Calibration overlays in force (R450, R456, R462) -/

/-- A unit takes the overlay that the loader holds for it: at its RELOAD, or as its link or stack is recalibrated. What the
values of an overlay change is not stated (log 82). -/
def applyOverlay (s : State) (cls u : Nat) : State :=
  let t := cls * 2 ^ 28 + u * 2 ^ 16
  match s.sec.overlays.find? (fun o => o.target = t) with
  | some o => { s with sec := { s.sec with active := tset s.sec.active t o } }
  | none => s

end Sys2Proof.Machine
end

