-- ==== Sys2Proof/Machine/Mailbox.lean ====
section
/-!
DEFINITION. Chapter 15: the mailboxes (R350 to R359).
-/
namespace Sys2Proof.Machine
open Sys2Proof

def mbxOf (s : State) (m : Nat) : Mbx := tget s.mbx {} m

def updMbx (s : State) (m : Nat) (f : Mbx → Mbx) : State := { s with mbx := tmod s.mbx {} m f }

/-! ## Accessors (R351) -/

/-- The accessor's number. -/
def accNumber : Acc → Nat
  | .seq n => n.val + 1
  | .vf .a v => 65 + v.val
  | .vf .b v => 97 + v.val
  | .pf .a => 129
  | .pf .b => 130

def hostOf (s : State) (p : HostPort) : HostSt := tget s.host {} (portNum p)

def updHost (s : State) (p : HostPort) (f : HostSt → HostSt) : State := { s with host := tmod s.host {} (portNum p) f }

/-- HST_VF_CFG of VF `v` + 1 of a port. -/
def vfCfg (s : State) (p : HostPort) (v : Fin 32) : Word := tget (hostOf s p).vf 0 v.val

/-- A virtual function of a ready node whose port is not lost is enabled (R362). -/
def vfOk (s : State) (p : HostPort) (v : Fin 32) : Bool := s.boot.ready && !(hostLost s p) && bitAt (vfCfg s p v) 12

/-- The accessor reaches the mailbox window (R363, R494). -/
def mbxReach (s : State) (a : Acc) : Bool :=
  match a with
  | .vf p v => vfOk s p v
  | a => accOk s a

/-- The tenant of an accessor, none for a physical function. -/
def accTenant (s : State) (a : Acc) : Option Nat :=
  match a with
  | .seq n => some (seqOf s n).tenant.toNat
  | .vf p v => some (fld (vfCfg s p v) 11 0)
  | .pf _ => none

/-- The access passes the tenant check. -/
def mbxTenant (s : State) (a : Acc) (m : Nat) : Bool :=
  match accTenant s a with
  | some t => t = fld (mbxOf s m).cfg 43 32
  | none => true

/-- An access that changes a mailbox: `f` where the tenant check passes. -/
def mbxDo (s : State) (a : Acc) (m : Nat) (f : State → State) : State :=
  let s := accDrain s a
  if mbxTenant s a m then f s else mbxFlag s m 7

/-! ## Events (R357, R359) -/

def mbxCount (s : State) (m k : Nat) : State := ctrAdd s (0x9400 + m * 8 + k) 1

/-- The interrupt of bit `i` of MBX_CFG.IRQ, to the function and vector of HST_MBX_ROUTE (R371). -/
def mbxIrq (s : State) (m i : Nat) : State :=
  let c := (mbxOf s m).cfg
  if bitAt c i then
    let p := if bitAt c 8 then HostPort.b else HostPort.a
    let r := tget (hostOf s p).route 0 m
    raiseIrq s p (fld r 15 8) (fld r 5 0)
  else s

/-! ## The Cleat (R353, R354) -/

/-- A claim: the value read, and the state after it. -/
def cleatRead (s : State) (a : Acc) (m : Nat) : Word × State :=
  let o := (mbxOf s m).owner
  if o = 0 then (0, updMbx s m (fun x => { x with owner := accNumber a })) else (put o 0, s)

def cleatWrite (s : State) (a : Acc) (m : Nat) (v : Word) : State :=
  let o := (mbxOf s m).owner
  let free := fld v 7 0 = 0
  if free && isPF a then mbxFlag (updMbx s m (fun x => { x with owner := 0 })) m 9
  else if free && o = accNumber a then updMbx s m (fun x => { x with owner := 0 })
  else mbxFlag s m 8

/-! ## The channel (R355) -/

def mbxDepth : Nat := 16

def pushAB (s : State) (m : Nat) (v : Word) : State :=
  let l := (mbxOf s m).ab
  if l.length ≥ mbxDepth then mbxFlag s m 0
  else
    let s := mbxCount (updMbx s m (fun x => { x with ab := x.ab ++ [v] })) m 0
    if l.isEmpty then mbxIrq s m 5 else s

def pushBA (s : State) (m : Nat) (v : Word) : State :=
  let l := (mbxOf s m).ba
  if l.length ≥ mbxDepth then mbxFlag s m 1
  else
    let s := mbxCount (updMbx s m (fun x => { x with ba := x.ba ++ [v] })) m 2
    if l.isEmpty then mbxIrq s m 1 else s

def popAB (s : State) (m : Nat) : Word × State :=
  let l := (mbxOf s m).ab
  match l with
  | [] => (0, mbxFlag s m 2)
  | v :: r =>
    let s := mbxCount (updMbx s m (fun x => { x with ab := r })) m 1
    (v, if l.length ≥ mbxDepth then mbxIrq s m 0 else s)

def popBA (s : State) (m : Nat) : Word × State :=
  let l := (mbxOf s m).ba
  match l with
  | [] => (0, mbxFlag s m 3)
  | v :: r =>
    let s := mbxCount (updMbx s m (fun x => { x with ba := r })) m 3
    (v, if l.length ≥ mbxDepth then mbxIrq s m 4 else s)

/-! ## Doorbells (R356) -/

def ringAB (s : State) (m : Nat) (v : Word) : State :=
  let x := mbxOf s m
  if x.pendAB || x.doneAB then mbxFlag s m 4
  else mbxIrq (mbxCount (updMbx s m (fun x => { x with dbAB := v.setWidth 32, pendAB := true })) m 4) m 7

def ringBA (s : State) (m : Nat) (v : Word) : State :=
  let x := mbxOf s m
  if x.pendBA || x.doneBA then mbxFlag s m 5
  else mbxIrq (mbxCount (updMbx s m (fun x => { x with dbBA := v.setWidth 32, pendBA := true })) m 6) m 3

/-- Every write acknowledges, with a code of 0 too, as the worked example of the chapter does (log 41). -/
def ackAB (s : State) (m : Nat) (v : Word) : State :=
  if (mbxOf s m).pendAB then
    mbxIrq (mbxCount (updMbx s m (fun x => { x with
      codeAB := BitVec.ofNat 16 (fld v 47 32), doneAB := true, pendAB := false })) m 5) m 2
  else mbxFlag s m 4

def ackBA (s : State) (m : Nat) (v : Word) : State :=
  if (mbxOf s m).pendBA then
    mbxIrq (mbxCount (updMbx s m (fun x => { x with
      codeBA := BitVec.ofNat 16 (fld v 47 32), doneBA := true, pendBA := false })) m 7) m 6
  else mbxFlag s m 5

def collectAB (s : State) (m : Nat) : Word × State :=
  let x := mbxOf s m
  (put (bit x.doneAB) 16 ||| put x.codeAB.toNat 0, updMbx s m (fun x => { x with doneAB := false }))

def collectBA (s : State) (m : Nat) : Word × State :=
  let x := mbxOf s m
  (put (bit x.doneBA) 16 ||| put x.codeBA.toNat 0, updMbx s m (fun x => { x with doneBA := false }))

/-! ## Registers (R350) -/

def mbxCfgMask : Word := mask 43 32 ||| mask 8 0

/-- MBX_CFG takes writes of physical functions only. -/
def cfgWrite (s : State) (a : Acc) (m : Nat) (v : Word) : State :=
  if isPF a then updMbx s m (fun x => { x with cfg := v &&& mbxCfgMask })
  else
    let s := mbxFlag (accDrain s a) m 6
    if mbxTenant s a m then s else mbxFlag s m 7

def rdMbxStatus (s : State) (m : Nat) : Word :=
  let x := mbxOf s m
  put x.ba.length 40 ||| put x.ab.length 35 ||| put (bit (decide (x.ba.length ≥ mbxDepth))) 34
    ||| put (bit (decide (x.ab.length ≥ mbxDepth))) 33 ||| x.sticky

/-- The value of a register that a read leaves as it is. -/
def mbxPlain (s : State) (m off : Nat) : Word :=
  let x := mbxOf s m
  match off with
  | 0x00 => x.cfg
  | 0x30 => put (bit x.pendAB) 32 ||| put x.dbAB.toNat 0
  | 0x40 => put (bit x.pendBA) 32 ||| put x.dbBA.toNat 0
  | 0x50 => rdMbxStatus s m
  | _ => 0

/-- A read of the register at an offset of mailbox `m`. -/
def mbxRead (s : State) (a : Acc) (m off : Nat) : Word × State :=
  let s := accDrain s a
  if !(mbxTenant s a m) then (0, mbxFlag s m 7)
  else
    match off with
    | 0x08 => cleatRead s a m
    | 0x18 => popAB s m
    | 0x28 => popBA s m
    | 0x38 => collectAB s m
    | 0x48 => collectBA s m
    | _ => (mbxPlain s m off, s)

def mbxStatusWrite (s : State) (m : Nat) (v : Word) : State :=
  updMbx s m (fun x => { x with sticky := w1c x.sticky v (mask 9 0) })

/-- A write of the register at an offset of mailbox `m`; one to an RX register does nothing, but is checked (R351). -/
def mbxWrite (s : State) (a : Acc) (m off : Nat) (v : Word) : State :=
  match off with
  | 0x00 => cfgWrite s a m v
  | 0x08 => mbxDo s a m (fun s => cleatWrite s a m v)
  | 0x10 => mbxDo s a m (fun s => pushAB s m v)
  | 0x20 => mbxDo s a m (fun s => pushBA s m v)
  | 0x30 => mbxDo s a m (fun s => ringAB s m v)
  | 0x38 => mbxDo s a m (fun s => ackAB s m v)
  | 0x40 => mbxDo s a m (fun s => ringBA s m v)
  | 0x48 => mbxDo s a m (fun s => ackBA s m v)
  | 0x50 => mbxDo s a m (fun s => mbxStatusWrite s m v)
  | 0x18 => mbxDo s a m (fun s => s)
  | 0x28 => mbxDo s a m (fun s => s)
  | _ => s

/-! ## Commands -/

/-- The address of a mailbox register. -/
def mbxAddr (m off : Nat) : Nat := csrBase + 0x80000 + m * 0x100 + off

/-- A read through the mailbox window, answered to its accessor. -/
def mbxReadCmd (s : State) (a : Acc) (m off : Nat) : State :=
  if mbxReach s a then
    let r := mbxRead s a m off
    emit r.2 (.csrValue a (mbxAddr m off) r.1)
  else refuseRead s a

def mbxWriteCmd (s : State) (a : Acc) (m off : Nat) (v : Word) : State :=
  if mbxReach s a then mbxWrite s a m off v else s

def execCleatClaim (a : Acc) (m : Fin 64) (s : State) : Ans := .next (mbxReadCmd s a m.val 0x08)
def execCleatWrite (a : Acc) (m : Fin 64) (v : Word) (s : State) : Ans := .next (mbxWriteCmd s a m.val 0x08 v)
def execMbxATx (a : Acc) (m : Fin 64) (v : Word) (s : State) : Ans := .next (mbxWriteCmd s a m.val 0x10 v)
def execMbxBTx (a : Acc) (m : Fin 64) (v : Word) (s : State) : Ans := .next (mbxWriteCmd s a m.val 0x20 v)
def execMbxBRx (a : Acc) (m : Fin 64) (s : State) : Ans := .next (mbxReadCmd s a m.val 0x18)
def execMbxARx (a : Acc) (m : Fin 64) (s : State) : Ans := .next (mbxReadCmd s a m.val 0x28)
def execMbxDbAb (a : Acc) (m : Fin 64) (v : Word) (s : State) : Ans := .next (mbxWriteCmd s a m.val 0x30 v)
def execMbxDbBa (a : Acc) (m : Fin 64) (v : Word) (s : State) : Ans := .next (mbxWriteCmd s a m.val 0x40 v)
def execAckAbPost (a : Acc) (m : Fin 64) (v : Word) (s : State) : Ans := .next (mbxWriteCmd s a m.val 0x38 v)
def execAckBaPost (a : Acc) (m : Fin 64) (v : Word) (s : State) : Ans := .next (mbxWriteCmd s a m.val 0x48 v)
def execAckAbCollect (a : Acc) (m : Fin 64) (s : State) : Ans := .next (mbxReadCmd s a m.val 0x38)
def execAckBaCollect (a : Acc) (m : Fin 64) (s : State) : Ans := .next (mbxReadCmd s a m.val 0x48)
def execMbxCfgWrite (a : Acc) (m : Fin 64) (v : Word) (s : State) : Ans := .next (mbxWriteCmd s a m.val 0x00 v)

end Sys2Proof.Machine
end

