-- ==== Sys2Proof/Machine/Rings.lean ====
section
/-!
DEFINITION. Chapter 16: ring pairs, the loss and return of a port, takeover (R366 to R375, R377).
-/
namespace Sys2Proof.Machine
open Sys2Proof

/-! ## Ring pairs -/

/-- Ring pair `k` of the window of port `p`. -/
def ringOf (s : State) (p : HostPort) (k : Nat) : Ring := tget (hostOf s p).rings { owner := p } k

def updRing (s : State) (p : HostPort) (k : Nat) (f : Ring → Ring) : State :=
  updHost s p (fun h => { h with rings := tmod h.rings { owner := p } k f })

/-- A LOG2 field: 4 to 12, others taken as 4. -/
def ringLog (n : Nat) : Nat := if 4 ≤ n && n ≤ 12 then n else 4

def sqLen (r : Ring) : Nat := 2 ^ ringLog (fld r.cfg 11 8)
def cqLen (r : Ring) : Nat := 2 ^ ringLog (fld r.cfg 15 12)
def ringOn (r : Ring) : Bool := bitAt r.cfg 0
def ringFunc (r : Ring) : Nat := fld r.cfg 47 40

/-- The function and port of an accessor. -/
def accFunc : Acc → Option (HostPort × Nat)
  | .seq _ => none
  | .pf p => some (p, 0)
  | .vf p v => some (p, v.val + 1)

/-- The accessor is the function that owns the ring pair, at its port. -/
def ownsRing (r : Ring) (a : Acc) : Bool := accFunc a = some (r.owner, ringFunc r)

/-- A doorbell of window `p` is within the accessor's reach (R363, R494). -/
def doorReach (s : State) (a : Acc) (p : HostPort) : Bool :=
  match a with
  | .vf q v => q = p && vfOk s q v
  | a => accOk s a

/-- Distance from one 16-bit index to another. -/
def dist16 (t h : BitVec 16) : Nat := (t - h).toNat

/-- The SQ doorbell (R367). -/
def sqDoorbell (s : State) (a : Acc) (p : HostPort) (k : Nat) (v : Word) : State :=
  let r := ringOf s p k
  let t := v.setWidth 16
  if ownsRing r a && ringOn r && dist16 t r.sqHead ≤ sqLen r && dist16 t r.sqTail ≤ sqLen r then
    if dist16 r.fetch r.sqTail ≤ dist16 t r.sqTail then
      updRing s p k (fun r => { r with fetch := t, fetchAt := if r.fetch = r.sqTail then s.tb.time else r.fetchAt })
    else s
  else hostFlag s p 0

/-- SQ_DOORBELL. -/
def execSqDoorbell (a : Acc) (p : HostPort) (k : Fin 64) (v : Word) (s : State) : Ans :=
  .next (if doorReach s a p then sqDoorbell (accDrain s a) a p k.val v else s)

/-- The agent of a host port (R332), and who it is in records. -/
def portWho (p : HostPort) : Who := { cls := 0xC, unit := portNum p, agent := 144 + portNum p }

/-- SQ_ENTRY_MIRROR (R367): the next fetched entry goes to its mirror slot. -/
def execSqEntryMirror (p : HostPort) (k : Fin 64) (data : BitVec 512) (s : State) : Ans :=
  .next (
    let r := ringOf s p k.val
    if r.fetch = r.sqTail || !(ringOn r) || hostLost s r.owner then s
    else
      let a := r.mirror.toNat + r.sqTail.toNat % sqLen r * 64
      let s := (nodeWrite s (portWho r.owner) a (leBytes 64 data.toNat)).2
      let s := ctrAdd s (0x9200 + portNum p * 0x80 + k.val) 1
      updRing s p k.val (fun r => { r with sqTail := r.sqTail + 1, fetchAt := s.tb.time }))

def ringErr (s : State) (p : HostPort) (k : Nat) : State := updRing s p k (fun r => { r with cfg := stick r.cfg 1 })

/-- A write of SQ_HEAD (R368). -/
def wrSqHead (s : State) (p : HostPort) (k : Nat) (v : Word) : State :=
  let r := ringOf s p k
  let h := v.setWidth 16
  if dist16 h r.sqHead ≤ dist16 r.sqTail r.sqHead then updRing s p k (fun r => { r with sqHead := h }) else ringErr s p k

/-- A write of CQ_TAIL (R368). -/
def wrCqTail (s : State) (p : HostPort) (k : Nat) (v : Word) : State :=
  let r := ringOf s p k
  let c := v.setWidth 16
  if dist16 c r.posted ≤ cqLen r then updRing s p k (fun r => { r with cqTail := c }) else ringErr s p k

def execSqHeadWrite (a : Acc) (p : HostPort) (k : Fin 64) (v : Word) (s : State) : Ans :=
  .next (accDo s a (fun s => wrSqHead s p k.val v))
def execCqTailWrite (a : Acc) (p : HostPort) (k : Fin 64) (v : Word) (s : State) : Ans :=
  .next (accDo s a (fun s => wrCqTail s p k.val v))

/-- The ring pair's vector is sent, and covers every posting so far (R370). -/
def ringIrq (s : State) (p : HostPort) (k : Nat) : State :=
  let r := ringOf s p k
  raiseIrq (updRing s p k (fun r => { r with uncovered := 0 })) r.owner (ringFunc r) (fld r.cfg 37 32)

/-- The entry with index `i` was posted: the counts, and the interrupt that is due at once. -/
def posted (s : State) (p : HostPort) (k : Nat) : State :=
  let s := ctrAdd s (0x9240 + portNum p * 0x80 + k) 1
  let s := updRing s p k (fun r => { r with
    posted := r.posted + 1, uncovered := r.uncovered + 1, firstAt := if r.uncovered = 0 then s.tb.time else r.firstAt })
  let r := ringOf s p k
  let n := fld r.cfg 23 16
  if n != 0 && (r.uncovered ≥ n || fld r.cfg 31 24 = 0) then ringIrq s p k else s

/-- CQ_POST (R369). -/
def execCqPost (p : HostPort) (k : Fin 64) (s : State) : Ans :=
  .next (
    let k := k.val
    let r := ringOf s p k
    let m := cqLen r
    if r.posted = r.cqTail || !(ringOn r) || hostLost s r.owner then s
    else if dist16 r.posted r.cqHead ≥ m then updRing s p k (fun r => { r with cfg := stick r.cfg 2 })
    else
      let i := r.posted.toNat
      let x := nodeRead s (portWho r.owner) (r.stage.toNat + i % m * 64) 56
      if !x.ok then x.s
      else
        let w7 := put r.sqHead.toNat 48 ||| put (bit (i / m % 2 = 0)) 0
        posted (emit x.s (.hostPost r.owner (r.cqBase.toNat + i % m * 64) (x.data ++ wordBytes w7))) p k)

/-- The CQ doorbell: the conditions of R367 with CQ_HEAD and CQ_POSTED for SQ_HEAD and SQ_TAIL (R369, log 42). -/
def cqDoorbell (s : State) (a : Acc) (p : HostPort) (k : Nat) (v : Word) : State :=
  let r := ringOf s p k
  let t := v.setWidth 16
  if ownsRing r a && ringOn r && dist16 t r.cqHead ≤ cqLen r && dist16 t r.posted ≤ cqLen r then
    updRing s p k (fun r => { r with cqHead := t })
  else hostFlag s p 0

/-- CQ_DOORBELL. -/
def execCqDoorbell (a : Acc) (p : HostPort) (k : Fin 64) (v : Word) (s : State) : Ans :=
  .next (if doorReach s a p then cqDoorbell (accDrain s a) a p k.val v else s)

/-- COAL_TIMER (R370). -/
def execCoalTimer (p : HostPort) (k : Fin 64) (s : State) : Ans :=
  .next (
    let r := ringOf s p k.val
    if r.uncovered != 0 && fld r.cfg 23 16 != 0 && decide (r.firstAt.toNat + fld r.cfg 31 24 * 1000 ≤ now s) then
      ringIrq s p k.val
    else s)

/-! ## Configuration (R377) -/

/-- An extent of a ring buffer lies in T0. -/
def ringT0 (a n : Nat) : Bool := a + n ≤ t0Size

/-- An extent of host bus addresses lies in mapped segments of a port's window table. -/
def busMapped (s : State) (p : HostPort) (a n : Nat) : Bool :=
  a + n ≤ 2 ^ 44 && (List.range ((a + n - 1) / 2 ^ 30 - a / 2 ^ 30 + 1)).all (fun i => segMapped s p (a / 2 ^ 30 + i))

/-- The buffers of a ring pair with configuration `c` may be used. -/
def ringBufsOk (s : State) (r : Ring) (c : Word) : Bool :=
  let q := { r with cfg := c }
  ringT0 r.mirror.toNat (sqLen q * 64) && ringT0 r.stage.toNat (cqLen q * 64)
    && busMapped s r.owner r.sqBase.toNat (sqLen q * 64) && busMapped s r.owner r.cqBase.toNat (cqLen q * 64)

def rpMask : Word := mask 47 40 ||| mask 38 8 ||| mask 0 0

/-- A write of RP_CFG. -/
def wrRpCfg (s : State) (p : HostPort) (k : Nat) (v : Word) : State :=
  let r := ringOf s p k
  let on := ringOn r
  if (on && fld v 15 8 != fld r.cfg 15 8) || (bitAt v 0 && !on && !(ringBufsOk s r v)) then ringErr s p k
  else
    let c := (v &&& rpMask) ||| w1c (r.cfg &&& mask 2 1) v (mask 2 1)
    if bitAt v 0 && !on then
      updRing s p k (fun r => { r with
        cfg := c, sqTail := 0, sqHead := 0, cqTail := 0, cqHead := 0, posted := 0, fetch := 0, uncovered := 0 })
    else updRing s p k (fun r => { r with cfg := c })

def execRpCfgWrite (a : Acc) (p : HostPort) (k : Fin 64) (v : Word) (s : State) : Ans :=
  .next (accDo s a (fun s => wrRpCfg s p k.val v))

/-- A write of a base while the pair is in service is ignored and sets RING_ERR. -/
def wrRingBase (s : State) (p : HostPort) (k : Nat) (f : Ring → Ring) : State :=
  if ringOn (ringOf s p k) then ringErr s p k else updRing s p k f

def busMask : Word := mask 63 6
def t0Mask : Word := mask 55 6

def rdRpCfg (r : Ring) : Word := r.cfg ||| put (portNum r.owner) 39

def rdRpPtrs (r : Ring) : Word := put r.sqTail.toNat 48 ||| put r.cqHead.toNat 32 ||| put r.posted.toNat 16

/-- A register of a ring pair by its offset. -/
def rdRing (s : State) (p : HostPort) (k off : Nat) : Word :=
  let r := ringOf s p k
  match off with
  | 0x00 => rdRpCfg r
  | 0x08 => r.sqBase
  | 0x10 => r.mirror
  | 0x18 => r.cqBase
  | 0x20 => r.stage
  | 0x28 => r.sqHead.setWidth 64
  | 0x30 => r.cqTail.setWidth 64
  | 0x38 => rdRpPtrs r
  | _ => 0

def wrRing (s : State) (p : HostPort) (k off : Nat) (v : Word) : State :=
  match off with
  | 0x00 => wrRpCfg s p k v
  | 0x08 => wrRingBase s p k (fun r => { r with sqBase := v &&& busMask })
  | 0x10 => wrRingBase s p k (fun r => { r with mirror := v &&& t0Mask })
  | 0x18 => wrRingBase s p k (fun r => { r with cqBase := v &&& busMask })
  | 0x20 => wrRingBase s p k (fun r => { r with stage := v &&& t0Mask })
  | 0x28 => wrSqHead s p k v
  | 0x30 => wrCqTail s p k v
  | _ => s

/-! ## Interrupts (R371) -/

/-- An event of port `p`: counted, and vector 0 of each physical function whose port says so. -/
def portEvent (s : State) (p : HostPort) : State :=
  let s := ctrAdd s (0x9300 + portNum p) 1
  [HostPort.a, HostPort.b].foldl (fun s q => if bitAt (hostOf s q).ctl 0 then raiseIrq s q 0 0 else s) s

/-- A write of HST_IRQ_TRIG (R371). The value 0 names vector 0 of the physical function, which is a vector as any other
(DEDUCED, log 23). -/
def wrIrqTrig (s : State) (p : HostPort) (v : Word) : State := raiseIrq s p (fld v 15 8) (fld v 5 0)

def execHstIrqTrig (a : Acc) (p : HostPort) (v : Word) (s : State) : Ans :=
  .next (accDo s a (fun s => wrIrqTrig s p v))

/-! ## Takeover (R374) -/

def otherPort : HostPort → HostPort
  | .a => .b
  | .b => .a

/-- Port `p` may take ring pair `k` of window `q`. -/
def mayTake (s : State) (p q : HostPort) (k : Nat) : Bool :=
  let r := ringOf s q k
  r.owner != p && ((hostOf s r.owner).lost || bitAt r.cfg 38)

/-- The pair moves to the physical function of port `p`. -/
def takeRing (s : State) (p q : HostPort) (k : Nat) : State :=
  updRing s q k (fun r => { r with
    owner := p, cfg := r.cfg &&& ~~~(mask 47 40 ||| mask 38 38 ||| mask 0 0), sqBase := 0, cqBase := 0, fetch := r.sqTail,
    uncovered := 0 })

/-- One bit of the mask: every pair of that number, of either window, that may move. -/
def takeBit (s : State) (p : HostPort) (k : Nat) : State :=
  let l := [HostPort.a, HostPort.b].filter (fun q => mayTake s p q k)
  if l.isEmpty then hostFlag s p 0 else l.foldl (fun s q => takeRing s p q k) s

def wrTakeover (s : State) (a : Acc) (p : HostPort) (v : Word) : State :=
  if a = .pf p then
    let bits := (List.range 64).filter (bitAt v)
    let any := bits.any (fun k => mayTake s p .a k || mayTake s p .b k)
    let s := bits.foldl (fun s k => takeBit s p k) s
    if any then portEvent s p else s
  else s

def execHstTakeover (a : Acc) (p : HostPort) (v : Word) (s : State) : Ans :=
  .next (accDo s a (fun s => wrTakeover s a p v))

/-! ## Ports (R372, R373, R375) -/

/-- A port is lost: its window fails, its rings stop, the node goes on. -/
def losePort (s : State) (p : HostPort) : State :=
  if hostLost s p then s
  else
    let s := hostFlag (portEvent s p) p 5
    let s := updHost s p (fun h => { h with lost := true, linkUp := false, width := 0, speed := 0, msix := [], pba := [] })
    let out := failOnWindow s p
    let s := if out = s then s else t3Loss out { cls := 0xC, unit := portNum p } p 0
    [HostPort.a, HostPort.b].foldl (fun s q => updHost s q (fun h => { h with
      rings := h.rings.map (fun e => if e.2.owner = p then (e.1, { e.2 with fetch := e.2.sqTail }) else e) })) s

/-- PORT_LOST: Data Link Down, a hot reset or a link disable. -/
def execPortLost (p : HostPort) (s : State) : Ans := .next (losePort s p)

/-- PERST_N_ASSERT (R506): as a hot reset. -/
def execPerstNAssert (p : HostPort) (s : State) : Ans := .next (losePort s p)

def linkWidthOk (n : Nat) : Bool := n = 1 || n = 2 || n = 4 || n = 8

/-- LINK_UP (R375, R449, R462): a new enumeration, or new figures of a link that is up; a retrained port takes its overlay. -/
def execLinkUp (p : HostPort) (width speed : BitVec 4) (s : State) : Ans :=
  .next (
    if !(linkWidthOk width.toNat) || speed = 0 || speed.toNat > 6 || !s.boot.alive || (hostOf s p).dead then s
    else
      let was := (hostOf s p).linkUp
      let s := updHost (applyOverlay s 0xC (portNum p)) p (fun h =>
        { h with lost := false, linkUp := true, width := width, speed := speed })
      if was then s else portEvent s p)

/-- Ring pair `k` of window `q` leaves service, a port event of `p` (R373). -/
def disableRing (s : State) (p q : HostPort) (k : Nat) (g : Ring → Ring) : State :=
  portEvent (updRing s q k (fun r => g { r with cfg := r.cfg &&& ~~~(mask 0 0), fetch := r.sqTail })) p

/-- Every ring pair in service that function `fn` of port `p` owns leaves service. -/
def disableOwned (s : State) (p : HostPort) (fn : Nat) (g : Ring → Ring) : State :=
  [HostPort.a, HostPort.b].foldl (fun s q =>
    (hostOf s q).rings.foldl (fun s e =>
      if ringOn e.2 && e.2.owner = p && ringFunc e.2 = fn then disableRing s p q e.1 g else s) s) s

/-- The running descriptors with an access to a window that may have waited CTO_MS, as queue and index. -/
def t3Running (s : State) (p : HostPort) : List (Nat × Word) := lateOn s p (windowBase p) (2 ^ 44)

/-- One of the accesses outstanding to a window times out: which is not the model's to say. -/
def failOne (s : State) (p : HostPort) : State :=
  let l := t3Running s p
  match l[Config.pick s.choice 0 % l.length]? with
  | some x => failAll (tick1 s) [x]
  | none => s

/-- An SQ fetch of ring pair `k` of window `q` by port `p` is outstanding and has waited CTO_MS. -/
def fetchLate (s : State) (p q : HostPort) (k : Nat) : Bool :=
  let r := ringOf s q k
  r.owner = p && ringOn r && r.fetch != r.sqTail && ctoDue s p r.fetchAt

/-- CTO (R373): a read of host memory that is outstanding has not completed within CTO_MS, a node read or the SQ fetch of a
ring pair of the port. -/
def execCto (p : HostPort) (ring : Option (Fin 64)) (s : State) : Ans :=
  .next (
    let late := match ring with
      | none => !(t3Running s p).isEmpty
      | some k => fetchLate s p .a k.val || fetchLate s p .b k.val
    if hostLost s p || !late then s
    else
      let s := t3Loss (hostFlag s p 3) (portWho p) p 1
      match ring with
      | none => failOne s p
      | some k =>
        [HostPort.a, HostPort.b].foldl (fun s q =>
          if fetchLate s p q k.val then disableRing s p q k.val id else s) s)

/-- FLR (R373): of the physical function, or of VF `fn` + 1. -/
def execFlr (p : HostPort) (fn : Option (Fin 32)) (s : State) : Ans :=
  .next (
    if hostLost s p then s
    else
      let s := portEvent (hostFlag s p 4) p
      let own := match fn with | none => 0 | some v => v.val + 1
      let s := updHost s p (fun h => { h with
        msix := h.msix.filter (fun e => e.1 / 64 != own), pba := h.pba.filter (fun k => k / 64 != own) })
      match fn with
      | none => s
      | some v =>
        disableOwned s p (v.val + 1) (fun r => { r with cqTail := r.posted, uncovered := 0 }))

/-- POISONED_TLP (R361): dropped, and noted as a CTO event. -/
def execPoisonedTlp (p : HostPort) (s : State) : Ans := .next (if hostLost s p then s else hostFlag s p 3)

/-! ## Port registers (R377) -/

def rdHstStatus (s : State) (p : HostPort) : Word :=
  let h := hostOf s p
  put h.width.toNat 44 ||| put h.speed.toNat 40 ||| put (bit h.linkUp) 32 ||| h.sticky

def wrHstStatus (s : State) (p : HostPort) (v : Word) : State :=
  updHost s p (fun h => { h with sticky := w1c h.sticky v (mask 5 0) })

def wrHstCtl (s : State) (p : HostPort) (v : Word) : State :=
  updHost s p (fun h => { h with ctl := v &&& (mask 47 40 ||| mask 0 0) })

def wrVfCfg (s : State) (p : HostPort) (k : Nat) (v : Word) : State :=
  updHost s p (fun h => { h with vf := tset h.vf k (v &&& (mask 55 30 ||| mask 23 16 ||| mask 12 0)) })

def wrMbxRoute (s : State) (p : HostPort) (m : Nat) (v : Word) : State :=
  updHost s p (fun h => { h with route := tset h.route m (v &&& (mask 15 8 ||| mask 5 0)) })

end Sys2Proof.Machine
end

