-- ==== Sys2Proof/Machine/Errors.lean ====
section
/-!
DEFINITION. Chapter 18: scrubbing, the log's own records, pattern tests, belay points, barrier statistics, the ERR registers
(R410 to R424).
-/
namespace Sys2Proof.Machine
open Sys2Proof

def updErr (s : State) (f : ErrLog → ErrLog) : State := { s with err := f s.err }

/-- The node itself in a record (R411). -/
def nodeWho : Who := { cls := 0xF, unit := 0 }

/-- An accessor in a record. -/
def accWho (s : State) (a : Acc) : Who :=
  let t := (accTenant s a).getD 0
  match a with
  | .seq n => { seqWho s n 0 with tenant := t }
  | .pf p => portWho p
  | .vf p _ => { portWho p with tenant := t }

/-! ## The log's own records (R412) -/

/-- LOG_LOST_WRITE: space has returned after drops. -/
def execLogLostWrite (s : State) : Ans :=
  .next (
    if s.err.lost = 0 || s.err.queue.length ≥ 224 || !(logOn s) then s
    else logRec (updErr s (fun e => { e with lost := 0 })) nodeWho 0x0F 0 (BitVec.ofNat 64 s.err.lost) 0)

/-! ## Scrubbing (R410) -/

/-- The scrubber may read the channel: memory mode, in a window (R266). -/
def scrubOk (s : State) (a : Nat) : Bool :=
  match area a with
  | .t0 | .t1 => true
  | .t2 ch => mapped s a && (chanOf s ch).mode = .mem && (chanOf s ch).windowStart != none
  | _ => false

def scrubWho (a : Nat) : Who := if tierOf a = some 2 then { cls := 0xB, unit := (a - t2Base) / 2 ^ 32 / 128 } else nodeWho

/-- SCRUB_READ: the codeword that holds `addr` is corrected and rewritten, or recorded; its bytes are tenant 0's (R426). -/
def execScrubRead (addr : BitVec 56) (s : State) : Ans :=
  .next (
    let a := addr.toNat
    if !(bitAt s.err.ctl 0) || !s.boot.ready || !(scrubOk s a) then s
    else
      let c := cwBase a
      let w := scrubWho a
      let s := tierTouch s 0 ((tierOf c).getD 0) (cwSize c)
      if cwBad s c then memErr s w 4 c 1 else correct s w 1 true [c])

/-! ## Pattern tests (R416, R417) -/

/-- A unit that the walk of R416 may take: its class is chosen, and it is in service on its own. -/
def walkable (s : State) (k : Nat) : Bool :=
  let cls := k / 1024
  let u := k % 1024
  cls ≤ 8 && u < unitCount cls && bitAt s.err.ppCtl (9 + cls) && serving s cls u = some false

/-- The next unit of the walk. -/
def nextUnit (s : State) : Option Nat :=
  let l := List.range (9 * 1024)
  match l.find? (fun k => s.err.walkAt ≤ k && walkable s k) with
  | some k => some k
  | none => l.find? (walkable s)

def periodNs (s : State) : Nat := max 1 (fld s.err.ppCtl 63 48) * 1000000
def testNs (s : State) : Nat := max 1 (fld s.err.ppCtl 47 32) * 1000000

/-- A unit leaves service for a while: a free spare stands in for it (R457). -/
def standIn (s : State) (cls u : Nat) (m : UnitMode) : State :=
  let use := match (unitOf s cls u).spare, freeSpare s cls with
    | .none, some k => SpareUse.standIn k
    | x, _ => x
  updUnit s cls u (fun x => { x with mode := m, spare := use, check := false })

/-- The test of the pack that comes next for a class, in turn (R416); which tests it has is not stated (log 54). -/
def nextTest (s : State) (cls : Nat) : Nat :=
  let l := Config.packTests s.err.packVer.toNat cls
  l.getD (tget s.err.testTurn 0 cls % l.length) 0 % 1024

/-- PATTERN_TEST_START (R416). -/
def execPatternTestStart (s : State) : Ans :=
  .next (
    let due := match s.err.lastTest with | some t => decide (t.toNat + periodNs s ≤ now s) | none => true
    if !(bitAt s.err.ppCtl 0) || s.err.packVer = 0 || s.err.testing || !due || !s.boot.ready then s
    else
      match nextUnit s with
      | none => s
      | some k =>
        let cls := k / 1024
        let u := k % 1024
        let t := nextTest s cls
        let s := updErr s (fun e => { e with
          testing := true, testPack := e.packVer, curClass := cls, curUnit := u, curTest := t, walkAt := k + 1,
          testTurn := tmod e.testTurn 0 cls (· + 1), lastTest := some s.tb.time, testStart := s.tb.time })
        settleUnit (standIn s cls u .testing) cls u)

/-- PATTERN_TEST_END (R417): a failed check, or the time limit, fails the test. -/
def execPatternTestEnd (checks : List CheckResult) (s : State) : Ans :=
  .next (
    let cls := s.err.curClass
    let u := s.err.curUnit
    if !s.err.testing || !((unitOf s cls u).check) then s
    else
      let late := decide (s.err.testStart.toNat + testNs s < now s)
      let s := updErr (testWork s cls) (fun e => { e with testing := false })
      let back := fun (s : State) => settleUnit (updUnit s cls u (fun x => { x with mode := .inService, check := false })) cls u
      if checksPass checks && !late then back s
      else
        let s := testFailed s cls u s.err.curTest s.err.testPack checks
        if autoRetire s cls u then retireUnit (errFlag s 7) cls u 0x0B else back s)

/-! ## Belay points (R419) -/

/-- A BELAY record, and ERR_BELAY_SEQ its SEQ; the id is a WO field, and 0 does nothing (R493). -/
def wrBelay (s : State) (a : Acc) (v : Word) : State :=
  if fld v 31 0 = 0 then s else
  let n := s.err.queue.length
  let seq := s.err.written + n + 1
  let old := s.err.belaySeq
  let ok := logOn s && n < 224
  let s := logRec s (accWho s a) 0x0E 0 (put (fld v 31 0) 0) (BitVec.ofNat 64 old)
  if ok then updErr s (fun e => { e with belaySeq := seq }) else s

/-- ERR_BELAY. -/
def execErrBelay (a : Acc) (v : Word) (s : State) : Ans := .next (accDo s a (fun s => wrBelay s a v))

/-! ## Barrier statistics (R420 to R422) -/

/-- The number of barriers the history holds. -/
def barLen (s : State) : Nat := if 6 ≤ s.err.barWlog2 && s.err.barWlog2 ≤ 10 then 2 ^ s.err.barWlog2 else 256

/-- SUSPECT after an accepted write. -/
def suspect (s : State) : State :=
  let n := barLen s
  let l := (s.err.barrier.filter (fun b => b)).length
  if s.err.barrier.length = n && min 100 s.err.barThresh * n ≤ l * 100 && !(bitAt s.err.sticky 8) then
    logRec s nodeWho 0x0D 0 (BitVec.ofNat 64 l) (BitVec.ofNat 64 n)
  else s

def wrBarrier (s : State) (v : Word) : State :=
  let p := fld v 47 32
  let r := fld v 15 0
  if r ≥ p || p < 2 then errFlag s 10
  else
    let o := 8 * r / p
    suspect (updErr s (fun e => { e with
      barHist := tmod e.barHist 0 o (fun w => w + 1),
      barrier := (decide (o = 7) :: e.barrier).take (barLen s) }))

/-- ERR_BARRIER. -/
def execErrBarrier (a : Acc) (v : Word) (s : State) : Ans := .next (accDo s a (fun s => wrBarrier s v))

/-- A write of ERR_BAR_CTL; a shorter history keeps its latest barriers. -/
def wrBarCtl (s : State) (v : Word) : State :=
  let s := updErr s (fun e => { e with barThresh := fld v 23 16, barWlog2 := fld v 11 8 })
  let s := updErr s (fun e => { e with barrier := e.barrier.take (barLen s) })
  if bitAt v 0 then updErr s (fun e => { e with barHist := [], barrier := [] }) else s

/-- BAR_CLEAR (R422). -/
def execBarClear (a : Acc) (v : Word) (s : State) : Ans :=
  .next (accDo s a (fun s => if bitAt v 0 then wrBarCtl s v else s))

/-! ## Registers (R424) -/

/-- A write of ERR_LOG_BASE: ignored with CFG_ERR while it is set; an address outside T0 is refused the same way
(DESIGN CHOICE, log 55). -/
def wrLogBase (s : State) (v : Word) : State :=
  let b := fld v 55 18 * 2 ^ 18
  if logOn s || t0Size < b + 2 ^ 18 then errFlag s 10
  else updErr s (fun e => { e with base := v &&& mask 55 18, ringFrom := e.written + 1 })

/-- ERR_LOG_BASE_WRITE. -/
def execErrLogBaseWrite (a : Acc) (v : Word) (s : State) : Ans := .next (accDo s a (fun s => wrLogBase s v))

def ppCtlMask : Word := mask 63 32 ||| mask 17 9 ||| mask 1 0

def wrPpCtl (s : State) (v : Word) : State :=
  if bitAt v 0 && s.err.packVer = 0 then errFlag s 10 else updErr s (fun e => { e with ppCtl := v &&& ppCtlMask })

/-- ERR_PP_CTL_WRITE. -/
def execErrPpCtlWrite (a : Acc) (v : Word) (s : State) : Ans := .next (accDo s a (fun s => wrPpCtl s v))

def rdPpStatus (s : State) : Word :=
  put s.err.packVer.toNat 48 ||| put s.err.curClass 32 ||| put s.err.curUnit 12 ||| put s.err.curTest 1
    ||| put (bit s.err.testing) 0

/-- The loaded pack goes into the region at ERR_PP_BASE, and is in force once it lies there (R415). -/
def placePack (s : State) : State :=
  match s.sec.pack with
  | some p =>
    if s.err.ppBase = 0 then s
    else
      let r := anyWrite s nodeWho s.err.ppBase.toNat p.payload
      if r.1 then updErr r.2 (fun e => { e with packVer := p.version, testTurn := [] }) else r.2
  | none => s

/-- A write of ERR_PP_BASE; a pack that the loader holds becomes available (R450, R472). -/
def wrPpBase (s : State) (v : Word) : State := placePack (updErr s (fun e => { e with ppBase := v &&& mask 55 16 }))

/-- The units of a word of ERR_UNIT_FAIL: its class, and the unit of bit 0. -/
def failWord (o : Nat) : Option (Nat × Nat) :=
  if 0x40 ≤ o && o ≤ 0x80 then some ((o - 0x40) / 8, 0)
  else if 0x100 ≤ o && o ≤ 0x130 then some (8, 64 + (o - 0x100) / 8 * 64)
  else none

def rdUnitFail (s : State) (cls u : Nat) : Word :=
  BitVec.ofNat 64 ((List.range 64).foldl (fun a k =>
    if s.err.unitFail.contains (unitKey cls (u + k)) then a + 2 ^ k else a) 0)

def wrUnitFail (s : State) (cls u : Nat) (v : Word) : State :=
  updErr s (fun e => { e with unitFail := e.unitFail.filter (fun k =>
    !(unitKey cls u ≤ k && k < unitKey cls u + 64 && bitAt v (k - unitKey cls u))) })

/-- The newest record whose copy register `i` holds. -/
def recCopy (s : State) (i : Nat) : List Word :=
  match s.err.recs.find? (fun r => r.seq % 64 = i) with
  | some r => bytesWords (recBytes r)
  | none => []

def errCtlMask : Word := mask 63 48 ||| mask 9 9 ||| mask 7 6 ||| mask 0 0

def rdErr (s : State) (o : Nat) : Word :=
  if o = 0x00 then s.err.ctl
  else if o = 0x08 then s.err.sticky ||| put (bit (logOn s)) 0
  else if o = 0x10 then s.err.base
  else if o = 0x18 then s.err.ppCtl
  else if o = 0x20 then rdPpStatus s
  else if o = 0x28 then s.err.ppBase
  else if o = 0x98 then BitVec.ofNat 64 s.err.belaySeq
  else if o = 0xA0 then put s.err.barThresh 16 ||| put s.err.barWlog2 8
  else if 0xC0 ≤ o && o ≤ 0xF8 then tget s.err.barHist 0 ((o - 0xC0) / 8)
  else if 0x1000 ≤ o && o < 0x2000 then (recCopy s ((o - 0x1000) / 64)).getD (o % 64 / 8) 0
  else match failWord o with
    | some (c, u) => rdUnitFail s c u
    | none => 0

/-- A write of ERR_STATUS; clearing SUSPECT empties the history (R421). -/
def wrErrStatus (s : State) (v : Word) : State :=
  updErr s (fun e => { e with
    sticky := w1c e.sticky v (mask 10 1), barrier := if bitAt v 8 && bitAt e.sticky 8 then [] else e.barrier })

def wrErr (s : State) (a : Acc) (o : Nat) (v : Word) : State :=
  if o = 0x00 then updErr s (fun e => { e with ctl := v &&& errCtlMask })
  else if o = 0x08 then wrErrStatus s v
  else if o = 0x10 then wrLogBase s v
  else if o = 0x18 then wrPpCtl s v
  else if o = 0x28 then wrPpBase s v
  else if o = 0x90 then wrBelay s a v
  else if o = 0xA0 then wrBarCtl s v
  else if o = 0xA8 then wrBarrier s v
  else match failWord o with
    | some (c, u) => wrUnitFail s c u v
    | none => s

end Sys2Proof.Machine
end

