-- ==== Sys2Proof/Machine/Rail.lean ====
section
/-!
DEFINITION. Chapter 02: the core rail controller (R31 to R34), STALL records (R28), the timebase and its alignment (R36
to R42).
-/
namespace Sys2Proof.Machine
open Sys2Proof

/-! ## The rail controller -/

def clamp (lo hi v : Nat) : Nat := max lo (min hi v)

/-- The limits as BOOT_RAIL_CTL's fields are taken (R33). -/
def vmin (w : Word) : Nat := clamp 660 800 (fld w 21 12)
def vmax (w : Word) : Nat := clamp 660 800 (fld w 31 22)
def pcap (w : Word) : Nat := min 1300 (fld w 42 32)
def tjLimit (w : Word) : Nat := min 105 (fld w 11 4)
def railFixed (w : Word) : Bool := fld w 1 0 = 1

def railCtlMask : Word := mask 42 4 ||| mask 1 0

/-- A write of BOOT_RAIL_CTL (R33): ignored as a whole with CFG_ERR where the clamped limits cross. -/
def wrRailCtl (s : State) (v : Word) : State :=
  if vmin v > vmax v then railFlag s 4 true else { s with rail := { s.rail with ctl := v &&& railCtlMask } }

def rdRailStatus (s : State) : Word :=
  put s.rail.setpoint.toNat 32 ||| put s.rail.tjQc.toNat 16 ||| put s.rail.railMv.toNat 6 ||| s.rail.sticky

/-- The readings of the last 10 ms, as their sum and their number, once the controller has run that long since its last start;
their mean is the power average (R31). A step of the timebase (R39, R40) moves neither the start nor the last step of the
controller: after a step back they lie ahead of TIME and hold steps longer, after a step on the 10 ms and the 50 µs end early
(DESIGN CHOICE, log 22). -/
def powerAvg (s : State) : Option (Nat × Nat) :=
  let l := (s.rail.powers.filter (fun e => decide (now s ≤ e.1.toNat + 10000000))).map Prod.snd
  if now s < s.rail.start.toNat + 10000000 || l.isEmpty then none else some (l.foldl (· + ·) 0, l.length)

/-- RAIL_READING (R31, R34): new readings; a reading below 660 mV or above 105 °C, and a droop of more than 30 mV, leave
their bits. -/
def execRailReading (railMv : BitVec 10) (tjQc powerW : BitVec 16) (s : State) : Ans :=
  let r := s.rail
  let old := r.powers.filter (fun e => decide (now s < e.1.toNat + 10000000))
  let s := { s with rail := { r with
      railMv := railMv, tjQc := tjQc,
      powers := old ++ [(s.tb.time, powerW.toNat)] } }
  let s := railFlag s 3 (railMv.toNat < 660 || tjQc.toInt > 420)
  .next (railFlag s 0 (railMv.toNat + 30 < s.rail.setpoint.toNat))

/-- The controller starts: 0.72 V in ADAPT mode with BOOT_RAIL_CTL at its reset value, and no readings yet (R31, R32, step 3
of R446, R454). -/
def startRail (s : State) : State :=
  emit { s with rail := { on := true, start := s.tb.time, tjQc := s.rail.tjQc, railMv := s.rail.railMv, sticky := s.rail.sticky } }
    (.vout 0x2D0)

/-- The setpoint moves to `v` mV: the controller writes VOUT_COMMAND over the management bus (R497). -/
def setVout (s : State) (v : Nat) : State :=
  emit { s with rail := { s.rail with setpoint := BitVec.ofNat 10 v } } (.vout v)

/-- One step decision of a started controller (R31): the direct move to a limit, else at most one step of 5 mV every 50 µs.
That the cap or the junction limit 'held the setpoint below VMAX_MV' (R34) is taken so: after a decision in ADAPT, other than
a direct move, that leaves the setpoint below VMAX_MV without the 20 W or the 2 °C of room a raise needs, be a step due or
not (DESIGN CHOICE, log 22). -/
def railDecide (s : State) : State :=
  let w := s.rail.ctl
  let sp := s.rail.setpoint.toNat
  let lo := vmin w
  let hi := vmax w
  if !s.rail.on then s
  else if railFixed w then (if sp = lo then s else setVout s lo)
  else if sp < lo then setVout s lo
  else if sp > hi then setVout s hi
  else
    let tj := s.rail.tjQc.toInt
    let lim : Int := tjLimit w * 4
    let avg := powerAvg s
    let beyond := match avg with | some a => decide (a.1 > pcap w * a.2) | none => false
    let room := match avg with | some a => decide (a.1 + 20 * a.2 ≤ pcap w * a.2) | none => false
    let due := match s.rail.lastStep with | some t => decide (t.toNat + 50000 ≤ now s) | none => true
    let step := fun (s : State) (v : Nat) => setVout { s with rail := { s.rail with lastStep := some s.tb.time } } v
    let s :=
      if !due then s
      else if beyond || tj > lim then (if lo + 5 ≤ sp then step s (sp - 5) else s)
      else if room && tj ≤ lim - 8 && sp + 5 ≤ hi then step s (sp + 5)
      else s
    let below := decide (s.rail.setpoint.toNat < hi)
    railFlag (railFlag s 2 (below && avg.isSome && !room)) 1 (below && decide (tj > lim - 8))

/-- RAIL_STEP_DECISION (R31). -/
def execRailStepDecision (s : State) : Ans := .next (railDecide s)

/-- BOOT_RAIL_CTL_WRITE (R33). -/
def execBootRailCtlWrite (a : Acc) (v : Word) (s : State) : Ans :=
  .next (accDo s a (fun s => wrRailCtl s v) true)

/-! ## STALL records -/

/-- STALL (R28): a request held for more than 10 ms is recorded; the stage goes on waiting. -/
def execStall (cls : BitVec 4) (unit : BitVec 12) (stage heldUs : Word) (s : State) : Ans :=
  .next (if heldUs.toNat > 10000 then logRec s { cls := cls.toNat, unit := unit.toNat } 6 0 stage heldUs else s)

/-! ## The timebase -/

def tbMode (s : State) : Nat := fld s.tb.ctl 2 0
def tbMaster (s : State) : Bool := tbMode s = 1
def tbAcquire (s : State) : Bool := tbMode s = 2
def tbTrack (s : State) : Bool := tbMode s = 3

def syncUs (s : State) : Nat := clamp 100 10000 (fld s.tb.ctl 39 24)

/-- REF_LOSS (R38): the on-die oscillator takes over; LOCKED is cleared. -/
def execRefLoss (s : State) : Ans :=
  .next (tbFlag { s with tb := { s.tb with refOk := false, locked := false, inLock := 0 } } 2)

/-- REF_RETURN (R38): the reference is taken up again without a step. -/
def execRefReturn (s : State) : Ans := .next { s with tb := { s.tb with refOk := true } }

/-- A step of the timebase (R40). -/
def tbStep (s : State) (t : Word) : State := { s with tb := { s.tb with time := t, steps := s.tb.steps + 1 } }

/-- A write of TBS_SET (R39, R40): ignored in ACQUIRE and TRACK; a WO field written 0 does nothing (R493). -/
def wrTbsSet (s : State) (v : Word) : State :=
  if v = 0 || tbAcquire s || tbTrack s then s else tbStep s v

/-- TBS_SET. -/
def execTbsSet (a : Acc) (v : Word) (s : State) : Ans := .next (accDo s a (fun s => wrTbsSet s v))

/-- A write of TBS_CTL (R42): a new mode, and a new domain, start the measurements afresh; HOPS is 0 on the master, else
unknown. Outside TRACK the timebase advances at the reference rate (R36), and RATE_PPB is taken to return to 0 with it
(DESIGN CHOICE, log 99). -/
def wrTbsCtl (s : State) (v : Word) : State :=
  let c := v &&& (mask 63 24 ||| mask 2 0)
  let s := { s with tb := { s.tb with ratePpb := if fld c 2 0 = 3 then s.tb.ratePpb else 0 } }
  if fld c 2 0 = tbMode s && fld c 63 56 = fld s.tb.ctl 63 56 then { s with tb := { s.tb with ctl := c } }
  else { s with tb := { s.tb with
      ctl := c, agree := [], inLock := 0, missed := 0, hops := if fld c 2 0 = 1 then 0 else 0xF } }

def rdTbsStatus (s : State) : Word :=
  put s.tb.steps.toNat 48 ||| put s.tb.offsetNs.toNat 32 ||| put s.tb.ratePpb.toNat 8 ||| put s.tb.hops.toNat 4
    ||| s.tb.sticky ||| put (bit s.tb.locked) 0

/-- The ports named in a mask, in rising order. -/
def portsOf (m : Nat) : List Nat := (List.range 16).filter (fun p => m.testBit p)

/-- A sync message is due: SYNC_US have passed since the last. A step of the timebase does not move the last one's time: after
a step back on the master none is sent until TIME has caught up with it (DESIGN CHOICE, log 99). -/
def syncDue (s : State) : Bool :=
  match s.tb.lastSync with | some t => decide (t.toNat + syncUs s * 1000 ≤ now s) | none => true

/-- An offset as OFFSET_NS holds it: 16 bits, saturating. -/
def satOffset (o : Int) : BitVec 16 := BitVec.ofInt 16 (max (-32768) (min 32767 o))

/-- A rate correction within ±100 ppm; the controller's law is not stated, so its value is free (log 6). -/
def freeRate (s : State) : BitVec 24 :=
  BitVec.ofInt 24 ((((Config.freeWord s.choice).toNat % 200001 : Nat) : Int) - 100000)

/-- One measured offset in ACQUIRE (R39): four that agree within 100 ns step the timebase once to the upstream value. -/
def acquire (s : State) (o : Int) : State :=
  let l := (s.tb.agree ++ [o])
  let l := l.drop (l.length - 4)
  let ok := l.all (fun x => l.all (fun y => decide (x - y ≤ 100)))
  if l.length = 4 && ok then
    let s := tbStep s (s.tb.time - BitVec.ofInt 64 o)
    { s with tb := { s.tb with agree := [], inLock := 0, missed := 0, ctl := setFld s.tb.ctl 2 0 3 } }
  else { s with tb := { s.tb with agree := l } }

/-- One measured offset in TRACK (R39, R41). -/
def track (s : State) (o : Int) : State :=
  let s := tick1 { s with tb := { s.tb with ratePpb := freeRate s, missed := 0 } }
  if -10 ≤ o && o ≤ 10 then
    let n := s.tb.inLock + 1
    { s with tb := { s.tb with inLock := n, locked := s.tb.locked || decide (n ≥ 16) } }
  else
    let was := s.tb.locked
    let s := { s with tb := { s.tb with inLock := 0, locked := false } }
    if was then tbFlag s 1 else s

/-- SYNC_RECEIVE (R39, R41): `offset` is the measured offset from upstream, own time minus upstream time (log 19). ACQUIRE
measures against the nearest upstream node it has heard: a farther one is not used, a nearer one begins the run again. -/
def execSyncReceive (dom : BitVec 8) (offset : Int) (upHops : BitVec 4) (s : State) : Ans :=
  let hops := min 15 (upHops.toNat + 1)
  .next (if dom.toNat = fld s.tb.ctl 63 56 && (tbTrack s || tbAcquire s && decide (hops ≤ s.tb.hops.toNat)) then
    let l := if hops < s.tb.hops.toNat && tbAcquire s then [] else s.tb.agree
    let s := { s with tb := { s.tb with offsetNs := satOffset offset, hops := BitVec.ofNat 4 hops, agree := l } }
    if tbAcquire s then acquire s offset else track s offset
  else s)

/-- SYNC_MISSED (R41): the third in a row clears LOCKED and sets LOST_LOCK. In ACQUIRE a missed message ends the run of
consecutive measurements, and the nearest upstream node is looked for anew (DESIGN CHOICE, log 99). -/
def execSyncMissed (s : State) : Ans :=
  .next (if tbTrack s then
    let n := s.tb.missed + 1
    let s := { s with tb := { s.tb with missed := n, inLock := if s.tb.locked then s.tb.inLock else 0 } }
    if n ≥ 3 && s.tb.locked then tbFlag { s with tb := { s.tb with locked := false, inLock := 0 } } 1 else s
  else if tbAcquire s then { s with tb := { s.tb with agree := [], hops := 0xF } }
  else s)

end Sys2Proof.Machine
end

