-- ==== Sys2Proof/Machine/Hawser.lean ====
section
/-!
DEFINITION. Chapter 17: Hawser ports, routing, sending, traffic sampling, composition (R378 to R388, R392, R394, R395).
-/
namespace Sys2Proof.Machine
open Sys2Proof

def portOf (s : State) (p : Nat) : HPort := tget s.hws.ports {} p

def updPort (s : State) (p : Nat) (f : HPort → HPort) : State :=
  { s with hws := { s.hws with ports := tmod s.hws.ports {} p f } }

def hwsFlag (s : State) (i : Nat) : State := { s with hws := { s.hws with sticky := stick s.hws.sticky i } }

/-- A notice is dropped: counted, with NOTICE_LOST (R391). -/
def noticeLost (s : State) : State :=
  hwsFlag { s with hws := { s.hws with noticesLost := s.hws.noticesLost + 1 } } 3

def portFlag (s : State) (p i : Nat) : State := updPort s p (fun x => { x with sticky := stick x.sticky i })

def hwsWho (unit tenant : Nat) : Who := { cls := 0xD, unit := unit, tenant := tenant }

/-- This node's number. -/
def nodeNum (s : State) : Nat := s.cmp.node.toNat

/-! ## Message headers (R381) -/

def msgHeader (m : Msg) : List Byte :=
  wordBytes (put m.dst 48 ||| put m.src 32 ||| put m.epoch 16 ||| put m.cls 13 ||| put (bit m.routed) 12
    ||| put m.kind 8 ||| put m.hops 0)
  ++ wordBytes m.msgid
  ++ wordBytes (put m.tenant 52 ||| put m.flow 40 ||| put m.ring 32 ||| put m.reply 24 ||| put m.payload.length 0)
  ++ wordBytes m.arg ++ wordBytes m.sent ++ List.replicate 24 0

def msgBytes (m : Msg) : List Byte := msgHeader m ++ m.payload

def msgLen (m : Msg) : Nat := 64 + m.payload.length

def isNotice (m : Msg) : Bool := m.kind = 8 || m.kind = 9

/-! ## Routing (R384, R385) -/

/-- A port takes part in the hashes. -/
def portLive (s : State) (p : Nat) : Bool := (portOf s p).up && !((portOf s p).away)

/-- Whose work the routing of a message is: its tenant's at the node that sends it, nobody's for a message that the node makes or
passes on (R426). -/
def routeTenant (s : State) (m : Msg) : Nat := if m.src = nodeNum s && 1 ≤ m.kind && m.kind ≤ 3 then m.tenant else 0

/-- The route mask of a message's destination, read from the route table; none where memory fails. -/
def routeMask (s : State) (m : Msg) : Nat × State :=
  let r := nodeRead s (hwsWho 0 (routeTenant s m)) (s.hws.routeBase.toNat + 4 * m.dst) 4
  (if r.ok then leNat (r.data.take 2) else 0, r.s)

/-- The egress port of a message: the live port of its mask that the hash names. -/
def egressPort (s : State) (m : Msg) : Option Nat × State :=
  let r := routeMask s m
  let l := (List.range 16).filter (fun p => r.1.testBit p && portLive r.2 p)
  (l[Config.pathHash m.src m.dst m.cls m.flow % l.length]?, r.2)

/-- The message joins the queue of its class on a port. -/
def enqueue (s : State) (p : Nat) (m : Msg) (fresh : Bool) : State :=
  updPort s p (fun x => { x with egress := tmod x.egress [] m.cls (fun l => l ++ [⟨m, s.tb.time, fresh⟩]) })

/-! ## Writing a message into a receive ring (R389) -/

def recvOf (s : State) (r : Nat) : RecvRing := tget s.hws.recvs {} r

def updRecv (s : State) (r : Nat) (f : RecvRing → RecvRing) : State :=
  { s with hws := { s.hws with recvs := tmod s.hws.recvs {} r f } }

def rqOn (x : RecvRing) : Bool := bitAt x.cfg 0
def rqLen (x : RecvRing) : Nat := 2 ^ fld x.cfg 11 8
def rqSlot (x : RecvRing) : Nat := 2 ^ fld x.cfg 15 12
def rqFull (x : RecvRing) : Bool := decide ((x.tail - x.head).toNat ≥ rqLen x)
def rqTenant (x : RecvRing) (t : Nat) : Bool := bitAt x.cfg 2 || fld x.cfg 43 32 = t

/-- The slot is written, the tail advances and the ring's counter passes the message. -/
def writeSlot (s : State) (w : Who) (r : Nat) (m : Msg) : Bool × State :=
  let x := recvOf s r
  let p := nodeWrite s w (x.base.toNat + x.tail.toNat % rqLen x * rqSlot x) (msgBytes m)
  if p.1 then (true, ctrAdd (updRecv p.2 r (fun x => { x with tail := x.tail + 1 })) (0x9600 + r) 1) else p

/-- A notice for this node goes into its ring, or is dropped with NOTICE_LOST (R391). -/
def landNotice (s : State) (m : Msg) : State :=
  let x := recvOf s m.ring
  if !(rqOn x) || rqFull x || !(rqTenant x m.tenant) then noticeLost s
  else
    let p := writeSlot s (hwsWho 0 0) m.ring m
    if p.1 then p.2 else noticeLost p.2

/-! ## Refusals (R391) -/

/-- The REFUSE of a message; its FLOW, which the spec leaves open, is a free value. -/
def refusal (s : State) (m : Msg) (code : Nat) : Msg :=
  { dst := m.src, src := nodeNum s, epoch := s.cmp.epoch.toNat, kind := 9, hops := 16, msgid := m.msgid, tenant := m.tenant,
    flow := (Config.freeByte s.choice 0).toNat, ring := m.reply,
    arg := put s.cmp.epoch.toNat 48 ||| put m.epoch 32 ||| put m.dst 16 ||| put m.kind 8 ||| put code 0 }

/-- A message of this node is refused here, in its own REPLY_RING (R385, R387). -/
def refuseLocal (s : State) (m : Msg) (code : Nat) : State := landNotice (tick1 s) (refusal s m code)

/-- A node-generated message leaves on its egress port, or lands here where it is for this node; with no live port it is
refused here with UNREACHABLE, a notice being dropped. -/
def sendOwn (s : State) (m : Msg) : State :=
  if m.dst = nodeNum s && isNotice m then landNotice s m
  else
    let e := egressPort s m
    match e.1 with
    | some p => enqueue e.2 p m true
    | none => if isNotice m then noticeLost e.2 else refuseLocal e.2 m 3

/-- A message is refused: the sender is told, except of an ACK or a REFUSE (R391). -/
def refuse (s : State) (m : Msg) (code : Nat) : State :=
  if isNotice m then noticeLost s else sendOwn (tick1 s) (refusal s m code)

/-- A message goes to the egress port that its route gives, or is refused with UNREACHABLE. -/
def routeMsg (s : State) (m : Msg) (fresh : Bool) : State :=
  let e := egressPort s m
  match e.1 with
  | some p => enqueue e.2 p m fresh
  | none => refuse e.2 m 3

/-! ## Sending (R386 to R388) -/

def sendOf (s : State) (k : Nat) : SendRing := tget s.hws.sends {} k

def updSend (s : State) (k : Nat) (f : SendRing → SendRing) : State :=
  { s with hws := { s.hws with sends := tmod s.hws.sends {} k f } }

def snOn (x : SendRing) : Bool := bitAt x.cfg 0
def snLen (x : SendRing) : Nat := 2 ^ fld x.cfg 11 8

/-- A write of HWS_SQ_TAIL. -/
def wrSendTail (s : State) (k : Nat) (v : Word) : State :=
  let x := sendOf s k
  let t : BitVec 16 := v.setWidth 16
  if (t - x.head).toNat ≤ snLen x then updSend s k (fun x => { x with tail := t }) else hwsFlag s 0

def execHwsSqTailWrite (a : Acc) (k : Fin 64) (v : Word) (s : State) : Ans := .next (accDo s a (fun s => wrSendTail s k.val v))

/-- The unprocessed entries are discarded: the counter passes each unsent (R388). -/
def discardSends (s : State) (k : Nat) : State :=
  let x := sendOf s k
  ctrAdd (updSend s k (fun x => { x with head := x.tail })) (0x9800 + k) (x.tail - x.head).toNat

def sendCfgMask : Word := mask 43 32 ||| mask 11 8 ||| mask 0 0

/-- A write of HWS_SQ_CFG (R388, R402). -/
def wrSendCfg (s : State) (k : Nat) (v : Word) : State :=
  let x := sendOf s k
  let c := v &&& sendCfgMask
  let moves := fld c 11 8 != fld x.cfg 11 8
  if snOn x && moves then hwsFlag s 0
  else if bitAt c 0 && !(snOn x) && !(x.base.toNat + 64 * 2 ^ fld c 11 8 ≤ t0Size) then hwsFlag s 0
  else
    let s := if moves && x.head != x.tail then discardSends s k else s
    updSend s k (fun x => { x with cfg := c })

def execHwsSqCfgWrite (a : Acc) (k : Fin 64) (v : Word) (s : State) : Ans := .next (accDo s a (fun s => wrSendCfg s k.val v))

/-- A write of HWS_SQ_BASE. -/
def wrSendBase (s : State) (k : Nat) (v : Word) : State :=
  let x := sendOf s k
  let b := v &&& mask 55 6
  if snOn x then hwsFlag s 0
  else
    let s := if b != x.base && x.head != x.tail then discardSends s k else s
    updSend s k (fun x => { x with base := b })

/-- A send entry: its header as the program wrote it, PAYLOAD and LENGTH, and whether it breaks R387 in its own fields. -/
structure SendEntry where
  m : Msg
  at_ : Nat
  len : Nat
  bad : Bool

def sendEntry (l : List Byte) : SendEntry :=
  let w := fun (k : Nat) => bytesWord ((l.drop (8 * k)).take 8)
  let kind := fld (w 0) 11 8
  let cls := fld (w 0) 15 13
  let len := fld (w 2) 15 0
  { m := {
      dst := fld (w 0) 63 48, epoch := fld (w 0) 31 16, cls := cls, routed := bitAt (w 0) 12, kind := kind, hops := 16,
      msgid := w 1, flow := fld (w 2) 47 40, ring := fld (w 2) 39 32, reply := fld (w 2) 31 24, arg := w 3 },
    at_ := fld (w 4) 55 0, len := len,
    bad := !(1 ≤ kind && kind ≤ 3) || cls = 0 || len > 16384 || (kind = 2 && len % 64 != 0)
      || (w 0 &&& (mask 47 32 ||| mask 7 0)) != 0 || (w 2 &&& (mask 63 48 ||| mask 23 16)) != 0
      || (w 3 &&& (if kind = 2 then mask 63 40 else mask 63 0)) != 0 || (w 4 &&& mask 63 56) != 0
      || w 5 != 0 || w 6 != 0 || w 7 != 0 }

/-- The entry is done with: the head advances and the counter passes it. -/
def sendPass (s : State) (k : Nat) : State := ctrAdd (updSend s k (fun x => { x with head := x.head + 1 })) (0x9800 + k) 1

/-- SEND_ENTRY (R386, R387). -/
def execSendEntry (k : Fin 64) (s : State) : Ans :=
  .next (
    let k := k.val
    let x := sendOf s k
    if !(snOn x) || x.head = x.tail || !(s.boot.ready) then s
    else
      let tenant := fld x.cfg 43 32
      let w := hwsWho 0 tenant
      let r := nodeRead s w (x.base.toNat + x.head.toNat % snLen x * 64) 64
      if !r.ok then sendPass r.s k
      else
        let e := sendEntry r.data
        let m := { e.m with src := nodeNum r.s, tenant := tenant }
        let fits := e.len = 0 || (bufArea e.at_ false && withinTier r.s e.at_ e.len)
        if e.bad || !fits || nodeNum r.s = 0xFFFF then sendPass (refuseLocal r.s m 0xB) k
        else
          let p := nodeRead r.s w e.at_ e.len
          if !p.ok then sendPass (refuseLocal p.s m 0xB) k
          else routeMsg (sendPass p.s k) { m with payload := p.data } true)

/-! ## Sync messages (R39) -/

/-- A SYNC for the neighbour on a port: class 0, its domain and the sender's hops as its payload, SENT its time (log 114). -/
def syncMsg (s : State) (partner : Nat) : Msg :=
  { dst := partner, src := nodeNum s, epoch := s.cmp.epoch.toNat, kind := 0xB, hops := 16,
    payload := wordBytes (put (fld s.tb.ctl 63 56) 8 ||| put s.tb.hops.toNat 0) }

/-- A sync message joins the queue of class 0 of a port whose link is up. -/
def sendSync (s : State) (p : Nat) : State :=
  match (portOf s p).partner with
  | some n => if (portOf s p).up then enqueue s p (syncMsg s n) true else s
  | none => s

/-- SYNC_SEND (R39): once every SYNC_US a master or a tracking node sends on the ports in PORT_MASK. -/
def execSyncSend (s : State) : Ans :=
  .next (if (tbMaster s || tbTrack s) && s.tb.released && syncDue s then
    let s := (portsOf (fld s.tb.ctl 55 40)).foldl sendSync s
    { s with tb := { s.tb with lastSync := some s.tb.time } }
  else s)

/-! ## Ports -/

/-- The partner has acknowledged the `n` oldest messages of the replay buffer. -/
def ackPort (s : State) (p n : Nat) : State := updPort s p (fun x => { x with replay := x.replay.drop n })

/-- The first class, 0 the highest, that has a queued message and link credits (R392). -/
def sendClass (x : HPort) (credit : BitVec 8) : Option Nat :=
  (List.range 8).find? (fun c => credit.getLsbD c && !((tget x.egress [] c).isEmpty))

/-- MSG_SEND (R392): `credit` has a bit for each class with link credits, `acked` messages have been acknowledged. -/
def execMsgSend (p : Fin 16) (credit : BitVec 8) (acked : Nat) (s : State) : Ans :=
  .next (
    let p := p.val
    let s := ackPort s p acked
    let x := portOf s p
    if !x.up then s
    else match sendClass x credit with
      | none => s
      | some c =>
        match tget x.egress [] c with
        | [] => s
        | q :: rest =>
          let m := if q.fresh then { q.msg with sent := s.tb.time } else q.msg
          let s := updPort s p (fun x => { x with egress := tset x.egress c rest, replay := x.replay ++ [m] })
          ctrAdd (emit s (.message p m)) (0x9840 + p * 8 + c) (msgLen m))

/-- Every message that waits on a port or that its link had not acknowledged goes out elsewhere, or is refused (R385). -/
def rerouteAll (s : State) (p : Nat) : State :=
  let x := portOf s p
  let l := (x.replay.map (fun m => (m, false))) ++ ((x.egress.map (fun e => e.2.map (fun q => (q.msg, q.fresh)))).flatten)
  let s := updPort s p (fun x => { x with egress := [], replay := [] })
  l.foldl (fun s m => routeMsg s m.1 m.2) s

/-- A link goes down (R380, R385). -/
def linkDown (s : State) (p acked : Nat) : State :=
  let s := portFlag (ackPort s p acked) p 2
  rerouteAll (updPort s p (fun x => { x with up := false, width := 0 })) p

/-- HWS_LINK_DOWN. -/
def execHwsLinkDown (p : Fin 16) (acked : Nat) (s : State) : Ans :=
  .next (if (portOf s p.val).up then linkDown s p.val acked else s)

/-- HWS_LINK_UP (R380): `width` lanes to node `partner`; below ×4 the port has degraded. -/
def execHwsLinkUp (p : Fin 16) (width : BitVec 4) (partner : BitVec 16) (s : State) : Ans :=
  .next (
    let n := width.toNat
    if (n = 1 || n = 2 || n = 4) && !((portOf s p.val).up) && !((portOf s p.val).dead) && s.boot.ready
        && tfind s.tst.drops p.val = none then
      let s := if n < 4 then hwsFlag s 1 else s
      updPort s p.val (fun x => { x with
        up := true, width := width, partner := some partner.toNat, sticky := stickIf x.sticky 1 (decide (n < 4)) })
    else s)

/-- LANE_FAILING (R379): the spare takes its place, or the port degrades to x2, then to x1. -/
def execLaneFailing (p : Fin 16) (s : State) : Ans :=
  .next (
    let p := p.val
    let x := portOf s p
    if !x.up then s
    else if !x.spare then hwsFlag (updPort (applyOverlay s 0xD p) p (fun x => { x with spare := true })) 1
    else if x.width.toNat ≤ 1 then s
    else hwsFlag (updPort s p (fun x => { x with width := x.width >>> 1, sticky := stick x.sticky 1 })) 1)

/-! ## Sampling (R394) -/

def queueBytes (l : List Queued) : Nat := (l.map (fun q => msgLen q.msg)).foldl (· + ·) 0

/-- One class's sample. -/
def qsampOne (s : State) (p c : Nat) : State :=
  let l := tget (portOf s p).egress [] c
  let d := match l with
    | [] => 0
    | q :: _ => min 0xFFFF ((s.tb.time - q.at_).toNat / 1000)
  let f := fun (w : Word) =>
    put (max (fld w 63 48) d) 48 ||| put d 32 ||| put (min 0xFFFF (queueBytes l / 1024)) 16
  { s with hws := { s.hws with qsamp := tmod s.hws.qsamp 0 (p * 8 + c) f } }

/-- QSAMPLE. -/
def execQsample (p : Fin 16) (s : State) : Ans :=
  .next (
    let p := p.val
    if (portOf s p).lastSample.toNat + max 1 (fld s.hws.ctl 15 0) * 1000 ≤ now s then
      (List.range 8).foldl (fun s c => qsampOne s p c) (updPort s p (fun x => { x with lastSample := s.tb.time }))
    else s)

/-! ## Zones (R389) -/

def zoneOf (s : State) (z : Nat) : Zone := tget s.hws.zones {} z

def updZone (s : State) (z : Nat) (f : Zone → Zone) : State :=
  { s with hws := { s.hws with zones := tmod s.hws.zones {} z f } }

/-- A write of HWS_ZONE_CFG (R402). -/
def wrZoneCfg (s : State) (z : Nat) (v : Word) : State :=
  if bitAt v 0 && bitAt v 1 then hwsFlag s 0
  else
    let s := updZone s z (fun x => { x with src := fld v 63 48, tenant := fld v 43 32 })
    if bitAt v 0 then updZone s z (fun x => { x with st := .armed, landed := 0 })
    else if bitAt v 1 then updZone s z (fun x => { x with st := .idle })
    else s

def execArm (a : Acc) (z : Fin 256) (v : Word) (s : State) : Ans :=
  .next (if bitAt v 0 then accDo s a (fun s => wrZoneCfg s z.val v) else s)
def execDisarm (a : Acc) (z : Fin 256) (v : Word) (s : State) : Ans :=
  .next (if bitAt v 1 then accDo s a (fun s => wrZoneCfg s z.val v) else s)

/-- A write of BASE or SIZE. -/
def wrZoneField (s : State) (z : Nat) (f : Zone → Zone) : State :=
  if (zoneOf s z).st = .armed then hwsFlag s 0 else updZone s z f

def zoneCode : ZoneSt → Nat
  | .idle => 0
  | .armed => 1
  | .complete => 2
  | .orphaned => 3

def rdZoneCfg (s : State) (z : Nat) : Word :=
  let x := zoneOf s z
  put x.src 48 ||| put x.tenant 32 ||| put (zoneCode x.st) 2

/-! ## Receive rings -/

/-- A write of HWS_RQ_HEAD. -/
def wrRecvHead (s : State) (r : Nat) (v : Word) : State :=
  let x := recvOf s r
  let h : BitVec 16 := v.setWidth 16
  if (h - x.head).toNat ≤ (x.tail - x.head).toNat then updRecv s r (fun x => { x with head := h }) else hwsFlag s 0

def execHwsRqHeadWrite (a : Acc) (k : Fin 256) (v : Word) (s : State) : Ans := .next (accDo s a (fun s => wrRecvHead s k.val v))

def recvCfgMask : Word := mask 43 32 ||| mask 15 8 ||| mask 2 0

/-- A write of HWS_RQ_CFG. -/
def wrRecvCfg (s : State) (r : Nat) (v : Word) : State :=
  let x := recvOf s r
  let c := v &&& recvCfgMask
  let n := 2 ^ fld c 11 8 * 2 ^ fld c 15 12
  let a := x.base.toNat
  if rqOn x && fld c 11 8 != fld x.cfg 11 8 then hwsFlag s 0
  else if bitAt c 0 && !(rqOn x) && !((inT0 a && a + n ≤ t0Size) || inT1 s a n) then hwsFlag s 0
  else updRecv s r (fun x => { x with cfg := c })

def wrRecvBase (s : State) (r : Nat) (v : Word) : State :=
  if rqOn (recvOf s r) then hwsFlag s 0 else updRecv s r (fun x => { x with base := v &&& mask 55 6 })

/-! ## Composition (R395, R403) -/

def cmpFlag (s : State) (i : Nat) : State := { s with cmp := { s.cmp with sticky := stick s.cmp.sticky i } }

/-- A write of CMP_EPOCH (R395). -/
def wrEpoch (s : State) (v : Word) : State :=
  let e : BitVec 16 := v.setWidth 16
  let c := s.cmp
  if bitAt v 16 then
    { s with cmp := { c with epoch := e, prev := c.epoch, changed := s.tb.time, grace := false } }
  else if e = c.epoch + 1 then
    { s with cmp := { c with epoch := e, prev := c.epoch, changed := s.tb.time, grace := true } }
  else cmpFlag s 0

def execCmpEpochWrite (a : Acc) (v : Word) (s : State) : Ans := .next (accDo s a (fun s => wrEpoch s v))

/-- GRACE_EXPIRE: 500 µs after the change. -/
def execGraceExpire (s : State) : Ans :=
  .next (if s.cmp.grace && decide (s.cmp.changed.toNat + 500000 ≤ now s) then { s with cmp := { s.cmp with grace := false } } else s)

/-- A write of CMP_NODE: ignored while a send ring is enabled. -/
def wrCmpNode (s : State) (v : Word) : State :=
  if s.hws.sends.any (fun e => snOn e.2) then cmpFlag s 0 else { s with cmp := { s.cmp with node := v.setWidth 16 } }

def execCmpNodeWrite (a : Acc) (v : Word) (s : State) : Ans := .next (accDo s a (fun s => wrCmpNode s v))

def rdCmpStatus (s : State) : Word := put s.cmp.prev.toNat 48 ||| put (bit s.cmp.grace) 32 ||| s.cmp.sticky

def wrCmpStatus (s : State) (v : Word) : State := { s with cmp := { s.cmp with sticky := w1c s.cmp.sticky v (mask 2 0) } }

/-! ## The other registers of the window (R402) -/

def rdPortStatus (s : State) (p : Nat) : Word :=
  let x := portOf s p
  put x.corr.toNat 32 ||| put x.width.toNat 16 ||| put (bit x.spare) 4 ||| x.sticky ||| put (bit x.up) 0

def clrPortStatus (s : State) (p : Nat) : State := updPort s p (fun x => { x with corr := 0 })

def wrPortStatus (s : State) (p : Nat) (v : Word) : State := updPort s p (fun x => { x with sticky := w1c x.sticky v (mask 3 1) })

/-- The pair that HWS_POL_SEL names. -/
def polKey (s : State) : Nat := fld s.hws.polSel 15 0

def rdPolCnt (s : State) : Word := tget s.hws.polCnt 0 (polKey s)

def clrPolCnt (s : State) : State := { s with hws := { s.hws with polCnt := tset s.hws.polCnt (polKey s) 0 } }

/-- Send ring `k` at an offset. -/
def rdSend (s : State) (k off : Nat) : Word :=
  let x := sendOf s k
  match off with
  | 0x00 => x.base
  | 0x08 => x.cfg
  | 0x10 => x.tail.setWidth 64
  | 0x18 => x.head.setWidth 64
  | _ => 0

def wrSend (s : State) (k off : Nat) (v : Word) : State :=
  match off with
  | 0x00 => wrSendBase s k v
  | 0x08 => wrSendCfg s k v
  | 0x10 => wrSendTail s k v
  | _ => s

def rdRecv (s : State) (k off : Nat) : Word :=
  let x := recvOf s k
  match off with
  | 0x00 => x.base
  | 0x08 => x.cfg
  | 0x10 => x.head.setWidth 64
  | 0x18 => x.tail.setWidth 64
  | _ => 0

def wrRecv (s : State) (k off : Nat) (v : Word) : State :=
  match off with
  | 0x00 => wrRecvBase s k v
  | 0x08 => wrRecvCfg s k v
  | 0x10 => wrRecvHead s k v
  | _ => s

def rdZone (s : State) (k off : Nat) : Word :=
  let x := zoneOf s k
  match off with
  | 0x00 => x.base
  | 0x08 => put x.size 0
  | 0x10 => rdZoneCfg s k
  | 0x18 => put x.landed 0
  | _ => 0

def wrZone (s : State) (k off : Nat) (v : Word) : State :=
  match off with
  | 0x00 => wrZoneField s k (fun x => { x with base := v &&& mask 55 6 })
  | 0x08 => wrZoneField s k (fun x => { x with size := fld v 39 0 })
  | 0x10 => wrZoneCfg s k v
  | _ => s

def hwsCtlMask : Word := mask 42 24 ||| mask 18 0

end Sys2Proof.Machine
end

