-- ==== Sys2Proof/Machine/Island.lean ====
section
/-!
DEFINITION. Chapter 19: the compute die's side of the metering feed and the Assay island's counting (R425 to R433, R441 to
R443, R503).
-/
namespace Sys2Proof.Machine
open Sys2Proof

def updIsl (s : State) (f : Island → Island) : State := { s with island := f s.island }
def updKept (s : State) (f : Kept → Kept) : State := updIsl s (fun x => { x with kept := f x.kept })
def islFlag (s : State) (i : Nat) : State := updIsl s (fun x => { x with sticky := stick x.sticky i })
def updFeed (s : State) (f : Feed → Feed) : State := { s with feed := f s.feed }

/-- A perturbation is active (R487): a perturbation register holds a nonzero value, or a link drop lasts. -/
def pertActive (s : State) : Bool :=
  (unlocked s && (s.tst.delay ++ s.tst.withhold ++ s.tst.clamp ++ s.tst.memlat).any (fun e => e.2 != 0)) || !s.tst.drops.isEmpty

/-! ## The feed (R428, R432) -/

/-- TYPE of a frame. -/
def tStart : Nat := 1
def tTally : Nat := 2
def tFinal : Nat := 3

/-- The words of a frame before its MAC. -/
def frameWords (kind : Nat) (f : Frame) : List Word :=
  [put (f.seq % 2 ^ 48) 16 ||| put kind 8 ||| put (bit f.pert) 0, BitVec.ofNat 64 f.time, BitVec.ofNat 64 f.ents.length]
    ++ f.ents.map (fun e => put e.1 52 ||| put e.2.1 44 ||| put e.2.2 0)

/-- At most `n` entries from the tally cache, in its order, a delta of more than 44 bits split; what stays behind. -/
def takeEnts : Nat → List (Nat × Nat) → List (Nat × Nat × Nat) × List (Nat × Nat)
  | 0, c => ([], c)
  | _, [] => ([], [])
  | n + 1, (k, d) :: r =>
    if d < 2 ^ 44 then
      let x := takeEnts n r
      ((k / 32, k % 32, d) :: x.1, x.2)
    else
      let x := takeEnts n ((k, d - (2 ^ 44 - 1)) :: r)
      ((k / 32, k % 32, 2 ^ 44 - 1) :: x.1, x.2)

/-- A frame goes out, its two copies in succession. -/
def sendFrame (s : State) (kind : Nat) (ents : List (Nat × Nat × Nat)) : State :=
  let f : Frame := { seq := s.feed.lastSeq + 1, pert := pertActive s, time := now s, ents := ents, mac := 0 }
  let f := { f with mac := Config.feedMac s.feed.nonce (frameWords kind f) }
  emit (emit (updFeed s (fun x => { x with lastSeq := f.seq })) (.frame kind f)) (.frame kind f)

/-- START under the nonce the island presents (R430). -/
def sendStart (s : State) : State :=
  sendFrame (updFeed s (fun x => { x with
    nonce := s.island.nonce, lastSeq := 0, linkUp := true, lastSend := s.tb.time })) tStart []

/-- TALLY_SEND (R428). -/
def execTallySend (s : State) : Ans :=
  .next (
    let due := decide (s.feed.lastSend.toNat + 100000 ≤ now s)
    if s.feed.linkUp && (due || s.feed.cache.length ≥ 62) then
      let x := takeEnts 62 s.feed.cache
      let s := sendFrame s tTally x.1
      updFeed s (fun f => { f with cache := x.2, lastSend := if x.2.isEmpty && due then s.tb.time else f.lastSend })
    else s)

/-- The frames of the final sequence but for the last, while more than one is needed. -/
def sendAll : Nat → State → State
  | 0, s => s
  | n + 1, s =>
    let x := takeEnts 62 s.feed.cache
    if x.2.isEmpty then s else sendAll n (updFeed (sendFrame s tTally x.1) (fun f => { f with cache := x.2 }))

/-- Frames that the tally cache needs at most. -/
def framesMost (s : State) : Nat := (s.feed.cache.map (fun e => e.2 / (2 ^ 44 - 1) + 1)).foldl (· + ·) 0

/-- The final sequence (R432): every delta that remains, FINAL last. -/
def sendFinal (s : State) : State :=
  let s := sendAll (framesMost s) s
  let x := takeEnts 62 s.feed.cache
  updFeed (sendFrame s tFinal x.1) (fun f => { f with cache := x.2, linkUp := false })

/-- FINAL_SEQUENCE (R432): in the COLD or WARM scope, the island's rail up. -/
def execFinalSequence (s : State) : Ans :=
  .next (
    match s.boot.scope with
    | some (sc, cause) => if s.boot.entered && sc != .power && cause != 4 && s.feed.linkUp then sendFinal s else s
    | none => s)

/-- The tenant to whom a writer's work is counted (R426, R362). -/
def billTenant (s : State) (a : Acc) : Nat := (accTenant s a).getD 0

/-- ASY_TALLY (R429, R443). -/
def wrTally (s : State) (a : Acc) (v : Word) : State :=
  let r := fld v 57 56
  if r ≥ 2 then updFeed s (fun f => { f with sticky := stick f.sticky 1 })
  else tally (ctrAdd s (0x912A + r) (fld v 39 0)) (billTenant s a) (0x16 + r) (fld v 39 0)

def execAsyTally (a : Acc) (v : Word) (s : State) : Ans := .next (accDo s a (fun s => wrTally s a v))

def rdAsy (s : State) (o : Nat) : Word :=
  if o = 0 then put (s.feed.lastSeq % 2 ^ 48) 16 ||| put (bit (pertActive s)) 2 ||| s.feed.sticky ||| put (bit s.feed.linkUp) 0 else 0

def wrAsy (s : State) (a : Acc) (o : Nat) (v : Word) : State :=
  match o with
  | 0 => updFeed s (fun f => { f with sticky := w1c f.sticky v (mask 1 1) })
  | 8 => wrTally s a v
  | _ => s

/-! ## Acceptance at the island (R430, R431, R437, R441) -/

/-- ISLAND_NONCE: a fresh session nonce. -/
def execIslandNonce (s : State) : Ans :=
  .next (
    if s.island.up && !s.island.presented then
      updIsl (tick1 s) (fun x => { x with nonce := (Config.freeWord s.choice).toNat, presented := true })
    else s)

/-- The place of a resource among the 18 counters. -/
def resIndex (r : Nat) : Nat := if r < 9 then r else r - 7

/-- The price of a resource for a tenant (R437). -/
def price (x : Island) (tenant res : Nat) : Nat := tget x.tariff 0 (tget x.tenantClass 0 tenant * 18 + resIndex res)

/-- One entry of an accepted frame: the counter, the charge at the prices in force, the energy weight. -/
def applyEnt (x : Island) (e : Nat × Nat × Nat) : Island :=
  let k := x.kept
  { x with
    kept := { k with
      counters := tmod k.counters 0 (e.1 * 32 + e.2.1) (· + e.2.2),
      charges := tmod k.charges 0 e.1 (· + e.2.2 * price x e.1 e.2.1) },
    weights := tmod x.weights 0 e.1 (· + tget x.coeff 0 e.2.1 * e.2.2) }

/-- An accepted frame (R431, R441). -/
def acceptFrame (x : Island) (kind : Nat) (f : Frame) : Island :=
  let x := f.ents.foldl applyEnt x
  let x := { x with last := f.seq, lastAt := x.kept.clock, lastFinal := decide (kind = tFinal) }
  let x := if f.pert then
      { x with
        sticky := stick x.sticky 6, pertSession := x.pertSession + 1, pertLife := x.pertLife + 1,
        pertFirst := if x.pertLife = 0 then x.kept.clock else x.pertFirst, pertLast := x.kept.clock }
    else x
  if kind = tFinal then { x with openS := false, sessClean := true } else x

/-- Frames are missing before this one. -/
def noteGap (x : Island) (f : Frame) : Island :=
  let n := f.seq - x.last - 1
  { x with
    kept := { x.kept with gaps := x.kept.gaps + 1, missing := x.kept.missing + n },
    sGaps := x.sGaps + 1, sMissing := x.sMissing + n, sticky := stick x.sticky 4,
    ring := ((x.last + 1, n, x.kept.clock) :: x.ring).take 64 }

def macFail (x : Island) : Island :=
  { x with kept := { x.kept with macFails := x.kept.macFails + 1 }, sMacFails := x.sMacFails + 1, sticky := stick x.sticky 3 }

def replayed (x : Island) : Island :=
  { x with kept := { x.kept with replays := x.kept.replays + 1 }, sReplays := x.sReplays + 1, sticky := stick x.sticky 2 }

/-- A copy that arrives in a session (R431); after its end only copies of what it accepted are told from frames that no
session expects, which are dropped (DESIGN CHOICE, log 56). -/
def arrive (x : Island) (kind : Nat) (f : Frame) : Island :=
  if f.mac != Config.feedMac x.key (frameWords kind f) then macFail x
  else if f.seq = x.last then x
  else if f.seq < x.last then replayed x
  else if !x.openS then x
  else acceptFrame (if f.seq = x.last + 1 then x else noteGap x f) kind f

/-- The session that START opens: the counts of the session begin again, and the next nonce is drawn. -/
def openSession (x : Island) (nonce : Nat) : Island :=
  { x with
    key := x.nonce, nonce := nonce, presented := true, openS := true, fed := true, last := 0, sessClean := false,
    sMacFails := 0, sReplays := 0, sGaps := 0, sMissing := 0, pertSession := 0 }

/-- START_FRAME (R430): one START under the nonce presented, whose SEQ is 1. -/
def execStartFrame (fr : Frame) (s : State) : Ans :=
  .next (
    let x := s.island
    if !x.up then s
    else if x.presented && fr.seq = 1 && fr.mac = Config.feedMac x.nonce (frameWords tStart fr) then
      updIsl (tick1 s) (fun x => acceptFrame (openSession x (Config.freeWord s.choice).toNat) tStart fr)
    else updIsl s (fun x => arrive x tStart fr))

/-- TALLY_FRAME (R431). -/
def execTallyFrame (fr : Frame) (s : State) : Ans :=
  .next (if s.island.up then updIsl s (fun x => arrive x tTally fr) else s)

/-- FINAL_FRAME (R432). -/
def execFinalFrame (fr : Frame) (s : State) : Ans :=
  .next (if s.island.up then updIsl s (fun x => arrive x tFinal fr) else s)

/-- FEED_DOWN (R432): 10 ms without an accepted frame end the session, uncleanly unless its last frame was FINAL. -/
def execFeedDown (s : State) : Ans :=
  .next (
    let x := s.island
    if x.up && x.fed && x.lastAt + 10000 ≤ x.kept.clock then
      islFlag (updIsl s (fun x => { x with openS := false, fed := false, sessClean := x.lastFinal })) 5
    else s)

/-! ## Energy (R433) -/

/-- A rail's counter takes `n` µJ of the open interval. -/
def railAdd (x : Island) (i n : Nat) : Island :=
  { x with kept := { x.kept with energy := tmod x.kept.energy 0 i (· + n) }, energyOpen := tmod x.energyOpen 0 i (· + n) }

/-- The rails integrate continuously: what each took since its counter was last looked at is free until the interval's
reading closes it (log 115). -/
def accrue (s : State) : State :=
  updIsl (tick1 s) (fun x => (List.range 16).foldl (fun x i => railAdd x i (Config.pick s.choice i)) x)

/-- The rest of an interval's readings joins the counters: a reading holds what its rail had already taken. -/
def closeRails (x : Island) (rails : List Nat) : Island :=
  (List.range 16).foldl (fun x i => railAdd x i (rails.getD i 0 - tget x.energyOpen 0 i)) x

/-- A tenant's share of an interval; energy is a resource with a price of its own. -/
def addEnergy (x : Island) (tenant n : Nat) : Island :=
  let k := x.kept
  { x with kept := { k with
      counters := tmod k.counters 0 (tenant * 32 + 0x18) (· + n),
      charges := tmod k.charges 0 tenant (· + n * price x tenant 0x18) } }

/-- The energy of all rails, divided among the tenants by weight; tenant 0 takes the remainder. -/
def apportion (x : Island) (e : Nat) : Island :=
  let w := (x.weights.map Prod.snd).foldl (· + ·) 0
  let shares := if w = 0 then [] else (x.weights.filter (fun t => t.1 != 0)).map (fun t => (t.1, e * t.2 / w))
  let given := (shares.map Prod.snd).foldl (· + ·) 0
  let x := shares.foldl (fun x t => addEnergy x t.1 t.2) x
  { addEnergy x 0 (e - given) with weights := [] }

/-- ENERGY_INTERVAL (R433): the readings of one interval, rail by rail, once a millisecond of the island's clock. -/
def execEnergyInterval (rails : List Nat) (s : State) : Ans :=
  .next (
    if s.island.up && s.island.energyAt + 1000 ≤ s.island.kept.clock then
      updIsl s (fun x =>
        let x := closeRails x rails
        let e := (x.energyOpen.map Prod.snd).foldl (· + ·) 0
        apportion { x with energyOpen := [], energyAt := x.kept.clock } e)
    else s)

/-! ## Sealed storage (R442, R503) -/

/-- ISLAND_COMMIT: once a second. -/
def execIslandCommit (s : State) : Ans :=
  .next (
    let x := s.island
    if x.up && x.committed.clock + 1000000 ≤ x.kept.clock then updIsl (accrue s) (fun x => { x with committed := x.kept })
    else s)

/-- ISLAND_RAIL_FALL: the final commit, complete where the hold-up sufficed. -/
def execIslandRailFall (complete : Bool) (s : State) : Ans :=
  .next (
    if s.island.up then
      updIsl (accrue s) (fun x => { x with
        up := false, openS := false, fed := false, presented := false, inService := false, commitOk := complete,
        committed := if complete then x.kept else x.committed })
    else s)

/-- ISLAND_START: from the last commit; UNCLEAN where the final one was not complete. -/
def execIslandStart (s : State) : Ans :=
  .next (
    if s.island.up then s
    else
      let s := updIsl s (fun x => { x with
        up := true, kept := x.committed, sticky := if x.commitOk then 0 else put 1 7, sessClean := false, last := 0, key := 0,
        sMacFails := 0, sReplays := 0, sGaps := 0, sMissing := 0, pertSession := 0, ring := [], weights := [], energyOpen := [],
        energyAt := x.committed.clock, subNs := 0, snap := none, snapAt := none, tariffBuf := [], bundleBuf := [] })
      { s with boot := { s.boot with asyGood := true } })

/-! ## The seal (R435, R436) -/

/-- Kinds of seal events, as the model numbers them (DESIGN CHOICE, log 57). -/
def kOpen : Nat := 1
def kClose : Nat := 2
def kChange : Nat := 3
def kReject : Nat := 4

/-- An event joins the log while it has room. -/
def sealNote (x : Island) (kind : Nat) (detail : List Byte) : Island :=
  if x.sealLog.length ≥ 1024 then x
  else { x with sealLog := x.sealLog ++ [{ clock := x.kept.clock, count := x.sealCount, kind := kind, detail := detail }] }

/-- SEAL_OPEN. -/
def execSealOpen (s : State) : Ans :=
  .next (
    if s.island.up && !s.island.inService then
      updIsl s (fun x =>
        let x := { x with sealCount := min (2 ^ 32 - 1) (x.sealCount + 1), inService := true, logFull := x.logFull || decide (x.sealLog.length ≥ 1024) }
        sealNote x kOpen [])
    else s)

/-- SEAL_CLOSE. -/
def execSealClose (s : State) : Ans :=
  .next (
    if s.island.up && s.island.inService then updIsl s (fun x => { sealNote x kClose [] with inService := false }) else s)

end Sys2Proof.Machine
end

