-- ==== Sys2Proof/Machine/Shakeout.lean ====
section
/-!
DEFINITION. Chapter 22: unlock tokens, the perturbation registers, the TST window (R480 to R487).
-/
namespace Sys2Proof.Machine
open Sys2Proof

def updTst (s : State) (f : Tst → Tst) : State := { s with tst := f s.tst }

/-- Four fresh words (R482). -/
def freshNonce (s : State) (n : Nat) : List Word := (List.range 4).map (fun k => Config.freeWord (s.choice + n + k))

/-- A new TST_NONCE is drawn. -/
def drawNonce (s : State) : State := { updTst s (fun t => { t with nonce := freshNonce s 0 }) with choice := s.choice + 4 }

/-! ## Locking (R483) -/

def lockAll (s : State) : State :=
  chansFill (updTst s (fun t => { t with
    unlockEnd := none, allow := 0, delay := [], withhold := [], clamp := [], memlat := [], latCount := [] }))

/-- The registers are cleared once the duration has passed. -/
def lockDue (s : State) : State := if s.tst.unlockEnd.isSome && !(unlocked s) then lockAll s else s

/-! ## Tokens (R480 to R482) -/

/-- TST_UNLOCK: a physical function's write while the registers are locked begins the check; an address of 0 does nothing
(R493). -/
def wrUnlock (s : State) (a : Acc) (v : Word) : State :=
  if !(isPF a) || unlocked s || s.tst.check.isSome then tstFlag s 1
  else if fld v 55 6 = 0 then s
  else updTst s (fun t => { t with check := some (fld v 55 6 * 64), checkFirst := decide (s.sec.work = .idle) })

def execTstUnlock (a : Acc) (v : Word) (s : State) : Ans := .next (accDo s a (fun s => wrUnlock s a v))

/-- A token's fields (R481). -/
structure Token where
  ok : Bool
  serial : Word
  nonce : List Word
  duration : Nat
  allow : Nat

def tokenOf (l : List Byte) : Token :=
  let ws := bytesWords l
  let w := fun (k : Nat) => ws.getD k 0
  let d := fld (w 6) 31 0
  { ok := fld (w 0) 15 0 = 0x2001 && fld (w 0) 63 16 = 0 && fld (w 6) 63 32 = 0 && fld (w 7) 63 5 = 0
      && (List.range 8).all (fun k => w (8 + k) = 0) && 1 ≤ d && d ≤ 86400000,
    serial := w 1, nonce := [w 2, w 3, w 4, w 5], duration := d, allow := fld (w 7) 4 0 }

/-- The token's address: a buffer in T0 or T1. -/
def tokenPlace (s : State) (a n : Nat) : Bool := (inT0 a || area a = .t1) && withinTier s a n

/-- The signer's slot is the owner's and may manage keys. -/
def keysSlot (k : Nat) (x : KeySlot) : Bool := k < 8 && x.perms.toNat.testBit 3

/-- The result of a token check: format, then the signatures, then SERIAL and NONCE (log 58). -/
def tokenResult (s : State) (l : List Byte) : Nat :=
  let t := tokenOf (l.take 128)
  let g := signerOf (l.drop 128)
  if !t.ok || !g.ok then rBadFormat
  else
    let r := signedBy s (l.take 128) g keysSlot
    if r.1 != rOk then r.1
    else if t.serial != Config.serial || t.nonce != s.tst.nonce then 0x0C
    else rOk

/-- The bytes of a token with the longest signer block that fits its tier. -/
def tokenRead (s : State) (a : Nat) : Rd :=
  if !(tokenPlace s a (128 + signerFixed)) then ⟨false, [], s⟩
  else
    let h := anyRead s { cls := 0xF, unit := 0 } a (128 + signerFixed)
    if h.ok then
      let n := fld (bytesWord ((h.data.drop 448).take 8)) 31 0
      if n > 16384 || !(tokenPlace s a (128 + signerFixed + n)) then ⟨false, [], h.s⟩
      else anyRead h.s { cls := 0xF, unit := 0 } a (128 + signerFixed + n)
    else h

/-- The signing unit has come to the token: the check is serialised with the loader's commands (R482). -/
def tokenTurn (s : State) : Bool := s.tst.checkFirst || decide (s.sec.work = .idle)

/-- TOKEN_CHECK_DONE (R482). -/
def execTokenCheckDone (s : State) : Ans :=
  .next (
    match s.tst.check with
    | none => s
    | some a =>
      if !(tokenTurn s) then s
      else
      let r := tokenRead s a
      let c := if r.ok then tokenResult r.s r.data else rBadFormat
      let t := tokenOf (r.data.take 128)
      let s := updTst (drawNonce r.s) (fun x => { x with check := none, result := c })
      if c = rOk then
        ctrAdd (updTst (lockDue s) (fun x => { x with
          allow := t.allow, unlockEnd := some (s.tb.time + BitVec.ofNat 64 (t.duration * 1000000)) })) 0x9050 1
      else s)

/-! ## LOCK and the end of the duration (R483) -/

/-- LOCK. -/
def execLock (a : Acc) (v : Word) (s : State) : Ans :=
  .next (accDo s a (fun s => if bitAt v 0 then lockAll s else s))

/-- UNLOCK_EXPIRE. -/
def execUnlockExpire (s : State) : Ans := .next (lockDue s)

/-! ## The perturbation registers (R484, R485, R487) -/

/-- PERTURBED is set when a perturbation becomes active. -/
def markPert (before s : State) : State := if !(pertActive before) && pertActive s then tstFlag s 2 else s

/-- A write of a perturbation of kind `i` of ALLOW: `f` where it is unlocked and allowed. -/
def pertDo (s : State) (i : Nat) (f : State → State) : State :=
  if unlocked s && s.tst.allow.testBit i then markPert s (f s) else tstFlag s 1

def wrDelay (s : State) (k : Nat) (v : Word) : State :=
  pertDo s 0 (fun s => updTst s (fun t => { t with delay := tset t.delay k (v &&& mask 9 0) }))

/-- TST_DELAY. -/
def execTstDelay (a : Acc) (k : Fin 8) (v : Word) (s : State) : Ans := .next (accDo s a (fun s => wrDelay s k.val v))

def wrWithhold (s : State) (k : Nat) (v : Word) : State :=
  pertDo s 1 (fun s => updTst s (fun t => { t with withhold := tset t.withhold k (v &&& (mask 63 63 ||| mask 47 32 ||| mask 15 0)) }))

/-- TST_WITHHOLD. -/
def execTstWithhold (a : Acc) (k : Fin 16) (v : Word) (s : State) : Ans := .next (accDo s a (fun s => wrWithhold s k.val v))

def wrClamp (s : State) (k : Nat) (v : Word) : State :=
  pertDo s 2 (fun s => chansFill (updTst s (fun t => { t with clamp := tset t.clamp k (v &&& mask 15 0) })))

/-- TST_CLAMP. -/
def execTstClamp (a : Acc) (k : Fin 3) (v : Word) (s : State) : Ans := .next (accDo s a (fun s => wrClamp s k.val v))

def wrMemlat (s : State) (k : Nat) (v : Word) : State :=
  pertDo s 3 (fun s => updTst s (fun t => { t with memlat := tset t.memlat k (v &&& (mask 35 32 ||| mask 19 0)) }))

/-- TST_MEMLAT. -/
def execTstMemlat (a : Acc) (k : Fin 4) (v : Word) (s : State) : Ans := .next (accDo s a (fun s => wrMemlat s k.val v))

/-- One link is dropped for `us` µs (R485). -/
def dropLink (s : State) (p us : Nat) : State :=
  let s := if (portOf s p).up then linkDown s p 0 else s
  ctrAdd (updTst s (fun t => { t with drops := tset t.drops p (s.tb.time + BitVec.ofNat 64 (us * 1000)) })) 0x9052 1

/-- A drop of 0 µs drops nothing (R493). -/
def wrLinkdrop (s : State) (v : Word) : State :=
  pertDo s 4 (fun s =>
    if fld v 31 0 = 0 then s else
    ((List.range 16).filter (fun p => (fld v 63 48).testBit p)).foldl (fun s p => dropLink s p (fld v 31 0)) s)

/-- TST_LINKDROP. -/
def execTstLinkdrop (a : Acc) (v : Word) (s : State) : Ans := .next (accDo s a (fun s => wrLinkdrop s v))

/-- LINKDROP_END (R485): the link may train again. -/
def execLinkdropEnd (p : Fin 16) (s : State) : Ans :=
  .next (match tfind s.tst.drops p.val with
    | some t => if t.toNat ≤ now s then updTst s (fun x => { x with drops := tdel x.drops p.val }) else s
    | none => s)

/-! ## Registers -/

/-- REMAIN_MS. -/
def remainMs (s : State) : Nat :=
  match s.tst.unlockEnd with
  | some t => (t.toNat - now s) / 1000000
  | none => 0

def rdTstStatus (s : State) : Word :=
  put s.tst.result 56 ||| put (remainMs s % 2 ^ 32) 24 ||| put (if unlocked s then s.tst.allow else 0) 19
    ||| put (bit (pertActive s)) 4
    ||| put (bit (unlocked s)) 3 ||| s.tst.sticky ||| put (bit s.tst.check.isSome) 0

/-- PERTURBED stays set while a perturbation is active. -/
def wrTstStatus (s : State) (v : Word) : State :=
  updTst s (fun t => { t with sticky := w1c t.sticky v (if pertActive s then mask 1 1 else mask 2 1) })

/-- A locked register reads 0. -/
def rdTst (s : State) (o : Nat) : Word :=
  let i := fun (b : Nat) => (o - b) / 8
  if o = 0x08 then rdTstStatus s
  else if 0x10 ≤ o && o ≤ 0x28 then s.tst.nonce.getD (i 0x10) 0
  else if !(unlocked s) then 0
  else if 0x100 ≤ o && o < 0x140 then tget s.tst.delay 0 (i 0x100)
  else if 0x200 ≤ o && o < 0x280 then tget s.tst.withhold 0 (i 0x200)
  else if 0x300 ≤ o && o < 0x318 then tget s.tst.clamp 0 (i 0x300)
  else if 0x400 ≤ o && o < 0x420 then tget s.tst.memlat 0 (i 0x400)
  else 0

def wrTst (s : State) (a : Acc) (o : Nat) (v : Word) : State :=
  let i := fun (b : Nat) => (o - b) / 8
  if o = 0x00 then (if bitAt v 0 then lockAll s else s)
  else if o = 0x08 then wrTstStatus s v
  else if o = 0x30 then wrUnlock s a v
  else if 0x100 ≤ o && o < 0x140 then wrDelay s (i 0x100) v
  else if 0x200 ≤ o && o < 0x280 then wrWithhold s (i 0x200) v
  else if 0x300 ≤ o && o < 0x318 then wrClamp s (i 0x300) v
  else if 0x400 ≤ o && o < 0x420 then wrMemlat s (i 0x400) v
  else if o = 0x500 then wrLinkdrop s v
  else s

end Sys2Proof.Machine
end

