-- ==== Sys2Proof/Machine/Loader.lean ====
section
/-!
DEFINITION. Chapter 21: the bundle loader: code regions, bundles and fuses (R471 to R475).
-/
namespace Sys2Proof.Machine
open Sys2Proof

def updSec (s : State) (f : Sec → Sec) : State := { s with sec := f s.sec }

def regionOf (s : State) (i : Nat) : Region := tget s.sec.regions {} i

def setRegion (s : State) (i : Nat) (r : Region) : State := updSec s (fun x => { x with regions := tset x.regions i r })

def secBusy (s : State) : Bool := s.sec.work != .idle

/-- A command ends with a RESULT, and counter 0x9040 passes it (R471). -/
def secEnd (s : State) (result : Nat) : State :=
  ctrAdd (updTst (updSec s (fun x => { x with result := result, work := .idle })) (fun t => { t with checkFirst := true })) 0x9040 1

/-- The signing unit has come to the command: a token check that began before it ends first (R482). -/
def secTurn (s : State) : Bool := s.tst.check.isNone || !s.tst.checkFirst

/-- The loader among the agents: it holds no cache. -/
def loaderWho : Who := { cls := 0xF, unit := 0 }

/-! ## Reading a bundle (R472) -/

/-- `n` bytes at `a` lie in T0, T1 or T2. -/
def srcOk (s : State) (a n : Nat) : Bool := a % 64 = 0 && inNode a && withinTier s a n

/-- The bytes of the signer block that follows `n` bytes of a bundle at `a`; none where it cannot be read or has no right size. -/
def signerLen (s : State) (a n : Nat) : Nat × State :=
  if !(srcOk s a (n + signerFixed)) then (0, s)
  else
    let y := anyRead s loaderWho (a + n) signerFixed
    let k := fld (bytesWord ((y.data.drop 320).take 8)) 31 0
    (if !y.ok || k > 16384 || !(srcOk y.s a (n + signerFixed + k)) then 0 else signerFixed + k, y.s)

/-- The bundle at `a`; none where its header or payload does not lie there or cannot be read. -/
def readBundle (s : State) (a : Nat) : Option Bundle × State :=
  if !(srcOk s a 128) then (none, s)
  else
    let x := anyRead s loaderWho a 128
    let n := 128 + (bhead x.data).psize
    if !x.ok || !(srcOk x.s a n) then (none, x.s)
    else
      let y := signerLen x.s a n
      let z := anyRead y.2 loaderWho a (n + y.1)
      (if z.ok then some (bundleOf z.data) else none, z.s)

/-- The header of a program: it names a range, and is judged after the copy (R472). -/
def progHead (h : BHead) : Bool := h.kind = 1

/-- A program's header at SRC, as the loader sees it when the command begins. -/
def peekHead (s : State) (a : Nat) : Option BHead :=
  if srcOk s a 128 then
    let x := anyRead s loaderWho a 128
    if x.ok && progHead (bhead x.data) then some (bhead x.data) else none
  else none

/-! ## Code regions -/

def unitsFor (n : Nat) : Nat := (n + 65535) / 65536

/-- Why a program cannot have region `i` at `dst`, if it cannot: the region or the range is taken, or the range lies outside
one tier (log 58). -/
def regionRefuse (s : State) (i dst n : Nat) : Nat :=
  let size := unitsFor n * 65536
  if (regionOf s i).units != 0 then rRegion
  else if dst % 65536 != 0 || !(inNode dst) || !(withinTier s dst size) then rBadAddr
  else if s.sec.regions.any (fun e => e.2.units != 0 && overlaps e.2.base (e.2.units * 65536) dst size)
      || (s.boot.staged && overlaps stagingBase (2 ^ 24) dst size) then rRegion
  else rOk

/-- The range of a region is zeroed and freed. -/
def freeRegion (s : State) (i : Nat) : State :=
  let r := regionOf s i
  setRegion (zeroLive s loaderWho r.base (r.units * 65536)) i {}

/-! ## Accepting bundles (R469, R475) -/

/-- SET_FLOOR raises the floor of the kind. -/
def raiseFloor (s : State) (h : BHead) : State :=
  if h.setFloor then updSec s (fun x => { x with floors := tmod x.floors 0 h.kind (fun f => max f h.svn.toNat) }) else s

def headHash (b : Bundle) : BitVec 384 := Config.sha384 b.head

/-- A program's payload is copied into its reserved range; it is accepted, or the range is zeroed and freed. -/
def loadProgram (s : State) (i : Nat) (b : Bundle) : State :=
  let r := regionOf s i
  let s := rangeTurn (invalidateExt s r.base b.payload.length) r.base b.payload.length
  let f := footBytes s loaderWho r.base b.payload
  let s := tierWrite (tierTouch f.2 0 ((tierOf r.base).getD 0) f.1.length) r.base f.1
  let c := checkBundle s { b with payload := f.1 }
  if c.1 = rOk then
    secEnd (raiseFloor (setRegion s i { r with
      valid := true, slot := c.2, users := [], version := b.h.version, svn := b.h.svn, hash := headHash b }) b.h) rOk
  else secEnd (freeRegion s i) c.1

def heldOf (b : Bundle) (slot : Nat) : Held :=
  { target := b.h.target, slot := slot, version := b.h.version, svn := b.h.svn, hash := headHash b, payload := b.payload }

/-- The record of an enrolment: slot, hash, permissions. -/
def enrolSlot (l : List Byte) : Nat := fld (bytesWord (l.take 8)) 3 0
def enrolKey (l : List Byte) : KeySlot :=
  { hash := BitVec.ofNat 384 (leNat ((l.drop 8).take 48)), programmed := true,
    perms := BitVec.ofNat 4 (fld (bytesWord ((l.drop 56).take 8)) 3 0) }

/-- An owner slot is programmed: only one that never was, since fuses are blown once (log 62); its revocation fuse stays as it
is. -/
def enrol (s : State) (l : List Byte) : Nat × State :=
  let k := enrolSlot l
  if k ≥ 8 then (rBadFormat, s)
  else if (slotOf s k).programmed then (rInUse, s)
  else (rOk, updSec (updSlot s k (fun x => { enrolKey l with revoked := x.revoked })) (fun x => { x with everOwner := true }))

/-- The revocation fuse of a slot is blown. -/
def revoke (s : State) (w : Word) : Nat × State :=
  if bitAt w 3 then
    if fld w 2 0 > 1 then (rBadFormat, s) else (rOk, updSlot s (8 + fld w 2 0) (fun x => { x with revoked := true }))
  else (rOk, updSlot s (fld w 2 0) (fun x => { x with revoked := true }))

/-- A verified bundle other than a program takes effect; up to 64 overlays are held, one for each target. -/
def accept (s : State) (b : Bundle) (slot : Nat) : Nat × State :=
  match b.h.kind with
  | 2 => (rOk, placePack (updSec s (fun x => { x with pack := some (heldOf b slot) })))
  | 3 =>
    let l := s.sec.overlays.filter (fun o => o.target != b.h.target)
    if l.length ≥ 64 then (rExhausted, s) else (rOk, updSec s (fun x => { x with overlays := l ++ [heldOf b slot] }))
  | 4 => enrol s b.payload
  | _ => revoke s (bytesWord (b.payload.take 8))

/-- The loader's own store: 512 KiB. -/
def storeSize : Nat := 512 * 1024

/-- The end of a LOAD (R472). -/
def endLoad (s : State) (i src dst : Nat) (held : Bool) : State :=
  let fail := fun (s : State) (c : Nat) => secEnd (if held then freeRegion s i else s) c
  if !(srcOk s src 128) then fail s rBadAddr
  else
    let x := readBundle s src
    match x.1 with
    | none => fail x.2 rBadFormat
    | some b =>
      if progHead b.h then
        if held && unitsFor b.h.psize = (regionOf x.2 i).units then loadProgram x.2 i b
        else fail x.2 (if held then rBadFormat else
          let c := regionRefuse x.2 i dst b.h.psize
          if c = rOk then rRegion else c)
      else if !(bundleKinds.contains b.h.kind) || decide (b.h.psize > storeSize) then fail x.2 rBadFormat
      else
        let c := checkBundle x.2 b
        if c.1 != rOk then fail x.2 c.1
        else
          let y := accept x.2 b c.2
          fail (if y.1 = rOk then raiseFloor y.2 b.h else y.2) y.1

/-- The end of an ENROLL_FIRST (R475). -/
def endEnrol (s : State) (src : Nat) : State :=
  if !(srcOk s src 64) then secEnd s rBadAddr
  else if s.sec.everOwner then secEnd s rNotPermitted
  else
    let x := anyRead s loaderWho src 64
    if !x.ok then secEnd x.s rBadFormat
    else
      let y := enrol x.s x.data
      secEnd y.2 y.1

/-- A power loss during a fuse write leaves the fuses blown or not (R475). -/
def fuseCut (s : State) : Sec :=
  let done := fun (x : Sec) => { s.sec with slots := x.slots, everOwner := x.everOwner }
  if Config.pick s.choice 6 % 2 = 0 then s.sec
  else match s.sec.work with
    | .enrollFirst src => done (endEnrol s src).sec
    | .load i src dst held => done (endLoad s i src dst held).sec
    | _ => s.sec

end Sys2Proof.Machine
end

