-- ==== Sys2Proof/Machine/Boot.lean ====
section
/-!
DEFINITION. Chapters 20 and 24: rails, the power-up sequence, the reset scopes (R444 to R455, R498, R502).
-/
namespace Sys2Proof.Machine
open Sys2Proof

def updBoot (s : State) (f : Boot → Boot) : State := { s with boot := f s.boot }

/-! ## Rails (R444) -/

/-- The rails of orders 3 to 10. -/
def railOrder : List Rail := [.core, .nt, .hub, .vpp, .hbm, .vddq, .sds, .io]

/-- The order number of a rail that the sequence enables. -/
def railNum (x : Rail) : Nat := railOrder.findIdx (fun y => y = x) + 3

/-- STATE values (R446). -/
def stRails : Nat := 1
def stFuses : Nat := 2
def stReady : Nat := 7
def stFail : Nat := 0xF

/-- The next rail's enable pin is driven once every earlier rail is good. -/
def nextRail (s : State) : State :=
  match railOrder.find? (fun x => !(s.boot.railsEn.contains x)) with
  | some x =>
    if s.boot.railsEn.all (fun y => s.boot.railsGood.contains y) then
      updBoot s (fun b => { b with railsEn := b.railsEn ++ [x] })
    else s
  | none => s

def railsUp (s : State) : Bool := railOrder.all (fun x => s.boot.railsGood.contains x)

/-- RAIL_GOOD: the power-good input of an enabled rail rises; VDD_AON is the board's own (R444). -/
def execRailGood (x : Rail) (s : State) : Ans :=
  .next (
    if x = .aon then updBoot s (fun b => { b with aonGood := true })
    else if s.boot.state = stRails && s.boot.railsEn.contains x && !(s.boot.railsGood.contains x) then
      nextRail (updBoot s (fun b => { b with railsGood := b.railsGood ++ [x] }))
    else s)

/-- The sequence stops in FAIL (R448). -/
def bootFails (s : State) (step cause detail : Nat) : State :=
  updBoot s (fun b => { b with
    state := stFail, fail := true, failStep := step, failCause := cause, failDetail := detail, scope := none, entered := false })

/-- RAIL_TIMEOUT (R448): the enabled rail is not good within its bound. -/
def execRailTimeout (s : State) : Ans :=
  .next (
    if s.boot.state = stRails then
      match s.boot.railsEn.find? (fun x => !(s.boot.railsGood.contains x)) with
      | some x => bootFails s 1 1 (railNum x)
      | none => s
    else s)

/-! ## Entering a scope (R451 to R453) -/

def scopeRank : ResetScope → Nat
  | .warm => 0
  | .cold => 1
  | .power => 2

/-- SCOPE_LAST's value. -/
def scopeCode : ResetScope → Nat
  | .power => 0
  | .cold => 1
  | .warm => 2

/-- A POWER scope still holds the node, whose exit waits for the board's rails and the reset pin (R451). -/
def powerHeld (s : State) : Bool := s.boot.state = stRails && !(s.boot.aonGood && s.boot.asyGood && s.boot.rstN)

/-- A cause enters a scope; of two in progress the wider wins. -/
def enterScope (s : State) (sc : ResetScope) (cause : Nat) : State :=
  let go := updBoot s (fun b => { b with scope := some (sc, cause), entered := false })
  match s.boot.scope with
  | some (old, _) => if scopeRank old < scopeRank sc then go else s
  | none => if powerHeld s && sc != .power then s else go

/-- An orderly power-down (R445): NODE_RST_N has been low for 100 µs, and the rail is the last of those still up. The
microseconds are the island's, since the timebase stands still in COLD (log 59). -/
def orderly (s : State) (x : Rail) : Bool :=
  !s.boot.rstN && s.boot.entered && s.boot.rstLowAt + 100 ≤ s.island.kept.clock && s.boot.railsGood.getLast? = some x
    && (match s.boot.scope with | some (.cold, _) => true | _ => false)

/-- RAIL_PG_LOSS (R445, R451, R498): a good rail leaves its range. With VDD_AON a held thermal trip ends. -/
def execRailPgLoss (x : Rail) (s : State) : Ans :=
  .next (
    if x = .aon then
      if s.boot.aonGood then
        enterScope (updBoot s (fun b => { b with aonGood := false, tripN := true, tripHold := false })) .power 0
      else s
    else if orderly s x then
      updBoot s (fun b => { b with railsGood := b.railsGood.filter (fun y => y != x), state := stRails })
    else if s.boot.railsGood.contains x then
      enterScope (updBoot s (fun b => { b with railsGood := b.railsGood.filter (fun y => y != x) })) .power 0
    else s)

/-- NODE_RST_N_LOW (R451). -/
def execNodeRstNLow (s : State) : Ans :=
  .next (updBoot (enterScope s .cold 1) (fun b => { b with
    rstN := false, rstLowAt := if b.rstN then s.island.kept.clock else b.rstLowAt }))

/-- NODE_RST_N_HIGH (R451, R502): low and then high again, it also ends a held thermal trip. -/
def execNodeRstNHigh (s : State) : Ans :=
  .next (if s.boot.rstN then s else updBoot s (fun b => { b with rstN := true, tripHold := false, tripN := true }))

/-- VDD_ASY_LOSS (R451): a COLD scope while the other rails are up. -/
def execVddAsyLoss (s : State) : Ans :=
  .next (updBoot (if railsUp s then enterScope s .cold 4 else s) (fun b => { b with asyGood := false }))

/-- A sensor has reached its trip point (R502), in quarter degrees. -/
def tripsAt (src : ThermSource) (t : Int) : Bool :=
  match src with
  | .compute => t ≥ 480
  | .nearTier => t > 440
  | .hub => t ≥ 460
  | .hbm => t ≥ 420

/-- THERMAL_TRIP (R502). -/
def execThermalTrip (src : ThermSource) (tempQc : BitVec 16) (s : State) : Ans :=
  .next (
    if tripsAt src tempQc.toInt then
      enterScope (updBoot s (fun b => { b with tripN := false, tripHold := true })) .cold 3
    else s)

/-- A write of BOOT_RESET (R452). -/
def wrBootReset (s : State) (a : Acc) (v : Word) : State :=
  let sc := fld v 1 0
  if isPF a && fld v 63 48 = 0xB007 && (sc = 1 || sc = 2) then enterScope s (if sc = 1 then .cold else .warm) 2
  else bootFlag s 4

/-- BOOT_RESET. -/
def execBootReset (a : Acc) (v : Word) (s : State) : Ans := .next (accDo s a (fun s => wrBootReset s a v) true)

/-! ## What a scope leaves (R453, R454) -/

/-- A unit through a WARM reset: retired units stay so and keep their spares, stand-ins end. -/
def unitWarm (x : UnitSt) : UnitSt := if x.mode = .retired then { mode := .retired, spare := x.spare } else {}

/-- What fuses and the monotonic store keep; the bottom tree, and the calibration of the HBM and the ONFI channels with the
overlays applied to it, live through WARM alone (R454, R475, R477). -/
def secKept (x : Sec) (warm : Bool) : Sec :=
  { slots := x.slots, everOwner := x.everOwner, floors := x.floors, topLeaf := x.topLeaf,
    active := if warm then x.active.filter (fun e => e.1 / 2 ^ 28 = 0xB || e.1 / 2 ^ 28 = 7) else [],
    bottomLeaf := if warm then x.bottomLeaf else 0, bottomLive := warm && x.bottomLive }

/-- The log's register copies and SEQ (R413). -/
def errKept (x : ErrLog) : ErrLog := { recs := x.recs.take 64, written := x.written, ringFrom := x.written + 1 }

/-- The pins and rails, and what BOOT_NODE_STATUS keeps of the entry. -/
def bootKept (b : Boot) (sc : ResetScope) (cause : Nat) : Boot :=
  let warm := sc = .warm
  let rails := sc != .power
  { scopeLast := scopeCode sc, causeLast := cause, state := if rails && railOrder.all (fun x => b.railsGood.contains x) then stFuses else stRails,
    degraded := warm && b.degraded, railsEn := if rails then b.railsEn else [], railsGood := if rails then b.railsGood else [],
    asyGood := b.asyGood, aonGood := b.aonGood, rstN := b.rstN, rstLowAt := b.rstLowAt, tripN := b.tripN,
    tripHold := b.tripHold,
    scope := if rails then some (sc, cause) else none, entered := true,
    chSpares := if warm then b.chSpares else [], lostSpares := if warm then b.lostSpares else [] }

/-- The tally cache waits for the final sequence, unless the node or the island has lost its supply (R432). -/
def feedKept (f : Feed) (final : Bool) : Feed := if final then { f with sticky := 0 } else {}

/-- The state that the entry of a scope leaves: every block at its reset values but for what R454 keeps. -/
def scopeState (s : State) (sc : ResetScope) (cause : Nat) : State :=
  let warm : Bool := sc = .warm
  { pending := s.pending, choice := s.choice, out := s.out,
    mem := if warm then warmMem s else {},
    tb := if warm then { time := s.tb.time, released := s.tb.released } else {},
    seqs := if warm then (s.seqs.filter (fun e => e.2.retired)).map (fun e => (e.1, { retired := true })) else [],
    units := if warm then s.units.map (fun e => (e.1, unitWarm e.2)) else [],
    fle := s.fle.map (fun e => (e.1, fleReset e.2)),
    host := if warm then s.host.map (fun e => (e.1, { dead := e.2.dead })) else [],
    hws := { ports := if warm then s.hws.ports.map (fun e => (e.1, { spare := e.2.spare, dead := e.2.dead })) else [] },
    err := if sc = .power then {} else errKept s.err,
    boot := bootKept s.boot sc cause,
    sec := secKept (if sc = .power then fuseCut s else s.sec) warm,
    tst := { nonce := freshNonce s 1 },
    feed := feedKept s.feed (sc != .power && cause != 4),
    island := s.island }

/-- SCOPE_ENTRY (R453). -/
def execScopeEntry (s : State) : Ans :=
  .next (
    match s.boot.scope with
    | some (sc, cause) => if s.boot.entered then s else { scopeState s sc cause with choice := s.choice + 5 + (abandonedExts s).length }
    | none => s)

/-! ## The power-up sequence (R446, R448) -/

/-- A channel that failed calibration or read-back (R448): 512 + s is the spare of stack s. -/
def chanFails (s : State) (c : Nat) : State :=
  if c ≥ 512 then updBoot s (fun b => { b with lostSpares := sadd b.lostSpares (unitKey 8 c) })
  else
    let k := c / 32
    if tfind s.boot.chSpares k = none && !(s.boot.lostSpares.contains (unitKey 8 (512 + k))) then
      updBoot s (fun b => { b with chSpares := tset b.chSpares k c })
    else
      let s := { s with mem := { s.mem with retiredCh := sadd s.mem.retiredCh c } }
      updBoot (updUnit s 8 c (fun x => { x with mode := .retired })) (fun b => { b with degraded := true })

/-- A hub whose die-to-die link failed goes with its channels, their spares, its flash engine and its Hawser ports. -/
def hubFails (s : State) (h : Nat) : State :=
  let s := (List.range 128).foldl (fun s k =>
    let c := h * 128 + k
    updUnit { s with mem := { s.mem with retiredCh := sadd s.mem.retiredCh c } } 8 c (fun x => { x with mode := .retired })) s
  let s := (List.range 4).foldl (fun s k =>
    updBoot (updPort s (h * 4 + k) (fun x => { x with dead := true })) (fun b => { b with
      lostSpares := sadd b.lostSpares (unitKey 8 (512 + h * 4 + k)) })) s
  updBoot (updUnit s 7 h (fun x => { x with mode := .retired })) (fun b => { b with degraded := true })

/-- Step 4: calibration; spare channels first, so that none that failed takes a number. -/
def calibrate (s : State) (r : PowerReport) : State :=
  let s := (r.hubs.filter (fun h => h < 4)).foldl hubFails s
  let s := (r.chans.filter (fun c => 512 ≤ c && c < 528)).foldl chanFails s
  let s := (r.chans.filter (fun c => c < 512)).foldl chanFails s
  let s := (r.lanes.filter (fun e => e.1 < 16 && e.2 != 0)).foldl (fun s e =>
    hwsFlag (updPort s e.1 (fun x => { x with spare := true })) 1) s
  r.ports.foldl (fun s p => updHost (updBoot s (fun b => { b with degraded := true })) p (fun h => { h with dead := true })) s

/-- A free spare takes the number of a unit that failed its self-test, else the unit is retired. -/
def replaceUnit (s : State) (cls u : Nat) : State :=
  match freeSpare s cls with
  | some n => updUnit s cls u (fun x => { x with mode := .retired, spare := .mapped n })
  | none => updBoot (updUnit s cls u (fun x => { x with mode := .retired, spare := .none })) (fun b => { b with degraded := true })

/-- A unit or a spare that failed its self-test; a spare that had taken a number through a WARM reset is replaced itself. -/
def unitFails (s : State) (k : Nat) : State :=
  let cls := k / 1024
  let u := k % 1024
  if u ≥ unitCount cls then
    let w := spareOf s cls (u - unitCount cls)
    let s := updBoot s (fun b => { b with lostSpares := sadd b.lostSpares k })
    match w with
    | some v => replaceUnit (updUnit s cls v (fun x => { x with spare := .none })) cls v
    | none => s
  else if (unitOf s cls u).mode = .retired then s
  else replaceUnit s cls u

/-- ERR_UNIT_FAIL shows the units that are retired without replacement (R448). -/
def showRetired (s : State) : State :=
  let l := (s.units.filter (fun e => e.2.mode = .retired && e.2.spare = .none)).map Prod.fst
  updErr s (fun e => { e with unitFail := l.foldl sadd e.unitFail })

/-- Spares first, so that none that failed is mapped in. -/
def selfTest (s : State) (r : PowerReport) : State :=
  let l := r.units.filter (fun k => k / 1024 ≤ 8)
  let s := (l.filter (fun k => unitCount (k / 1024) ≤ k % 1024)).foldl unitFails s
  let s := (l.filter (fun k => k % 1024 < unitCount (k / 1024))).foldl unitFails s
  (r.seqs.filter (fun n => n < 64)).foldl (fun s n =>
    updBoot { s with seqs := tmod s.seqs {} n (fun q => { q with retired := true }) } (fun b => { b with degraded := true })) s

def allSeqsRetired (s : State) : Bool := (List.range 64).all (fun n => (tget s.seqs {} n).retired)

/-- Step 7: each bundle of the store is verified; a good one joins the staging area (R450), behind the ones before it
(log 59). -/
def stage (s : State) : List (List Byte) → Nat → State
  | [], _ => s
  | l :: r, at_ =>
    let b := bundleOf l
    if (checkBundle s b).1 = rOk && at_ + l.length ≤ stagingBase + 2 ^ 24 then
      let s := memSet s at_ l
      stage (updBoot s (fun x => { x with staged := true, bundlesOk := min 255 (x.bundlesOk + 1) })) r (at_ + (l.length + 63) / 64 * 64)
    else stage (updBoot s (fun x => { x with bundlesBad := min 255 (x.bundlesBad + 1) })) r at_

/-- Steps 5 to 8: T0 zero, self-tests, bundles, READY. -/
def finishSequence (s : State) (r : PowerReport) : State :=
  if !r.t0Ok then bootFails s 4 3 r.t0Unit
  else if !r.t0Test then bootFails s 5 3 r.t0Unit
  else
    let s := selfTest s r
    if allSeqsRetired s then bootFails s 5 4 0
    else
      let s := stage (showRetired s) r.bundles stagingBase
      updBoot s (fun b => { b with
        state := stReady, ready := true, readyPin := true, readyTime := s.tb.time, scope := none, entered := false })

/-- Nothing holds the node: its reset pin, the board's two rails, a thermal trip; the island presents its nonce. -/
def mayRun (s : State) : Bool :=
  s.boot.rstN && s.boot.asyGood && s.boot.aonGood && !s.boot.tripHold && s.island.up && s.island.presented

/-- Whatever the feed of the last session still holds goes out before START (R432). -/
def closeFeed (s : State) : State := if s.feed.linkUp then sendFinal s else s

/-- POWERUP_SEQUENCE (R446): in RAILS the first rail is enabled, or, with all of them good, steps 3 to 8 run; the exit of
COLD runs steps 3 to 8. Step 3 draws TST_NONCE (R482, log 10). -/
def execPowerupSequence (rep : PowerReport) (s : State) : Ans :=
  .next (
    let warm := match s.boot.scope with | some (.warm, _) => true | _ => false
    if !(mayRun s) || warm || (s.boot.scope.isSome && !s.boot.entered) then s
    else if s.boot.state = stRails && !(railsUp s) then nextRail s
    else if s.boot.state = stRails || s.boot.state = stFuses then
      if !rep.fuseOk then bootFails s 2 2 0
      else
        let s := startRail { s with
          tb := { s.tb with released := true }, tst := { s.tst with nonce := freshNonce s 0 }, choice := s.choice + 4 }
        let s := sendStart (closeFeed (updBoot s (fun b => { b with alive := true })))
        finishSequence (calibrate s rep) rep
    else s)

/-- WARM_EXIT (R454): the rail controller and the session restart, then steps 5 for T0, and 6 to 8. -/
def execWarmExit (rep : PowerReport) (s : State) : Ans :=
  .next (
    match s.boot.scope with
    | some (.warm, _) =>
      if s.boot.entered && mayRun s then
        finishSequence (sendStart (closeFeed (updBoot (startRail s) (fun b => { b with alive := true })))) rep
      else s
    | _ => s)

/-! ## Staging (R450) -/

def releaseStage (s : State) (v : Word) : State := if bitAt v 0 then updBoot s (fun b => { b with staged := false }) else s

/-- BOOT_STAGE_REL. -/
def execBootStageRel (a : Acc) (v : Word) (s : State) : Ans := .next (accDo s a (fun s => releaseStage s v) true)

/-! ## Registers (R465) -/

def rdNodeId : Word := put 0x9160 48 ||| put Config.grade.toNat 44 ||| put Config.stepping.toNat 32

def rdNodeStatus (s : State) : Word :=
  let b := s.boot
  put b.scopeLast 60 ||| put b.causeLast 56 ||| put b.bundlesOk 48 ||| put b.bundlesBad 40 ||| put b.state 8
    ||| put (bit b.staged) 5 ||| b.sticky &&& mask 4 4 ||| put (bit b.degraded) 3 ||| put (bit b.fail) 1 ||| put (bit b.ready) 0

def rdBootFail (s : State) : Word := put s.boot.failStep 60 ||| put s.boot.failCause 48 ||| put s.boot.failDetail 0

/-- BOOT_SPARE of a class. -/
def rdSpare (s : State) (cls : Nat) : Word :=
  (List.range (spareCount cls)).foldl (fun w k =>
    match spareOf s cls k with
    | some u => w ||| put (2048 + 1024 * bit (decide ((unitOf s cls u).spare = .standIn k)) + u) (12 * k)
    | none => w) (put (freeSpares s cls).length 48)

/-- The spare channel of a stack is free. -/
def chSpareFree (s : State) (k : Nat) : Bool :=
  tfind s.boot.chSpares k = none && !(s.boot.lostSpares.contains (unitKey 8 (512 + k)))

def rdChSpare (s : State) (k : Nat) : Word :=
  put (bit (chSpareFree s k)) 48 ||| (match tfind s.boot.chSpares k with | some c => put (2048 + c) 0 | none => 0)

end Sys2Proof.Machine
end

