-- ==== Sys2Proof/Machine/Coherence.lean ====
section
/-!
DEFINITION. Chapter 15: the directory slices (R336 to R346), atomics near and far (R56, R341 to R344).
-/
namespace Sys2Proof.Machine
open Sys2Proof

/-! ## Requesters (R332) -/

def isInsnCache (g : Nat) : Bool := g < 128 && g % 2 = 0

/-- The requester may ask for a line in M. -/
def holdsM (g : Nat) : Bool := (g < 128 && g % 2 = 1) || (128 ≤ g && g < 144)

def isAgent (g : Nat) : Bool := g < 152

/-- The line has a home: it lies in T0, T1 or T2 as mapped (R334). -/
def lineOk (s : State) (line : Nat) : Bool := inNode (line * 64) && mapped s (line * 64)

/-! ## Waiting at the home slice (R337, R345, R346) -/

/-- A request by `g` for a line: it waits behind a hold or an earlier request, or takes effect. -/
def dirRequest (s : State) (g line : Nat) (cmd : Instr) (f : State → State) (near : Bool := true) : State :=
  if !(lineOk s line) then s
  else if heldByOther s g line || s.dir.waiting.any (fun r => r.line = line) then
    { s with dir := { s.dir with
        waiting := s.dir.waiting ++ [{ agent := g, line := line, stamp := s.tb.time, cmd := cmd, near := near }] } }
  else f s

/-- Contention counter of an address: its number in its slice (R342). -/
def contIndex (a : Nat) : Nat := (a / 65536 % 1024) ^^^ (a / 64 % 1024)

def contKey (a : Nat) : Nat := homeSlice (a / 64) * 1024 + contIndex a

def contGet (s : State) (a : Nat) : Nat := tget s.dir.cont 0 (contKey a)

/-- An atomic by `g` reaches the home: its counter is raised where the line is M in another cache or another request for it
waits, and lowered elsewhere (R342). -/
def contMove (s : State) (g a : Nat) : State :=
  let line := a / 64
  let busy := (match dirGet s line with | some (.owned o) => o != g | _ => false)
    || s.dir.waiting.any (fun r => r.line = line)
  let n := contGet s a
  { s with dir := { s.dir with cont := tset s.dir.cont (contKey a) (if busy then min 3 (n + 1) else n - 1) } }

/-- Near or far (R342, R343). -/
def runsNear (s : State) (a : Nat) : Bool :=
  match atomMode s with
  | 1 => true
  | 2 => false
  | _ => decide (contGet s a ≥ 2)

/-- An atomic of a Sequencer's data cache. -/
def atomic (s : State) (w : Who) (a : Nat) (op : AmoOp) (dbl : Bool) (src cmp : Word) (r : Residue) : AtomEnd × State :=
  if runsNear s a then nearDo (lineTurn (contMove s w.agent a) w.agent (a / 64)) w a op dbl src cmp r
  else farDo (contMove s w.agent a) w a op dbl src cmp r

/-! ## Commands -/

/-- GETS. -/
def execGets (g : BitVec 8) (line : BitVec 56) (s : State) : Ans :=
  .next (if cacheLines g.toNat = 0 then s
    else dirRequest s g.toNat line.toNat (.gets g line) (getsEffect g.toNat line.toNat))

/-- GETM. -/
def execGetm (g : BitVec 8) (line : BitVec 56) (s : State) : Ans :=
  .next (if !(holdsM g.toNat) then s
    else dirRequest s g.toNat line.toNat (.getm g line) (getmEffect g.toNat line.toNat))

/-- PUTM: the owner's data goes to the tier and the entry becomes U. -/
def execPutm (g : BitVec 8) (line : BitVec 56) (s : State) : Ans :=
  let g := g.toNat
  let line := line.toNat
  .next (match cacheGet s g line with
    | some c => if c.modified then serveWaiting (dirDel (cacheDrop (writeBack s g line) g line) line) line else s
    | none => s)

/-- NC_READ. -/
def execNcRead (g : BitVec 8) (line : BitVec 56) (s : State) : Ans :=
  .next (if !(isAgent g.toNat) then s
    else dirRequest s g.toNat line.toNat (.ncRead g line) (ncReadEffect g.toNat line.toNat))

/-- NC_WRITE, within one line. -/
def execNcWrite (g : BitVec 8) (addr : BitVec 56) (data : List Byte) (s : State) : Ans :=
  .next (if !(isAgent g.toNat) || data.isEmpty || addr.toNat % 64 + data.length > 64 || protected_ s addr.toNat then s
    else dirRequest s g.toNat (addr.toNat / 64) (.ncWrite g addr data) (ncWriteEffect g.toNat addr.toNat data))

/-- INVALIDATE: a cache gives up its copy, a Modified one by writing it back once its hold has ended (R336, R339, R346). -/
def execInvalidate (g : BitVec 8) (line : BitVec 56) (s : State) : Ans :=
  let g := g.toNat
  let line := line.toNat
  .next (match cacheGet s g line with
    | none => s
    | some c =>
      if c.modified then
        if decide (now s < c.holdEnd) && !(s.dir.waiting.any (fun r => r.aged && r.line = line)) then s
        else serveWaiting (dirDel (cacheDrop (writeBack s g line) g line) line) line
      else
        match dirGet s line with
        | some (.shared l) =>
          let s := cacheDrop s g line
          if (sdel l g).isEmpty then dirDel s line else dirPut s line (.shared (sdel l g))
        | _ => cacheDrop s g line)

/-- NEAR_ATOMIC: an atomic reaches the home, and its counter moves before it waits there. A data cache's runs far where
ATOM_MODE or its counter has it so (R342, R343); another agent's runs near. -/
def execNearAtomic (g : BitVec 8) (addr : BitVec 56) (op : AmoOp) (dbl : Bool) (src cmp : Word) (r : Residue) (s : State) : Ans :=
  let a := addr.toNat
  let near := decide (g.toNat ≥ 128) || runsNear s a
  .next (if a % amoSize dbl != 0 || protected_ s a || !(isAgent g.toNat) || isInsnCache g.toNat then s
    else dirRequest (if lineOk s (a / 64) then contMove s g.toNat a else s) g.toNat (a / 64)
      (.nearAtomic g addr op dbl src cmp r) (atomicEffect near g.toNat a op dbl src cmp r) near)

/-- REQUEST_AGED (R345, R346): the line's hold becomes 0, and the request goes first. -/
def execRequestAged (g : BitVec 8) (line : BitVec 56) (stamp : Word) (s : State) : Ans :=
  let line := line.toNat
  .next (
    if decide (stamp.toNat + ageNs s < now s)
        && s.dir.waiting.any (fun r => r.agent = g.toNat && r.line = line && r.stamp = stamp && !r.aged) then
      let s := dirFlag s (homeSlice line) 0
      serveWaiting { s with dir := { s.dir with waiting := s.dir.waiting.map (fun r =>
        if r.agent = g.toNat && r.line = line && r.stamp = stamp then { r with aged := true } else r) } } line
    else s)

/-- HOLD_EXPIRE (R346). -/
def execHoldExpire (g : BitVec 8) (line : BitVec 56) (s : State) : Ans :=
  .next (match cacheGet s g.toNat line.toNat with
    | some c => if c.modified && decide (c.holdEnd ≤ now s) then serveWaiting s line.toNat else s
    | none => s)

/-! ## Registers (R349) -/

def wrDirCtl (s : State) (v : Word) : State :=
  { s with dir := { s.dir with ctl := v &&& (mask 47 16 ||| mask 1 0) } }

def rdDirStatus (s : State) (k : Nat) : Word :=
  put (s.dir.waiting.filter (fun r => r.aged && homeSlice r.line = k)).length 32 ||| tget s.dir.status 0 k

def wrDirStatus (s : State) (k : Nat) (v : Word) : State :=
  { s with dir := { s.dir with status := tmod s.dir.status 0 k (fun w => w1c w v (mask 2 0)) } }

end Sys2Proof.Machine
end

