-- ==== Sys2Proof/Machine/Commit.lean ====
section
/-!
DEFINITION. Chapter 09: the commit unit: update records, the recent-change table, the Sprue, versions (R196 to R219).
-/
namespace Sys2Proof.Machine
open Sys2Proof

def cuWho : Who := { cls := 0xE, unit := 0, agent := 151 }

def neverSeq : Nat := 2 ^ 48 - 1

def commitSeq (s : State) : Nat := (ctrGet s 0x9010).toNat

def horizon (s : State) : Nat := s.cu.horizon.toNat

/-! ## Reads and prepared writes of a batch (R202): nothing is written before everything is read -/

/-- A batch in preparation: the state its reads leave, the writes it prepares, each with its place in the order of R203,
and the slots that have a new recent-change entry. -/
structure Batch where
  s : State
  w : List (Nat × Nat × List Byte) := []
  made : List (Nat × Nat) := []

/-- A read that sees the batch's own prepared writes. -/
def bRead (x : Batch) (a n : Nat) : Option (List Byte) × Batch :=
  let r := nodeRead x.s cuWho a n
  if r.ok then (some (forward (x.w.map Prod.snd) a r.data), { x with s := r.s }) else (none, { x with s := r.s })

def bWrite (x : Batch) (k a : Nat) (l : List Byte) : Batch := { x with w := x.w ++ [(k, a, l)] }

/-- A codeword that the commit would write in part is uncorrectable: the record of it. -/
def bPart (x : Batch) (l : List (Nat × Nat)) : Bool × Batch :=
  match l.findSome? (fun e => uePart x.s e.1 e.2) with
  | none => (true, x)
  | some c => (false, { x with s := memErr x.s cuWho 4 c 0 })

/-! ## The structures of a shard context -/

structure Head where
  nch : Nat
  cap : Nat
  chlist : Nat
  bodyOff : Nat
  head : Nat
  tail : Nat

def headOf (l : List Byte) : Head :=
  let w := fun (k : Nat) => bytesWord ((l.drop (8 * k)).take 8)
  { nch := fld (w 0) 47 32, cap := fld (w 0) 31 0, chlist := fld (w 1) 55 0, bodyOff := fld (w 2) 55 0,
    head := (w 3).toNat, tail := (w 4).toNat }

def headOk (h : Head) : Bool := h.cap != 0 && 1 ≤ h.nch && h.nch ≤ 512

/-- What a record knows of its context: `rooted`, that its root could be read; `sized`, its parameter block too; `lost`, that one
of the structures could not be. -/
structure SCtx where
  vaddr : Nat
  haddr : Nat
  cur : Nat := 0
  frm : Nat := 0
  root : Root := rootOf []
  blog2 : Nat := 10
  p : DParam := dparamOf []
  h : Head := headOf []
  rooted : Bool := false
  sized : Bool := false
  lost : Bool := false

/-- A step of reading: a code that ends it, or a value, and the batch after. -/
inductive Got (α : Type) where
  | bad (code : Nat) (x : Batch)
  | ok (v : α) (x : Batch)

def Got.bind {α β : Type} (g : Got α) (f : α → Batch → Got β) : Got β :=
  match g with
  | .bad c x => .bad c x
  | .ok v x => f v x

def gRead (x : Batch) (a n : Nat) : Got (List Byte) :=
  let r := bRead x a n
  match r.1 with
  | some l => .ok l r.2
  | none => .bad 0x1F r.2

/-- A condition of the record, with the code that it gives where it fails. -/
def gNeed {α : Type} (b : Bool) (code : Nat) (x : Batch) (k : Got α) : Got α := if b then k else .bad code x

/-- The first of the codes whose condition fails, in the order given. -/
def gCodes {α : Type} (l : List (Bool × Nat)) (x : Batch) (k : Got α) : Got α :=
  match l.find? (fun e => e.1) with
  | some e => .bad e.2 x
  | none => k

/-- A structure of a context that a record needs: one that cannot be read is for the record to meet after BAD_SLOT and BAD_ADDR
(R202). -/
def gSeek (x : Batch) (z : SCtx) (a n : Nat) (f : List Byte → Batch → Got SCtx) : Got SCtx :=
  let r := bRead x a n
  match r.1 with
  | none => .ok { z with lost := true } r.2
  | some l => f l r.2

/-- The version slot and the current root of a context. -/
def readRoot (x : Batch) (z : SCtx) : Got SCtx :=
  gSeek x z z.vaddr 24 (fun v x =>
    let z := { z with cur := fld (bytesWord (v.take 8)) 55 0, frm := fld (bytesWord ((v.drop 16).take 8)) 47 0 }
    gNeed (inT1 x.s z.cur 64) 0x11 x (
      gSeek x z z.cur 64 (fun rb x => .ok { z with root := rootOf (bytesWords rb), rooted := true } x)))

/-- The header of a root's recent-change table (R205). -/
def readTable (x : Batch) (z : SCtx) : Got SCtx :=
  if !z.rooted then .ok z x
  else
    gNeed (inT1 x.s z.root.rct 64) 0x11 x (
      gSeek x z z.root.rct 64 (fun hb x =>
        let b := blog2Of (bytesWord (hb.take 8))
        gNeed (inT1 x.s z.root.rct (64 + 64 * 2 ^ b)) 0x11 x (.ok { z with blog2 := b } x)))

/-- The parameter block of a root, as its bytes give it. -/
def readParam (x : Batch) (z : SCtx) : Got SCtx :=
  if !z.rooted then .ok z x
  else
    gNeed (dpPlace x.s z.root.dparam) 0x11 x (
      gSeek x z z.root.dparam 64 (fun l x => .ok { z with p := dparamOf l, sized := true } x))

/-- The head record of a context (R208), where it has one. -/
def readHead (x : Batch) (z : SCtx) : Got SCtx :=
  if z.haddr = 0 then .ok z x
  else gSeek x z z.haddr 64 (fun hd x => gNeed (headOk (headOf hd)) 0x11 x (.ok { z with h := headOf hd } x))

/-- What a context's registers name. -/
def ctxOf (s : State) (c : Nat) : SCtx :=
  { vaddr := fld (tget s.cu.vslot 0 c) 55 0, haddr := fld (tget s.cu.sprue 0 c) 55 0 }

/-- The structures that a record of context `c` needs (BAD_CTX of R202); a record that needs no Sprue has its context's head
record held to R208 where there is one. -/
def readCtx (x : Batch) (c : Nat) (sprue : Bool) : Got SCtx :=
  let z := ctxOf x.s c
  gNeed (z.vaddr != 0 && inT1 x.s z.vaddr 32 && (z.haddr != 0 || !sprue) && (z.haddr = 0 || inT1 x.s z.haddr 64)) 0x11 x (
    (readRoot x z).bind (fun z x => (readTable x z).bind (fun z x => (readParam x z).bind (fun z x => readHead x z))))

def entrySize (p : DParam) : Nat := (32 + p.cbytes + 31) / 32 * 32

/-- The address of the Sprue entry at position `pos` (R208). -/
def entryPlace (x : Batch) (p : DParam) (h : Head) (pos : Nat) : Got Nat :=
  let i := pos % h.cap
  let c := h.chlist + 2 * (i % h.nch)
  gNeed (inT1 x.s c 2) 0x11 x (
    (gRead x c 2).bind (fun l x =>
      let a := t2Base + leNat l * 2 ^ 32 + h.bodyOff + i / h.nch * entrySize p
      gNeed (leNat l < 512 && inT2 x.s a (entrySize p)) 0x11 x (.ok a x)))

/-- A Sprue entry (R209). -/
structure SprueEntry where
  gen : Nat
  del : Nat
  res : Nat
  slot : Nat

def sprueOf (l : List Byte) : SprueEntry :=
  let w := fun (k : Nat) => bytesWord ((l.drop (8 * k)).take 8)
  { gen := fld (w 0) 55 48, del := fld (w 1) 47 0, res := fld (w 2) 47 0, slot := fld (w 3) 31 0 }

def sprueBytes (p : DParam) (gen q slot : Nat) (code : List Byte) : List Byte :=
  let l := wordBytes (put gen 48 ||| put q 0) ++ wordBytes (put neverSeq 0) ++ wordBytes (put neverSeq 0)
    ++ wordBytes (put slot 0) ++ code
  l ++ List.replicate (entrySize p - l.length) 0

/-- The entry that a record names: inside HEAD to TAIL, with SLOT and GEN; none where it is not found. -/
def namedEntry (x : Batch) (c : SCtx) (w3 : Word) (slot gen : Nat) : Got (Option (Nat × SprueEntry)) :=
  let idx := fld w3 23 0
  let h := c.h
  let pos := h.head + (idx + h.cap - h.head % h.cap) % h.cap
  if bitAt w3 63 && idx < h.cap && pos < h.tail then
    (entryPlace x c.p h pos).bind (fun a x =>
      (gRead x a (entrySize c.p)).bind (fun l x =>
        let e := sprueOf l
        .ok (if e.slot = slot && e.gen = gen then some (a, e) else none) x))
  else .ok none x

/-! ## The recent-change table (R205, R206) -/

structure RctEntry where
  idx : Nat
  m : Bool
  v : Bool
  slot : Nat
  seq : Nat

def rctOf (b : List Byte) : RctEntry :=
  let w := bytesWord (b.take 8)
  { idx := fld w 63 40, m := bitAt w 35, v := bitAt w 34, slot := fld w 31 0, seq := fld (bytesWord (b.drop 8)) 47 0 }

def rctLive (s : State) (e : RctEntry) : Bool := e.v && horizon s < e.seq

def rctBytes (idx : Nat) (m : Bool) (prior slot q : Nat) : List Byte :=
  wordBytes (put idx 40 ||| put (bit m) 35 ||| put 1 34 ||| put prior 32 ||| put slot 0) ++ wordBytes (put q 0)

/-- The entries of a bucket that are not live, of which the unit takes any (R206). -/
def rctFree (s : State) (es : List RctEntry) : List Nat :=
  (List.range 4).filter (fun k => match es[k]? with | some e => !(rctLive s e) | none => false)

/-- The slot would hold a third live entry, or a second one of this batch. -/
def rctBusy (x : Batch) (rct slot : Nat) (es : List RctEntry) : Bool :=
  x.made.contains (rct, slot) || (es.filter (fun e => rctLive x.s e && e.slot = slot)).length ≥ 2

/-- A new entry joins the bucket, which is written as one unit. -/
def rctPut (x : Batch) (rct slot a : Nat) (bucket new : List Byte) (free : List Nat) : Batch :=
  let k := free.getD (Config.pick x.s.choice 0 % max free.length 1) 0
  let y := bWrite { x with s := tick1 x.s, made := x.made ++ [(rct, slot)] } 2 a (splice bucket (16 * k) new)
  y

/-! ## Update records (R200 to R202) -/

/-- A reserved bit, a node-written field, or a field that must be 0 for the operation is not 0. -/
def recReserved (op : Nat) (w : List Word) : Bool :=
  let m : List Word := [
    mask 51 33 ||| mask 31 0, mask 63 0,
    mask 63 44 ||| (if op = 3 then 0 else mask 43 40),
    if op = 1 || op = 5 || op = 6 then mask 63 0 else mask 62 24,
    mask 63 56 ||| (if op = 1 || op = 6 then 0 else mask 55 0),
    mask 63 48 ||| (if op = 4 then 0 else mask 47 0), mask 63 0, mask 63 0]
  (List.range 8).any (fun k => (w.getD k 0 &&& m.getD k 0) != 0)

/-- What a record leaves: its code, the Sprue index of an INSERT, the batch after. -/
structure Done where
  code : Nat
  idx : Option Nat := none

def okDone : Done := { code := 0 }

/-- VERSION. -/
def opVersion (x : Batch) (c : SCtx) (w : List Word) (q : Nat) : Got Done :=
  let new := fld (w.getD 4 0) 55 0
  gNeed (new % 64 = 0 && inT1 x.s new 64) 0x1C x (
    (gRead x new 64).bind (fun l x =>
      let place := (rootOf (bytesWords l)).dparam
      gNeed (dpPlace x.s place) 0x1C x (
        (gRead x place 64).bind (fun pl x =>
          let p := dparamOf pl
          gNeed (!c.sized || (p.shard = c.p.shard && p.cbytes = c.p.cbytes)) 0x1C x (
            let a := bPart x [(c.vaddr, 24)]
            gNeed (a.1 && !c.lost) 0x1F a.2 (
              gNeed (c.frm ≤ horizon x.s) 0x1B a.2 (
                .ok okDone (bWrite (bWrite (bWrite a.2 8 (c.vaddr + 8) (wordBytes (put c.cur 0)))
                  8 (c.vaddr + 16) (wordBytes (put q 0))) 8 c.vaddr (wordBytes (put new 0))))))))))

/-- A slot's generation byte, read where the operation uses it. -/
def gGen (x : Batch) (ga : Nat) : Got Nat := (gRead x ga 1).bind (fun l x => .ok (leNat l) x)

/-- INSERT, the slot's state read. -/
def opInsert (x : Batch) (c : SCtx) (w : List Word) (q slot gen st ga : Nat) : Got Done :=
  (gGen x ga).bind (fun gb x => (gRead x (fld (w.getD 4 0) 55 0) c.p.cbytes).bind (fun code x =>
    (entryPlace x c.p c.h c.h.tail).bind (fun e x =>
      let a := bPart x [(e, entrySize c.p), (c.haddr + 32, 8)]
      gNeed a.1 0x1F a.2 (
        gCodes [(gen != gb, 0x13), (st != 0, 0x14), (c.h.tail - c.h.head ≥ c.h.cap, 0x16)] a.2 (
          let x := bWrite a.2 1 e (sprueBytes c.p gen q slot code)
          .ok { code := 0, idx := some (c.h.tail % c.h.cap) }
            (bWrite x 6 (c.haddr + 32) (wordBytes (BitVec.ofNat 64 (c.h.tail + 1)))))))))

def gBucket (x : Batch) (c : SCtx) (slot : Nat) : Got (Nat × List Byte × List RctEntry) :=
  let a := bucketAddr c.root.rct c.blog2 slot
  (gRead x a 64).bind (fun b x => .ok (a, b, (chunks 16 b.length b).map rctOf) x)

/-- The Sprue entry of a slot's live merge entry, if it has one. -/
def gMerged (x : Batch) (c : SCtx) (slot : Nat) (es : List RctEntry) : Got (Option Nat) :=
  match es.find? (fun e => e.m && e.slot = slot && rctLive x.s e) with
  | none => .ok none x
  | some e => (entryPlace x c.p c.h e.idx).bind (fun a x => .ok (some a) x)

/-- DELETE of a slot that is LIVE. -/
def deleteLive (x : Batch) (c : SCtx) (q slot gen gb sb sa : Nat) : Got Done :=
  (gBucket x c slot).bind (fun b x =>
    (gMerged x c slot b.2.2).bind (fun e x =>
      let a := bPart x ([(sa, 1), (b.1, 64)] ++ (match e with | some p => [(p + 8, 8)] | none => []))
      gNeed a.1 0x1F a.2 (
        let x := a.2
        let free := rctFree x.s b.2.2
        gCodes [(gen != gb, 0x13), (free.isEmpty, 0x17), (rctBusy x c.root.rct slot b.2.2, 0x18)] x (
          let x := rctPut x c.root.rct slot b.1 b.2.1 (rctBytes 0 false 1 slot q) free
          let x := bWrite x 3 sa (leBytes 1 (sb / 4 % 16 * 4 + 2))
          .ok okDone (match e with | some p => bWrite x 4 (p + 8) (wordBytes (put q 0)) | none => x)))))

/-- DELETE (R201). -/
def opDelete (x : Batch) (c : SCtx) (w : List Word) (q slot gen st sb sa ga : Nat) : Got Done :=
  if st = 1 then (gGen x ga).bind (fun gb x => deleteLive x c q slot gen gb sb sa)
  else if st = 2 then (gGen x ga).bind (fun gb x => gNeed (gen = gb) 0x13 x (.ok { code := 1 } x))
  else if st = 3 then .bad 0x14 x
  else
    (namedEntry x c (w.getD 3 0) slot gen).bind (fun e x =>
      match e with
      | none => .bad 0x15 x
      | some (a, e) =>
        if e.del != neverSeq || e.res != neverSeq then .ok { code := 1 } x
        else
          let b := bPart x [(a + 8, 8)]
          gNeed b.1 0x1F b.2 (.ok okDone (bWrite b.2 4 (a + 8) (wordBytes (put q 0)))))

/-- MERGE (R201). -/
def opMerge (x : Batch) (c : SCtx) (w : List Word) (q slot gen st sa : Nat) : Got Done :=
  (namedEntry x c (w.getD 3 0) slot gen).bind (fun e x =>
    (gBucket x c slot).bind (fun b x =>
      let a := bPart x ([(sa, 1), (b.1, 64)] ++ (match e with | some p => [(p.1 + 16, 8)] | none => []))
      gNeed a.1 0x1F a.2 (
        let x := a.2
        let free := rctFree x.s b.2.2
        let res := match e with | some p => p.2.res != neverSeq | none => false
        let del := match e with | some p => p.2.del != neverSeq | none => false
        gCodes [(st != 0 || res, 0x14), (e.isNone, 0x15), (del, 0x1A), (free.isEmpty, 0x17),
            (rctBusy x c.root.rct slot b.2.2, 0x18)] x (
          let x := rctPut x c.root.rct slot b.1 b.2.1 (rctBytes (fld (w.getD 3 0) 23 0) true 2 slot q) free
          let x := bWrite x 3 sa (leBytes 1 (fld (w.getD 2 0) 43 40 * 4 + 1))
          .ok okDone (match e with | some p => bWrite x 7 (p.1 + 16) (wordBytes (put q 0)) | none => x)))))

/-- FREE (R201). -/
def opFree (x : Batch) (c : SCtx) (w : List Word) (q slot gen st sa ga : Nat) : Got Done :=
  let edge := fld (w.getD 5 0) 47 0
  let hz := horizon x.s
  let clear := fun (x : Batch) (gb : Nat) => bWrite (bWrite x 3 sa (leBytes 1 0)) 5 ga (leBytes 1 ((gb + 1) % 256))
  if edge != 0 && st != 2 then .bad 0x1D x
  else if st != 0 && st != 2 then .bad 0x14 x
  else (gGen x ga).bind (fun gb x =>
  if st = 2 then
    (gBucket x c slot).bind (fun b x =>
      let a := bPart x [(sa, 1), (ga, 1)]
      gNeed a.1 0x1F a.2 (
        let live := b.2.2.any (fun e => e.slot = slot && rctLive a.2.s e)
        gCodes [(gen != gb, 0x13), (edge > hz || live, 0x19)] a.2 (.ok okDone (clear a.2 gb))))
  else
    (namedEntry x c (w.getD 3 0) slot gen).bind (fun e x =>
      match e with
      | none => .bad 0x15 x
      | some (p, e) =>
        let a := bPart x [(sa, 1), (ga, 1), (p + 16, 8)]
        gNeed a.1 0x1F a.2 (
          gCodes [(e.res != neverSeq, 0x14), (e.del > hz, 0x19)] a.2 (
            .ok okDone (bWrite (clear a.2 gb) 7 (p + 16) (wordBytes (put q 0)))))))

/-- `n` bytes at `a` as a record finds them, without the read; none where one cannot be read. -/
def bPeek (x : Batch) (a n : Nat) : Option (List Byte) :=
  if (ueIn x.s a n).isSome then none else some (forward (x.w.map Prod.snd) a (seenGet x.s a n))

/-- The state byte of slot `slot` of context `c`, where the record can come to it. -/
def peekState (x : Batch) (c slot : Nat) : Option Nat :=
  let z := ctxOf x.s c
  if z.vaddr = 0 || !(inT1 x.s z.vaddr 32) then none
  else (bPeek x z.vaddr 24).bind (fun v =>
    let cur := fld (bytesWord (v.take 8)) 55 0
    if !(inT1 x.s cur 64) then none
    else (bPeek x cur 64).bind (fun rb =>
      let r := rootOf (bytesWords rb)
      if slot ≥ r.slots || !(inT2 x.s (r.state + slot) 1) then none
      else (bPeek x (r.state + slot) 1).map leNat))

/-- A FREE of a slot that is not TOMB holds an EDGE_SEQ that R200 requires to be 0: RESERVED_SET, before every later code
(R202). -/
def edgeReserved (x : Batch) (w : List Word) : Bool :=
  fld (w.getD 0 0) 63 56 = 4 && fld (w.getD 5 0) 47 0 != 0
    && (match peekState x (fld (w.getD 0 0) 55 52) (fld (w.getD 2 0) 31 0) with | some b => b % 4 != 2 | none => false)

/-- The checks and the prepared effect of one record whose words are `w`, at sequence `q`. -/
def cuRecord (x : Batch) (w : List Word) (q : Nat) : Got Done :=
  let op := fld (w.getD 0 0) 63 56
  gCodes [(op = 0 || op > 6, 0x10), (recReserved op w || edgeReserved x w, 0x1D)] x (
    if op = 5 then .ok okDone x
    else
      (readCtx x (fld (w.getD 0 0) 55 52) (op != 6)).bind (fun c x =>
        if op = 6 then opVersion x c w q
        else
          let slot := fld (w.getD 2 0) 31 0
          let gen := fld (w.getD 2 0) 39 32
          let sa := c.root.state + slot
          let ga := c.root.gen + slot
          gCodes [(c.rooted && slot ≥ c.root.slots, 0x12),
              (op = 1 && !(inTier x.s (fld (w.getD 4 0) 55 0) (if c.sized then c.p.cbytes else 1)), 0x1C),
              (c.rooted && (!(inT2 x.s sa 1) || !(inT2 x.s ga 1)), 0x11), (c.lost, 0x1F)] x (
            (gRead x sa 1).bind (fun sb x =>
              let sb := leNat sb
              let st := sb % 4
              match op with
              | 1 => opInsert x c w q slot gen st ga
              | 2 => opDelete x c w q slot gen st sb sa ga
              | 3 => opMerge x c w q slot gen st sa
              | _ => opFree x c w q slot gen st sa ga))))

/-! ## Batches -/

def ringAddr (s : State) (pos : Nat) : Nat := fld s.cu.ctl 55 6 * 64 + pos % 2 ^ fld s.cu.ctl 63 60 * 64

def cuPending (s : State) : Nat := (s.cu.tail - s.cu.head).toNat

/-- The records of the next batch from position `pos`: up to END, an unreadable record, or the 64th; none where the
batch does not lie below TAIL as a whole. -/
def batchRecs : Nat → Nat → State → Nat → Option (List (Nat × Option (List Word)) × State)
  | 0, _, s, _ => some ([], s)
  | _, 0, _, _ => none
  | k + 1, n + 1, s, pos =>
    let a := ringAddr s pos
    let r := nodeRead s cuWho a 64
    if !r.ok then some ([(a, none)], r.s)
    else
      let w := bytesWords r.data
      if bitAt (w.getD 0 0) 32 then some ([(a, some w)], r.s)
      else
        match batchRecs k n r.s (pos + 1) with
        | none => none
        | some (l, s) => some ((a, some w) :: l, s)

/-- Each record's code against what the earlier ones left. -/
def batchCodes (x : Batch) (q : Nat) : List (Nat × Option (List Word)) → List Done × Batch
  | [] => ([], x)
  | (_, none) :: r =>
    let a := batchCodes x q r
    ({ code := 0x1F } :: a.1, a.2)
  | (_, some w) :: r =>
    match cuRecord x w q with
    | .ok d y =>
      let a := batchCodes y q r
      (d :: a.1, a.2)
    | .bad code y =>
      let a := batchCodes y q r
      ({ code := code } :: a.1, a.2)

/-- A 64th record without END receives BATCH_LONG unless an earlier cause gave it a code. -/
def batchLong (recs : List (Nat × Option (List Word))) (l : List Done) : List Done :=
  match recs.getLast?, l.getLast? with
  | some (_, some w), some d =>
    if recs.length = 64 && !(bitAt (w.getD 0 0) 32) && d.code < 0x10 then l.dropLast ++ [{ code := 0x1E }] else l
  | _, _ => l

/-- The writes of a commit, in the order of R203: 1 new entries, 2 buckets, 3 state bytes, 4 and 7 DEL_SEQ and RES_SEQ,
5 generation bytes, 8 the version slot, 6 the head record. -/
def applyWrites (s : State) (w : List (Nat × Nat × List Byte)) : State :=
  ([1, 2, 3, 4, 7, 5, 8, 6].map (fun k => w.filter (fun e => e.1 = k))).flatten.foldl (fun s e =>
    (nodeWrite s cuWho e.2.1 e.2.2).2) s

/-- An append to a channel that is not in memory mode waits (R204). -/
def appendWaits (s : State) (w : List (Nat × Nat × List Byte)) : Bool :=
  w.any (fun e => e.1 = 1 && (match area e.2.1 with
    | .t2 ch => (tget s.chans {} ch).mode != .mem
    | _ => false))

/-- RESULT, SEQ and SPR_IDX of a record; a write that fails is skipped. -/
def writeResult (s : State) (r : Nat × Option (List Word)) (d : Done) (q : Nat) : State :=
  match r.2 with
  | none => (nodeWrite (nodeWrite s cuWho (r.1 + 5) (leBytes 1 d.code)).2 cuWho (r.1 + 8) (wordBytes 0)).2
  | some w =>
    let s := (nodeWrite s cuWho r.1 (wordBytes (setFld (w.getD 0 0) 47 40 d.code))).2
    let s := (nodeWrite s cuWho (r.1 + 8) (wordBytes (put q 0))).2
    match d.idx with
    | some i => if q = 0 then s else (nodeWrite s cuWho (r.1 + 24) (wordBytes (put 1 63 ||| put i 0))).2
    | none => s

/-! ## HEAD (R210) -/

/-- HEAD moves over the entries at the head whose RES_SEQ the horizon has reached. -/
def headMove : Nat → Batch → DParam → Head → Nat → Nat × Batch
  | 0, x, _, _, pos => (pos, x)
  | k + 1, x, p, h, pos =>
    match (entryPlace x p h pos).bind (fun a x => gRead x a 32) with
    | .bad _ y => (pos, y)
    | .ok l y => if (sprueOf l).res ≤ horizon y.s then headMove k y p h (pos + 1) else (pos, y)

/-- The advance of one context: an unreadable head record stops it; an entry at the head that cannot be read, or whose size the
root does not tell, leaves HEAD where it stands. -/
def headAdvance (s : State) (c : Nat) : State :=
  let z := ctxOf s c
  if !(inT1 s z.haddr 64) then s
  else
    match readHead { s := s } z with
    | .bad _ x => x.s
    | .ok z x =>
      if z.lost then x.s
      else
        let m := match (if z.vaddr != 0 && inT1 x.s z.vaddr 32 then (readRoot x z).bind (fun z x => readParam x z) else .ok z x) with
          | .bad _ x => (z.h.head, x)
          | .ok y x => if y.sized then headMove (z.h.tail - z.h.head) x y.p z.h z.h.head else (z.h.head, x)
        let s := (nodeWrite m.2.s cuWho (z.haddr + 24) (wordBytes (BitVec.ofNat 64 m.1))).2
        (nodeWrite s cuWho (z.haddr + 40) (wordBytes (put (horizon s) 0))).2

/-- Every context with a Sprue, each head record once. -/
def advanceAll (s : State) : State :=
  let cs := (List.range 16).filter (fun c => tget s.cu.sprue 0 c != 0)
  let one := cs.filter (fun c => !(cs.any (fun d => d < c && tget s.cu.sprue 0 d = tget s.cu.sprue 0 c)))
  one.foldl headAdvance s

/-- COMMIT_SEQ reaches the next sequence; at the last one SEQ_EXHAUSTED is set (R197). -/
def commitOne (s : State) : State :=
  let s := ctrAdd s 0x9010 1
  if commitSeq s ≥ 2 ^ 48 - 2 then cuFlag s 5 else s

/-- UPD_BATCH (R196, R197, R202, R203). -/
def execUpdBatch (s : State) : Ans :=
  .next (
    let n := cuPending s
    if !(bitAt s.cu.ctl 0) || n = 0 then s
    else
      match batchRecs 64 n s s.cu.head.toNat with
      | none => s
      | some (recs, s1) =>
        let beyond := commitSeq s1 ≥ 2 ^ 48 - 2
        let q := commitSeq s1 + 1
        let r := if beyond then (recs.map (fun _ => ({ code := 0x21 } : Done)), ({ s := s1 } : Batch))
          else batchCodes { s := s1 } q recs
        let codes := if beyond then r.1 else batchLong recs r.1
        let applied := !beyond && codes.all (fun d => d.code < 0x10)
        let s2 := r.2.s
        let s3 :=
          if applied then
            let s := if appendWaits s2 r.2.w then cuFlag s2 1 else s2
            let s := commitOne (applyWrites s r.2.w)
            if r.2.w.any (fun e => e.1 = 7) then advanceAll s else s
          else if beyond then cuFlag (cuFlag s2 5) 4 else cuFlag s2 4
        let final := if applied || beyond then codes
          else codes.map (fun d => if d.code < 0x10 then { code := 0x20 } else d)
        let s4 := (List.zip recs final).foldl (fun s e => writeResult s e.1 e.2 (if applied then q else 0)) s3
        ctrAdd { s4 with cu := { s4.cu with head := s4.cu.head + BitVec.ofNat 16 recs.length } } 0x9011 recs.length)

/-! ## Registers (R218, R219) -/

/-- A write of GWE_UPD_TAIL: ignored with RING_ERR where it would overfill the ring. -/
def wrUpdTail (s : State) (v : Word) : State :=
  let t := BitVec.ofNat 16 (fld v 15 0)
  if (t - s.cu.head).toNat > 2 ^ fld s.cu.ctl 63 60 then cuFlag s 2 else { s with cu := { s.cu with tail := t } }

/-- GWE_UPD_TAIL_WRITE. -/
def execGweUpdTailWrite (a : Acc) (v : Word) (s : State) : Ans := .next (accDo s a (fun s => wrUpdTail s v))

/-- A write of GWE_HORIZON: only upwards, and not above COMMIT_SEQ. -/
def wrHorizon (s : State) (v : Word) : State :=
  let h := fld v 47 0
  if h < horizon s || h > commitSeq s then cuFlag s 3
  else if h = horizon s then s
  else advanceAll { s with cu := { s.cu with horizon := BitVec.ofNat 48 h } }

/-- GWE_HORIZON_WRITE. -/
def execGweHorizonWrite (a : Acc) (v : Word) (s : State) : Ans := .next (accDo s a (fun s => wrHorizon s v))

def updCtlMask : Word := mask 63 60 ||| mask 55 6 ||| mask 0 0

/-- A write of GWE_UPD_CTL: a ring moves only while disabled and empty, and must lie wholly in T0 to be enabled. -/
def wrUpdCtl (s : State) (v : Word) : State :=
  let v := v &&& updCtlMask
  let old := s.cu.ctl
  let moved := (v &&& ~~~(mask 0 0)) != (old &&& ~~~(mask 0 0))
  let base := fld v 55 6 * 64
  let n := 64 * 2 ^ fld v 63 60
  let bad := (moved && (bitAt old 0 || cuPending s != 0))
    || (bitAt v 0 && (fld v 63 60 < 4 || !(inT0 base && inT0 (base + n - 1))))
  if bad then cuFlag s 2 else { s with cu := { s.cu with ctl := v } }

/-- GWE_UPD_CTL_WRITE. -/
def execGweUpdCtlWrite (a : Acc) (v : Word) (s : State) : Ans := .next (accDo s a (fun s => wrUpdCtl s v))

def wrUpdStatus (s : State) (v : Word) : State := { s with cu := { s.cu with sticky := w1c s.cu.sticky v (mask 5 1) } }

def rdUpdStatus (s : State) : Word := s.cu.sticky ||| put (bit (cuPending s != 0)) 0

def wrShardVslot (s : State) (k : Nat) (v : Word) : State :=
  { s with cu := { s.cu with vslot := tset s.cu.vslot k (v &&& mask 55 0) } }
def wrShardSprue (s : State) (k : Nat) (v : Word) : State :=
  { s with cu := { s.cu with sprue := tset s.cu.sprue k (v &&& mask 55 0) } }

end Sys2Proof.Machine
end

