-- ==== Sys2Proof/Machine/FleGc.lean ====
section
/-!
DEFINITION. Chapter 14: what a flash engine does on its own: parity, verify, garbage collection, checkpoints, defects
(R316 to R321, R324, R325).
-/
namespace Sys2Proof.Machine
open Sys2Proof

/-- PARTIAL_PARITY (R316): a WRITE has waited 1 ms for its stripe; parity over the members programmed so far. -/
def execPartialParity (f : Fin 4) (sb : Nat) (s : State) : Ans :=
  .next (
    let u := f.val
    let x := fleOf s u
    let waits := (fleRunning s u).any (fun r =>
      match r.2.2.1.st with
      | .running (.flash c) => c.start.toNat + 1000000 < now s && c.pages.any (fun p => locSb p = sb && !(isCovered x p))
      | _ => false)
    match tfind x.sbs sb with
    | some b => if x.mounted && b.st = .open_ && !b.done.isEmpty && waits then fleSettle (setFle s u (coverStripe x sb)) u else s
    | none => s)

/-- Work of the engine that no tenant caused, in sectors read or written (R425, R426). -/
def ownWork (s : State) (n : Nat) : State := workTally s 7 0 n

/-- The AUs of a superblock that its verify relocates: those whose codewords were weak, and those of retired blocks, which only
parity still reads (R317, R325). -/
def weakAus (f : Fle) (sb : Nat) (weak : List (Nat × Bool)) : List (Nat × Bool) :=
  weak.filter (fun e => locSb e.1 = sb) ++ ((validSlots f sb).filter (blockRetired f)).map (fun l => (l, false))

/-- Weak AUs of a superblock are relocated; none where a copy must wait. -/
def relocate (f : Fle) : List (Nat × Bool) → Option Fle
  | [] => some f
  | (loc, rebuilt) :: r =>
    let f := if rebuilt then f.flag 5 else f
    match validAt f loc with
    | none => relocate f r
    | some x =>
      match gcCopy f loc x none with
      | none => none
      | some f => relocate f r

/-- SB_VERIFY (R317): a CLOSED superblock of a module that holds its data is read in full, its weak AUs are relocated, and its
parity is released. -/
def execSbVerify (f : Fin 4) (sb : Nat) (weak : List (Nat × Bool)) (s : State) : Ans :=
  .next (
    let u := f.val
    let x := fleOf s u
    match tfind x.sbs sb with
    | some b =>
      if x.mounted && b.st = .closed && sbServes x sb then
        match relocate x (weakAus x sb weak) with
        | none => s
        | some y =>
          match tfind y.sbs sb with
          | some c =>
            let y := setSb y sb { c with st := .verified, parity := [] }
            let y := { y with sbs := y.sbs.map (fun e => (e.1, { e.2 with holdFor := sdel e.2.holdFor sb })) }
            fleSettle (setFle (ownWork s (b.members.length * b.pages * 16 + 8 * (weakAus x sb weak).length)) u y) u
          | none => s
      else s
    | none => s)

/-- GC_COPY (R318): a valid AU of the victim, or of a module being evacuated, is copied into a GC superblock. -/
def execGcCopy (f : Fin 4) (loc : Nat) (s : State) : Ans :=
  .next (
    let u := f.val
    let x := fleOf s u
    let k := locSb loc
    let evac := decide ((modOf x (sbModule k)).st = .evacuating)
    if x.mounted && !(locLost x loc) && ((x.victim = some k && (x.fgGc || x.bgGc)) || evac) then
      match validAt x loc with
      | none => s
      | some a =>
        match gcCopy x loc a none with
        | none => s
        | some y => fleSettle (setFle (ownWork (mapTouch s u 0 1) 8) u y) u
    else s)

/-- BG_GC_START (R319): no request for BG_IDLE_US, and few free superblocks. -/
def execBgGcStart (f : Fin 4) (s : State) : Ans :=
  .next (
    let u := f.val
    let x := fleOf s u
    if x.mounted && fleIdle s u && decide (x.lastReq.toNat + bgIdle x * 1000 ≤ now s) && freeSb x < bgFree x then
      setFle s u (takeVictim { x with bgGc := true })
    else s)

/-- FG_GC (R319, R320): foreground GC runs and throttles writes; where no superblock can be freed the engine is read-only. -/
def execFgGc (f : Fin 4) (s : State) : Ans :=
  .next (
    let u := f.val
    let x := fleOf s u
    if x.mounted && freeSb x < fgFree x then
      let x := (takeVictim { x with fgGc := true }).flag 6
      setFle s u (if x.pool.isEmpty && !x.sbs.isEmpty && !(someInvalid x) then { x with readOnly := true } else x)
    else s)

/-- The pages of the WRITEs in flight. -/
def pagesInFlight (s : State) (u : Nat) : List Nat :=
  ((fleRunning s u).map (fun r => match r.2.2.1.st with | .running (.flash c) => c.pages | _ => [])).flatten

/-- What stands at a place with `p` is still needed: a read is outstanding there (R318), a replay from either root would meet a
page there (R322, log 111), or it is a page of a WRITE in flight or what an AU of one held before (R322, R324). -/
def needed (s : State) (u : Nat) (p : Nat → Bool) : Bool :=
  let x := fleOf s u
  readsAt s u (2 ^ 64) p || x.flash.any (fun e => p e.1 && oldCp x < e.2.seq)
    || (pagesInFlight s u).any (fun l => p l || (match tfind x.flash l with
        | some y => y.slots.any (fun z => z.old.any p)
        | none => false))

/-- A victim may be erased: no valid AU, nothing that is still needed, no copy that awaits its verify (R318, R325). -/
def erasable (s : State) (u k : Nat) : Bool :=
  let x := fleOf s u
  match tfind x.sbs k with
  | some b => x.mounted && b.st = .victim && (validSlots x k).isEmpty && b.holdFor.isEmpty
    && !(needed s u (fun l => locSb l = k))
  | none => false

/-- SB_ERASE (R318). -/
def execSbErase (f : Fin 4) (sb : Nat) (s : State) : Ans :=
  .next (if erasable s f.val sb then setFle s f.val (eraseSb (fleOf s f.val) sb []) else s)

/-- CHECKPOINT (R321): after 1 GiB programmed or 2 s. -/
def execCheckpoint (f : Fin 4) (s : State) : Ans :=
  .next (
    let x := fleOf s f.val
    if x.mounted && (x.cutBytes ≥ 2 ^ 30 || decide (x.cutAt.toNat + 2000000000 ≤ now s)) then
      setFle s f.val (cutCheckpoint x s.tb.time)
    else s)

/-- A member block of an open superblock is retired; one that has no member left is closed (R324, R325). -/
def retireBlock (f : Fle) (k j : Nat) : Fle :=
  match tfind f.sbs k with
  | some b =>
    let b := { b with members := b.members.filter (· != j), done := b.done.filter (· != j) }
    let f := if b.members.isEmpty && b.st = .open_ then setSb { f with closes := f.closes + 1 } k { b with st := .closed, closedAt := f.closes }
      else setSb f k b
    roCheck (f.flag 3)
  | none => f

/-- The parity page over a page that failed is superseded by one over the others of its stripe (R316, R324). -/
def uncover (f : Fle) (k page : Nat) : Fle :=
  match tfind f.sbs k with
  | some b =>
    if (parityOver b page).isNone then f
    else
      let parity := b.parity.map (fun e =>
        if e.2.covers.contains page then (e.1, { seq := f.seq + 1, covers := e.2.covers.filter (· != page) }) else e)
      roSeq (setSb { f with seq := f.seq + 1, cutBytes := f.cutBytes + 16384 } k { b with parity := parity })
  | none => f

/-- A page leaves `page`, each of its slots for the place that `dest` says: what names it, the map, the roots, the WRITEs that
wait for it, the reads outstanding there, and the pages whose AUs stood there before, names its new place `dst` (R308, log
118). -/
def movePage (s : State) (u page dst : Nat) (dest : Nat → Nat) : State :=
  let g := fun (l : Nat) => if locPage l = page then dest l else l
  let root := fun (r : FleRoot) => { r with map := r.map.map (fun e => (e.1, g e.2)) }
  let s := updFle s u (fun f => { f with
    map := f.map.map (fun e => (e.1, g e.2)), rootA := f.rootA.map root, rootB := f.rootB.map root,
    reads := f.reads.map (fun r => { r with locs := r.locs.map g }),
    flash := f.flash.map (fun e => (e.1, { e.2 with slots := e.2.slots.map (fun x => { x with old := x.old.map g }) })) })
  let sector := fun (x : SectorSt) => match x with
    | .outstanding l => .outstanding (l.map g)
    | _ => x
  (fleRunning s u).foldl (fun s r =>
    match r.2.2.1.st with
    | .running (.flash c) =>
      setWork s r.1 r.2.1 (.flash { c with
        pages := c.pages.map (fun p => if p = page then dst else p), sectors := c.sectors.map sector })
    | _ => s) s

/-- The place that a slot of a GC copy page was copied from. -/
def srcOf (p : FPage) (l : Nat) : Nat := match p.slots.find? (fun x => x.a = l % 4) with | some x => x.src | none => l

/-- A failed GC copy is made again from its source, which waits for the new copy's verify; none where it must wait (R325). -/
def recopy (f : Fle) (x : FSlot) (avoid : Nat) : Option Fle :=
  if locLost f x.src || mapGet f x.lbs x.lau != some x.src then some f
  else
    match gcCopy f x.src x (some avoid) with
    | none => none
    | some f =>
      match mapGet f x.lbs x.lau, tfind f.sbs (locSb x.src) with
      | some l, some b => some (setSb f (locSb x.src) { b with holdFor := sadd b.holdFor (locSb l) })
      | _, _ => some f

/-- The content of a page that was not programmed goes into another open superblock than `k`, in which it failed, or for a page
of the engine's own into the system area: the state after, none where it must wait. -/
def redoPage (s : State) (u k page : Nat) : Option State :=
  let f := fleOf s u
  match tfind f.flash page with
  | none => none
  | some p =>
    if p.kind = 2 then
      let s := movePage (setFle s u { f with flash := tdel f.flash page }) u page page (srcOf p)
      (p.slots.foldl (fun (f : Option Fle) x => f.bind (fun f => recopy f x k)) (some (fleOf s u))).map (setFle s u)
    else
      let f := { f with flash := tdel f.flash page }
      match program f false (some k) p with
      | some (f, l) =>
        some (movePage (setFle s u { f with flash := tset f.flash l p }) u page l (fun x => l + x % 4))
      | none =>
        if p.kind = 1 then none
        else
          let l := 2 ^ 37 + 4 * (f.seq + 1)
          some (movePage (setFle s u { sysPage f p with flash := tset f.flash l p }) u page l (fun x => l + x % 4))

/-- As `redoPage`; where it must wait, the page waits in the write buffer, and its WRITE with it (R324). -/
def redoOr (s : State) (u k page : Nat) : State :=
  match redoPage s u k page with
  | some s => s
  | none =>
    let f := fleOf s u
    match tfind f.flash page with
    | none => s
    | some p =>
      if inBuffer page then s
      else
        let l := bufferLoc p.seq page
        movePage (setFle s u { f with flash := tset (tdel f.flash page) l p }) u page l (fun x => l + x % 4)

/-- What a page was copied from is still there: the copy has not passed yet (R325). -/
def copyOpen (f : Fle) (p : FPage) : Bool :=
  p.kind != 2 || p.slots.all (fun x => (slotAt f x.src).map (·.data) == some x.data)

/-- The programming of a page may still fail: parity does not cover it yet, or it is a page of a WRITE in flight or a GC copy
(R314, R324, R325). -/
def mayFail (s : State) (u page : Nat) (p : FPage) : Bool :=
  !(isCovered (fleOf s u) page) || p.kind = 2 || (pagesInFlight s u).contains page

/-- PROGRAM_FAIL (R324, R325): the block of a page is retired, and the page is programmed elsewhere. -/
def execProgramFail (f : Fin 4) (page : Nat) (s : State) : Ans :=
  .next (
    let u := f.val
    let x := fleOf s u
    let k := locSb page
    match tfind x.flash page, tfind x.sbs k with
    | some p, some b =>
      if x.mounted && unverifiedSb b && mayFail s u page p && copyOpen x p then
        let y := retireBlock (uncover x k page) k (locMember page)
        fleSettle (redoOr (setFle s u (if p.kind = 2 then y.flag 4 else y)) u k page) u
      else s
    | _, _ => s)

/-- The parity of the complete stripes is programmed. One of its pages may fail: its block in the parity pool is retired, and
the page is programmed again, which takes a while (R314, R324, log 117). -/
def fleParity (s : State) (u : Nat) : State :=
  let f := fleOf s u
  if f.sbs.any (fun e => stripeFull e.2) then
    setFle (tick1 s) u (if Config.pick s.choice 0 % 2 = 1 then f.flag 3 else coverFull f)
  else s

/-- What a mounted engine does in time: pages that wait in the write buffer are programmed elsewhere, the parity of complete
stripes is programmed, and the WRITEs that waited for either retire (R314, R316, R324). -/
def fleTick (s : State) (u : Nat) : State :=
  if !((fleOf s u).mounted) then s
  else
    let s := (((fleOf s u).flash.map Prod.fst).filter inBuffer).foldl (fun s p => redoOr s u (failedSb p) p) s
    fleSettle (fleParity s u) u

/-- ERASE_FAIL (R324): the erase of a victim leaves out a member block, which is retired. -/
def execEraseFail (f : Fin 4) (sb member : Nat) (s : State) : Ans :=
  .next (
    let x := fleOf s f.val
    if erasable s f.val sb then setFle s f.val (roCheck ((eraseSb x sb [member]).flag 3)) else s)

end Sys2Proof.Machine
end

