-- ==== Sys2Proof/WellFormed.lean ====
section
/-!
DEFINITION. Which commands are well formed: the bounds the spec puts on what a command carries, where its operand's type does
not say so already. A command that is not well formed stands for nothing that can happen; `exec` gives it an answer all
the same.
-/
namespace Sys2Proof

/-- A run of bytes that is not empty and has at most `n` bytes. -/
def dataWf (l : List Byte) (n : Nat) : Bool := 0 < l.length && l.length ≤ n

/-- A request to a channel: a requester of R332, at most 64 bytes, as many bytes of data as its size says. -/
def ChanReq.wf (r : ChanReq) : Bool :=
  r.agent < 152 && 0 < r.size && r.size ≤ 64 && (match r.data with | some l => l.length = r.size | none => true)

/-- The BARs of R363: 0, 2 and 4. -/
def barWf (b : BitVec 3) : Bool := b = 0 || b = 2 || b = 4

/-- A function of a host port, not a Sequencer. -/
def hostFn (a : Acc) : Bool :=
  match a with
  | .seq _ => false
  | .pf _ | .vf _ _ => true

/-- A message whose header fields fit their places and whose payload fits a message (R381). -/
def Msg.wf (m : Msg) : Bool :=
  m.dst < 2 ^ 16 && m.src < 2 ^ 16 && m.epoch < 2 ^ 16 && m.cls < 8 && m.kind < 16 && m.hops < 256 && m.tenant < 4096
    && m.flow < 256 && m.ring < 256 && m.reply < 256 && m.payload.length ≤ 16384

/-- A frame whose fields fit their places (R428). -/
def Frame.wf (f : Frame) : Bool :=
  f.seq < 2 ^ 48 && f.time < 2 ^ 64 && f.ents.length ≤ 62 && f.mac < 2 ^ 128
    && f.ents.all (fun e => e.1 < 4096 && e.2.1 < 256 && e.2.2 < 2 ^ 44)

/-- The checks of tests of a pack: 1,024 tests of up to 16 checks (R415). -/
def checksWf (l : List CheckResult) : Bool := l.all (fun c => c.test < 1024 && c.num < 16 && c.addr < 2 ^ 56)

/-- What the power-up sequence found names parts that exist. -/
def PowerReport.wf (r : PowerReport) : Bool :=
  r.t0Unit < 2 ^ 48 && r.chans.all (· < 528) && r.lanes.all (fun e => e.1 < 16) && r.seqs.all (· < 64) && r.bundles.all (·.length ≤ 2 ^ 24)

/-- A module of the parts that the FLE supports (R301): 1 to 8 targets, 1, 2 or 4 LUNs each, 2 or 4 planes; it has blocks and
pages. -/
def Geometry.wf (g : Geometry) : Bool :=
  (g.dies = 1 || g.dies = 2 || g.dies = 4) && (g.planes = 2 || g.planes = 4) && 0 < g.blocks && 0 < g.pages
    && 1 ≤ g.targets && g.targets ≤ 8

/-- The command is well formed. -/
def Instr.wf (i : Instr) : Bool :=
  match i with
  | .rerankReadData _ _ slot _ => slot < 65536
  | .rerankReadError _ _ slot => slot < 65536
  | .ladleDeadline _ _ done started => done ≤ started
  | .channelRequest _ req => req.wf
  | .gatherDeadline _ _ arrived _ => arrived.length ≤ 65536
  | .sbVerify _ _ weak => weak.length ≤ 65536
  | .admitDone _ _ geo => geo.wf
  | .gets g _ => g < 152
  | .getm g _ => g < 152
  | .putm g _ => g < 152
  | .ncRead g _ => g < 152
  | .ncWrite g _ data => g < 152 && dataWf data 64
  | .invalidate g _ => g < 152
  | .nearAtomic g _ _ _ _ _ _ => g < 152
  | .requestAged g _ _ => g < 152
  | .holdExpire g _ => g < 152
  | .hostMemWrite a bar _ data => hostFn a && barWf bar && dataWf data 512
  | .hostMemRead a bar _ len => hostFn a && barWf bar && 0 < len && len ≤ 4096
  | .hostAtomic a bar _ _ _ _ _ _ => hostFn a && barWf bar
  | .linkUp _ width speed => (width = 1 || width = 2 || width = 4 || width = 8) && 1 ≤ speed && speed ≤ 6
  | .msgForward _ m => m.wf
  | .dataReceive _ m => m.wf
  | .putReceive _ m => m.wf
  | .scatterReceive _ m => m.msg.wf
  | .ackReceive _ m => m.wf
  | .refuseReceive _ m => m.wf
  | .absentReceive _ m => m.wf
  | .patternTestEnd checks => checksWf checks && checks.length ≤ 16
  | .startFrame fr => fr.wf
  | .tallyFrame fr => fr.wf
  | .finalFrame fr => fr.wf
  | .energyInterval rails => rails.length ≤ 16
  | .powerupSequence rep => rep.wf
  | .warmExit rep => rep.wf
  | .reloadTestsDone checks => checksWf checks
  | .hwsLinkUp _ width _ => width ≤ 8
  | .railReading .. | .railStepDecision | .bootRailCtlWrite .. | .stall .. | .refLoss | .refReturn | .tbsSet ..
  | .syncSend | .syncReceive .. | .syncMissed | .add .. | .sub .. | .and .. | .or .. | .xor .. | .sll ..
  | .srl .. | .sra .. | .slt .. | .sltu .. | .min .. | .max .. | .minu .. | .maxu .. | .mul .. | .mulh ..
  | .mulhu .. | .div .. | .divu .. | .rem .. | .remu .. | .clz .. | .ctz .. | .popc .. | .addi .. | .andi ..
  | .ori .. | .xori .. | .slti .. | .sltiu .. | .slli .. | .srli .. | .srai .. | .lix .. | .lihx .. | .addix ..
  | .andix .. | .ldx .. | .sdx .. | .lb .. | .lbu .. | .lh .. | .lhu .. | .lw .. | .lwu .. | .ld .. | .sb ..
  | .sh .. | .sw .. | .sd .. | .cflush .. | .amoswap .. | .amoadd .. | .amoand .. | .amoor .. | .amoxor ..
  | .amomin .. | .amomax .. | .amominu .. | .amomaxu .. | .amocas .. | .beq .. | .bne .. | .blt .. | .bge ..
  | .bltu .. | .bgeu .. | .jal .. | .jalr .. | .eiss .. | .eissCreditGrant .. | .wait .. | .waitSatisfied ..
  | .waitDeadline .. | .evinc .. | .rdctr .. | .fence .. | .fenceDone .. | .tret .. | .halt .. | .brk ..
  | .hover .. | .rdsr .. | .wrsr .. | .seqStart .. | .seqStop .. | .seqHandoverWrite .. | .hoTimeout ..
  | .descAtHead .. | .descDispatch .. | .descRetire .. | .waitTimeout .. | .flush .. | .queueResume ..
  | .unitLoss .. | .convert .. | .quantize .. | .rotate .. | .smooth .. | .matmul .. | .matmulQa ..
  | .attention .. | .walk .. | .walkStep .. | .dist .. | .qbuild .. | .rerank .. | .rerankDeadline ..
  | .rerankOutput .. | .gweUpdTailWrite .. | .updBatch | .gweHorizonWrite .. | .gweUpdCtlWrite .. | .topk ..
  | .move .. | .movel .. | .windowTableUpdate .. | .t3SegmentLoss .. | .ntRefreshChange .. | .hbmRefreshChange ..
  | .channelDecision .. | .toProcDone .. | .toMemDone .. | .windowSliceExpire .. | .broadcastEnd ..
  | .mchChmodeWrite .. | .loadx .. | .gemv .. | .attn .. | .scan .. | .nbuCtlWrite .. | .gather .. | .riserDecay
  | .scatter .. | .read .. | .write .. | .trim .. | .spaceCreate .. | .spaceDelete .. | .sync ..
  | .sectorReadDone .. | .fleReadDeadline .. | .partialParity .. | .gcCopy .. | .bgGcStart .. | .fgGc ..
  | .sbErase .. | .checkpoint .. | .programFail .. | .eraseFail .. | .mount .. | .format .. | .fleMapWrite ..
  | .fleGcCtlWrite .. | .modAdmit .. | .evacuate .. | .evacDone .. | .powerOff .. | .modPrsntFall ..
  | .modPrsntRise .. | .modDiesLost .. | .cleatClaim .. | .cleatWrite .. | .mbxATx .. | .mbxBTx .. | .mbxBRx ..
  | .mbxARx .. | .mbxDbAb .. | .mbxDbBa .. | .ackAbPost .. | .ackBaPost .. | .ackAbCollect .. | .ackBaCollect ..
  | .mbxCfgWrite .. | .poisonedTlp .. | .sqDoorbell .. | .sqEntryMirror .. | .sqHeadWrite .. | .cqTailWrite ..
  | .cqPost .. | .cqDoorbell .. | .coalTimer .. | .hstIrqTrig .. | .hstTakeover .. | .rpCfgWrite ..
  | .portLost .. | .perstNAssert .. | .cto .. | .flr .. | .hwsSqTailWrite .. | .sendEntry .. | .hwsSqCfgWrite ..
  | .msgSend .. | .hwsRqHeadWrite .. | .arm .. | .disarm .. | .laneFailing .. | .hwsLinkDown ..
  | .partnerAbsent .. | .qsample .. | .cmpEpochWrite .. | .graceExpire | .cmpNodeWrite .. | .logLostWrite
  | .scrubRead .. | .patternTestStart | .errBelay .. | .errBarrier .. | .barClear .. | .errLogBaseWrite ..
  | .errPpCtlWrite .. | .islandNonce | .tallySend | .finalSequence | .feedDown | .islandCommit
  | .islandRailFall .. | .islandStart | .asyTally .. | .sealOpen | .sealClose | .id | .status | .statusClr ..
  | .snapshot .. | .readPage .. | .anomalies | .sealLog .. | .tariff .. | .sealBundle .. | .railGood ..
  | .railTimeout | .railPgLoss .. | .nodeRstNLow | .nodeRstNHigh | .vddAsyLoss | .thermalTrip .. | .bootReset ..
  | .scopeEntry | .bootStageRel .. | .quiesce .. | .quiesceDone | .resume .. | .reload .. | .retire ..
  | .migrate .. | .migrateDone | .recalHbm .. | .recalHws .. | .laneSpare .. | .recalD2d .. | .channelFail ..
  | .load .. | .release .. | .attest .. | .enrollFirst .. | .tstUnlock .. | .lock .. | .unlockExpire
  | .tstDelay .. | .tstWithhold .. | .tstClamp .. | .tstMemlat .. | .tstLinkdrop .. | .linkdropEnd ..
  | .registerWrite .. | .secDone | .mountComplete .. | .formatComplete .. | .svcDone | .tokenCheckDone
  | .rcFieldRead .. => true

end Sys2Proof
end

