-- ==== Sys2Proof/Machine/FleCtl.lean ====
section
/-!
DEFINITION. Chapter 14: mounting and formatting (R322, R323), modules (R326, R327), the FLE registers (R331).
-/
namespace Sys2Proof.Machine
open Sys2Proof

/-! ## FLE_CTL -/

/-- A write of FLE_CTL (R331). -/
def wrFleCtl (s : State) (u : Nat) (v : Word) : State :=
  updFle s u (fun f =>
    if bitAt v 0 && bitAt v 1 then f.flag 7
    else if !(bitAt v 0) && !(bitAt v 1) then f
    else if f.mounted || f.busy != .idle then f.flag 7
    else { f with busy := if bitAt v 0 then .mounting else .formatting })

/-- MOUNT (R322): the mount begins; MOUNT_COMPLETE ends it. -/
def execMount (a : Acc) (f : Fin 4) (v : Word) (s : State) : Ans :=
  .next (if bitAt v 0 then accDo s a (fun s => wrFleCtl s f.val v) else s)

/-- FORMAT (R323): the format begins; FORMAT_COMPLETE ends it. -/
def execFormat (a : Acc) (f : Fin 4) (v : Word) (s : State) : Ans :=
  .next (if bitAt v 1 then accDo s a (fun s => wrFleCtl s f.val v) else s)

/-- A present module whose superblocks were admitted serves again once its engine mounts (log 32). -/
def modsServe (f : Fle) : Fle :=
  { f with mods := f.mods.map (fun e =>
      (e.1, if e.2.st = .present && e.2.admitted then { e.2 with st := .inService, pwrEn := true } else e.2)) }

/-- MOUNT_COMPLETE (R322, R323): the map is rebuilt from the newest root that decodes and the pages after it. -/
def execMountComplete (f : Fin 4) (rep : MountReport) (s : State) : Ans :=
  .next (
    let x := fleOf s f.val
    if x.busy = .mounting then
      let x := { x with busy := .idle }
      match newestRoot (if rep.rootA then x.rootA else none) (if rep.rootB then x.rootB else none) with
      | none => setFle s f.val (x.flag 1)
      | some r =>
        let y := { replay (modsServe x) r rep.lost with mounted := true, cutAt := s.tb.time, lastReq := s.tb.time }
        setFle s f.val (roCheck y)
    else s)

/-- FORMAT_COMPLETE (R323): every admitted module is erased, its bad-block marks read, an empty root written. -/
def execFormatComplete (f : Fin 4) (bad : List (Nat × Nat)) (s : State) : Ans :=
  .next (
    let x := fleOf s f.val
    if x.busy = .formatting then
      let x := modsServe { x with busy := .idle }
      let sbs := x.sbs.map (fun e =>
        if healthy x e.1 then
          (e.1, { members := e.2.members.filter (fun j => !(bad.contains (e.1, j))), pages := e.2.pages, erases := e.2.erases + 1 })
        else e)
      let pool := (sbs.filter (fun e => healthy x e.1 && !e.2.members.isEmpty)).map Prod.fst
      let root : FleRoot := { pool := pool, cpSeq := x.seq }
      setFle s f.val (roSeq { x with
        sbs := sbs, pool := pool, seq := x.seq + 1,
        flash := x.flash.filter (fun e => !(healthy x (locSb e.1)) && !(inSystem e.1)),
        map := [], spaces := [], rootA := some root, rootB := none, victim := none, readOnly := false, fgGc := false,
        bgGc := false })
    else s)

/-! ## The map and GC registers -/

/-- A write of FLE_MAP_BASE (R331): bits [55:16]. -/
def wrFleMapBase (s : State) (u : Nat) (v : Word) : State :=
  updFle s u (fun f => if f.mounted then f.flag 7 else { f with mapBase := v &&& mask 55 16 })

def wrFleMapSize (s : State) (u : Nat) (v : Word) : State :=
  updFle s u (fun f => if f.mounted then f.flag 7 else { f with mapSize := v })

/-- FLE_MAP_WRITE (R331): MAP_BASE, or MAP_SIZE where `size`. -/
def execFleMapWrite (a : Acc) (f : Fin 4) (size : Bool) (v : Word) (s : State) : Ans :=
  .next (accDo s a (fun s => (if size then wrFleMapSize s f.val v else wrFleMapBase s f.val v)))

/-- A write of FLE_GC_CTL (R331): ignored where RESERVE ≥ FG_FREE or FG_FREE > BG_FREE. -/
def wrFleGcCtl (s : State) (u : Nat) (v : Word) : State :=
  updFle s u (fun f =>
    if fld v 15 0 ≥ fld v 31 16 || fld v 31 16 > fld v 47 32 then f.flag 7 else gcNorm { f with gcCtl := v })

/-- FLE_GC_CTL_WRITE. -/
def execFleGcCtlWrite (a : Acc) (f : Fin 4) (v : Word) (s : State) : Ans :=
  .next (accDo s a (fun s => wrFleGcCtl s f.val v))

def wrFleStatus (s : State) (u : Nat) (v : Word) : State :=
  updFle s u (fun f => { f with sticky := w1c f.sticky v (mask 7 1) })

/-- FLE_STATUS (R331); what parity is held is known once the engine is mounted, and UNVERIFIED is 0 until then. -/
def rdFleStatus (s : State) (u : Nat) : Word :=
  let f := fleOf s u
  put (freeSb f % 65536) 48 ||| put (if f.mounted then unverified f % 65536 else 0) 32 ||| put (bit (f.busy != .idle)) 11
    ||| put (bit f.readOnly) 10 ||| put (bit f.fgGc) 9 ||| put (bit f.mounted) 8 ||| f.sticky

def rdFleCap (s : State) (u : Nat) : Word := put (usableAu (fleOf s u) % 2 ^ 36) 0

/-! ## Modules (R326, R327) -/

def modCode : ModSt → Nat
  | .absent => 0 | .present => 1 | .admitting => 2 | .inService => 3 | .evacuating => 4 | .empty => 5
  | .poweredOff => 6 | .failed => 7

def rdFleModCtl (s : State) (u m : Nat) : Word :=
  let x := modOf (fleOf s u) m
  put (modCode x.st) 4 ||| put (bit x.evacRefused) 2

/-- AUs of the map on module `m`, or on the others in service (R326). -/
def validOn (f : Fle) (m : Nat) (here : Bool) : Nat :=
  (f.map.filter (fun e =>
    if here then sbModule (locSb e.2) == m else sbModule (locSb e.2) != m && healthy f (locSb e.2))).length

/-- The superblocks of a module leave the free pool; its open ones are closed to new pages. -/
def leavePool (f : Fle) (m : Nat) : Fle := { f with pool := f.pool.filter (fun k => sbModule k != m) }

/-- A write of FLE_MOD_CTL (R326): an action in a state that does not list it sets CFG_ERR. -/
def wrFleModCtl (s : State) (u m : Nat) (v : Word) : State :=
  let f := fleOf s u
  let x := modOf f m
  let f := if bitAt v 2 then setMod f m (fun x => { x with evacRefused := false }) else f
  let f :=
    if bitAt v 0 then
      (if x.st = .present then setMod f m (fun x => { x with st := .admitting, pwrEn := true }) else f.flag 7)
    else f
  let f :=
    if bitAt v 1 then
      (if x.st = .inService then
        (if validOn f m true + validOn f m false ≤ healthyAus f (some m) * 93 / 100 then
          roCheck (leavePool (setMod f m (fun x => { x with st := .evacuating })) m)
        else setMod f m (fun x => { x with evacRefused := true }))
      else f.flag 7)
    else f
  let f :=
    if bitAt v 3 then
      (if x.st = .empty || x.st = .failed then setMod f m (fun x => { x with st := .poweredOff, pwrEn := false })
      else f.flag 7)
    else f
  setFle s u f

/-- ADMIT. -/
def execAdmit (a : Acc) (f m : Fin 4) (v : Word) (s : State) : Ans :=
  .next (if bitAt v 0 then accDo s a (fun s => wrFleModCtl s f.val m.val v) else s)

/-- EVACUATE. -/
def execEvacuate (a : Acc) (f m : Fin 4) (v : Word) (s : State) : Ans :=
  .next (if bitAt v 1 then accDo s a (fun s => wrFleModCtl s f.val m.val v) else s)

/-- POWER_OFF. -/
def execPowerOff (a : Acc) (f m : Fin 4) (v : Word) (s : State) : Ans :=
  .next (if bitAt v 3 then accDo s a (fun s => wrFleModCtl s f.val m.val v) else s)

/-- The good members of a superblock: the blocks of every plane of its dies, less the bad ones (R302, R315). -/
def goodMembers (g : Geometry) (sb : Nat) : List Nat :=
  (List.range 64).filter (fun j => j / 4 % 8 < g.targets && j % 4 < g.planes && !(g.bad.contains (sb, j)))

/-- The module's superblocks, formatted. -/
def freshSbs (m : Nat) (g : Geometry) : Tbl Sb :=
  ((List.range (min g.dies 4)).map (fun d => (List.range (min g.blocks 8192)).map (fun b =>
    (sbKey m d b, ({ members := goodMembers g (d * 2 ^ 13 + b), pages := min g.pages 4096 } : Sb))))).flatten

/-- A location on module `m`, whose flash goes, becomes one that no page will ever have (R327). -/
def goneLoc (m l : Nat) : Nat := if sbModule (locSb l) = m then l + 2 ^ 40 else l

def goneRoot (m : Nat) (r : FleRoot) : FleRoot := { r with map := r.map.map (fun e => (e.1, goneLoc m e.2)) }

/-- Everything the flash of a module held goes: what still points there points to nothing. -/
def dropModule (f : Fle) (m : Nat) : Fle :=
  let f := leavePool f m
  { f with
    sbs := f.sbs.filter (fun e => sbModule e.1 != m),
    flash := (f.flash.filter (fun e => sbModule (locSb e.1) != m)).map (fun e =>
      (e.1, { e.2 with slots := e.2.slots.map (fun x => { x with src := goneLoc m x.src, old := x.old.map (goneLoc m) }) })),
    map := f.map.map (fun e => (e.1, goneLoc m e.2)),
    rootA := f.rootA.map (goneRoot m), rootB := f.rootB.map (goneRoot m) }

/-- ADMIT_DONE (R326): the module is scanned and formatted, and enters service; one that is not a supported part (R301) does
not get so far (log 113). -/
def execAdmitDone (f m : Fin 4) (geo : Geometry) (s : State) : Ans :=
  .next (
    let x := fleOf s f.val
    if (modOf x m.val).st = .admitting && geo.wf then
      let l := freshSbs m.val geo
      let x := dropModule x m.val
      let x := { x with sbs := l.foldl (fun t e => tset t e.1 e.2) x.sbs,
                        pool := x.pool ++ (l.filter (fun e => !e.2.members.isEmpty)).map Prod.fst }
      setFle s f.val (gcNorm (setMod x m.val (fun y => { y with st := .inService, admitted := true })))
    else s)

/-- EVAC_DONE (R326): no valid AU is left on the module, and nothing that is still needed (R314, R318, R322). -/
def execEvacDone (f m : Fin 4) (s : State) : Ans :=
  .next (
    let x := fleOf s f.val
    if (modOf x m.val).st = .evacuating && validOn x m.val true = 0
        && !(needed s f.val (fun l => sbModule (locSb l) = m.val)) then
      setFle s f.val (setMod (dropModule x m.val) m.val (fun y => { y with st := .empty, admitted := false }))
    else s)

/-- MOD_PRSNT_FALL (R326). -/
def execModPrsntFall (f m : Fin 4) (s : State) : Ans :=
  .next (updFle s f.val (fun x => setMod x m.val (fun y =>
    { y with prsnt := true, st := if y.st = .absent then .present else y.st })))

/-- GC gives up a victim of the module, whose data is lost, and takes another while it runs (R318, R327). -/
def leaveVictim (f : Fle) (m : Nat) : Fle :=
  if f.victim.any (fun k => sbModule k = m) then
    let f := { f with victim := none }
    if f.fgGc || f.bgGc then takeVictim f else f
  else f

/-- A module fails: the pages of writes in flight on it are programmed elsewhere, its free superblocks are gone (R324,
R327). -/
def failModule (s : State) (u m : Nat) : State :=
  let pages := (pagesInFlight s u).filter (fun p => sbModule (locSb p) = m)
  let s := updFle s u (fun f =>
    leaveVictim (roCheck (leavePool (setMod f m (fun y => { y with st := .failed, admitted := false })) m)) m)
  fleSettle (pages.foldl (fun s p => redoOr s u (locSb p) p) s) u

/-- MOD_PRSNT_RISE (R326). -/
def execModPrsntRise (f m : Fin 4) (s : State) : Ans :=
  .next (
    let u := f.val
    let y := modOf (fleOf s u) m.val
    let s1 := updFle s u (fun x => setMod x m.val (fun y => { y with prsnt := false }))
    if !y.prsnt then s
    else if y.st = .poweredOff then updFle s1 u (fun x => setMod x m.val (fun y => { y with st := .absent }))
    else failModule s1 u m.val)

/-- MOD_DIES_LOST (R326, R327). -/
def execModDiesLost (f m : Fin 4) (s : State) : Ans :=
  .next (
    match (modOf (fleOf s f.val) m.val).st with
    | .absent | .poweredOff => s
    | _ => failModule s f.val m.val)

end Sys2Proof.Machine
end

