-- ==== Sys2Proof/Machine/HawserRx.lean ====
section
/-!
DEFINITION. Chapter 17: arriving messages (R384, R389 to R391, R393, R396), the loss of a partner (R400).
-/
namespace Sys2Proof.Machine
open Sys2Proof

/-! ## Policing (R393) -/

def polKeyOf (p t : Nat) : Nat := p * 4096 + t

/-- The number of a tenant's profile. -/
def profileOf (s : State) (t : Nat) : Nat := fld (tget s.hws.tenProf 0 (t / 16)) (4 * (t % 16) + 3) (4 * (t % 16))

/-- The profile of a tenant. -/
def polProfile (s : State) (t : Nat) : Word := tget s.hws.polProf 0x4040 (profileOf s t)

/-- What a bucket of profile `f` that held `b` holds now, in thousandths of a byte: RATE_MBPS of them for each nanosecond, up to
the burst; none was full. Time that has stepped back fills nothing (log 123). -/
def filled (s : State) (f : Word) (b : Option (Nat × Word)) : Nat :=
  let full := fld f 31 0 * 1000
  match b with
  | none => full
  | some b => min full (b.1 + fld f 63 32 * (s.tb.time.toNat - b.2.toNat))

/-- The level of a bucket now. -/
def bucketLevel (s : State) (p t : Nat) : Nat :=
  filled s (polProfile s t) ((tfind s.hws.buckets (polKeyOf p t)).or (tfind s.hws.polBase (profileOf s t)))

/-- HWS_POL_PROF `k` changes: what its buckets have filled up to now they keep (R393). -/
def wrPolProf (s : State) (k : Nat) (v : Word) : State :=
  let base := (filled s (tget s.hws.polProf 0x4040 k) (tfind s.hws.polBase k), s.tb.time)
  let buckets := s.hws.buckets.map (fun e =>
    if profileOf s (e.1 % 4096) = k then (e.1, bucketLevel s (e.1 / 4096) (e.1 % 4096), s.tb.time) else e)
  { s with hws := { s.hws with polProf := tset s.hws.polProf k v, polBase := tset s.hws.polBase k base, buckets := buckets } }

/-- HWS_TEN_PROF word `g` changes: the buckets of a tenant that moves to another profile keep what they hold (R393). -/
def wrTenProf (s : State) (g : Nat) (v : Word) : State :=
  let moves := (List.range 16).filter (fun k => fld v (4 * k + 3) (4 * k) != profileOf s (16 * g + k))
  let keep := moves.flatMap (fun k => (List.range 16).map (fun p => (p, 16 * g + k)))
  let buckets := keep.foldl (fun b e => tset b (polKeyOf e.1 e.2) (bucketLevel s e.1 e.2, s.tb.time)) s.hws.buckets
  { s with hws := { s.hws with tenProf := tset s.hws.tenProf g v, buckets := buckets } }

/-- A message of class 1 to 7 is policed: whether it passes. -/
def police (s : State) (p : Nat) (m : Msg) : Bool × State :=
  let f := polProfile s m.tenant
  let k := polKeyOf p m.tenant
  if m.cls = 0 || fld f 63 32 = 0 then (true, s)
  else
    let l := bucketLevel s p m.tenant
    if msgLen m * 1000 ≤ l then
      (true, { s with hws := { s.hws with buckets := tset s.hws.buckets k (l - msgLen m * 1000, s.tb.time) } })
    else
      let s := hwsFlag (ctrAdd s (0x98C0 + p) 1) 2
      (false, { s with hws := { s.hws with
        polCnt := tmod s.hws.polCnt 0 k (fun w => if w = -1 then w else w + 1) } })

/-! ## The epoch test (R396) -/

/-- The code with which the epoch test refuses a message, if it does. -/
def epochCode (s : State) (m : Msg) : Option Nat :=
  if !m.routed then none
  else
    let d := (BitVec.ofNat 16 m.epoch - s.cmp.epoch).toNat
    if d = 0 || (d = 0xFFFF && s.cmp.grace && decide (now s < s.cmp.changed.toNat + 500000)) then none
    else if d ≤ 0x7FFF then some 2
    else some 1

/-- The sticky bits of an epoch refusal. -/
def epochNote (s : State) (code : Nat) : State := cmpFlag s (if code = 2 then 2 else 1)

/-- Policing and the epoch test, then `f` for a message that passes. -/
def admitMsg (s : State) (p : Nat) (m : Msg) (f : State → State) : State :=
  let a := police s p m
  if !a.1 then a.2
  else match epochCode a.2 m with
    | some c => refuse (epochNote a.2 c) m c
    | none => f a.2

/-- A message of the given type arrives for this node on a port whose link is up. -/
def arrives (s : State) (p : Nat) (m : Msg) (kind : Nat) : Bool :=
  (portOf s p).up && m.kind = kind && m.dst = nodeNum s && m.payload.length ≤ 16384

/-! ## DATA, PUT and SCATTER -/

/-- The first refusal of a list of tests. -/
def firstCode (l : List (Bool × Nat)) : Option Nat := (l.find? Prod.fst).map Prod.snd

/-- DATA for a receive ring (R389). -/
def landData (s : State) (p : Nat) (m : Msg) : State :=
  let x := recvOf s m.ring
  match firstCode [(!(rqOn x) || bitAt x.cfg 1, 5), (!(rqTenant x m.tenant), 6), (rqFull x, 7),
      (decide (msgLen m > rqSlot x), 8)] with
  | some c => refuse s m c
  | none =>
    let r := writeSlot s (hwsWho p m.tenant) m.ring m
    if r.1 then r.2 else refuse r.2 m 0xC

/-- DATA_RECEIVE. -/
def execDataReceive (p : Fin 16) (m : Msg) (s : State) : Ans :=
  .next (if arrives s p.val m 1 then admitMsg s p.val m (fun s => landData s p.val m) else s)

/-- The ACK of a complete zone (R389). -/
def zoneAck (s : State) (m : Msg) (z size : Nat) : Msg :=
  { dst := m.src, src := nodeNum s, epoch := s.cmp.epoch.toNat, kind := 8, hops := 16, msgid := m.msgid, tenant := m.tenant,
    flow := (Config.freeByte s.choice 0).toNat, ring := m.reply, arg := put size 8 ||| put z 0 }

/-- A PUT for a landing zone (R389). -/
def landPut (s : State) (p : Nat) (m : Msg) : State :=
  let z := m.ring
  let x := zoneOf s z
  let o := fld m.arg 39 0
  let n := m.payload.length
  let a := x.base.toNat + o
  match firstCode [(x.tenant != m.tenant, 6),
      (x.st != .armed || x.src != m.src || decide (o + n > x.size) || decide (x.landed + n > x.size)
        || !(n = 0 || (bufArea a false && withinTier s a n)), 9)] with
  | some c => refuse s m c
  | none =>
    let r := nodeWrite s (hwsWho p m.tenant) a m.payload
    if !r.1 then refuse r.2 m 0xC
    else
      let s := updZone r.2 z (fun x => { x with landed := x.landed + n })
      if x.landed + n = x.size then
        let s := ctrAdd (updZone s z (fun x => { x with st := .complete })) (0x9700 + z) 1
        sendOwn (tick1 s) (zoneAck s m z x.size)
      else s

/-- PUT_RECEIVE. -/
def execPutReceive (p : Fin 16) (m : Msg) (s : State) : Ans :=
  .next (if arrives s p.val m 2 then admitMsg s p.val m (fun s => landPut s p.val m) else s)

/-- The head of a SCATTER payload (R390). -/
structure ScatHead where
  table : Nat
  nidx : Nat
  seq : Nat
  sF : Nat
  mode : Nat
  round : Nat
  sat : Bool
  dim : Nat

def scatHead (l : List Byte) : ScatHead :=
  let w := fun (k : Nat) => bytesWord ((l.drop (8 * k)).take 8)
  { table := fld (w 0) 55 0, nidx := fld (w 1) 63 32, seq := fld (w 1) 31 0, sF := fld (w 2) 63 60, mode := fld (w 2) 59 58,
    round := fld (w 2) 57 56, sat := bitAt (w 2) 55, dim := fld (w 2) 54 40 }

/-- The payload is as long as its head requires, and the head's fields are ones a SCATTER accepts. -/
def scatOk (s : State) (h : ScatHead) (n : Nat) : Bool :=
  64 + up64 (4 * h.nidx) + h.nidx * rowStride h.sF h.dim ≤ n && 64 ≤ n && h.sF ≤ 4 && h.mode ≤ 1 && h.round ≤ 2
    && h.table % 64 = 0 && inT1 s h.table 64

/-- The GTE that applies SCATTER messages. -/
def scatGte (s : State) : Nat := fld s.hws.ctl 18 16

/-- The ring's counter passes a SCATTER message. -/
def scatPass (s : State) (r : Nat) : State := ctrAdd s (0x9600 + r) 1

/-- A SCATTER for a ring whose SCAT bit is set (R390). Its residue records show the message's MSGID as their ADDR, and a
second mismatch refuses it with MEMERR, rows already written standing: the spec gives neither (DESIGN CHOICE, log 107). -/
def landScatter (s : State) (m : Msg) (res : List Residue) : State :=
  let x := recvOf s m.ring
  match firstCode [(!(rqOn x) || !(bitAt x.cfg 1), 5), (!(rqTenant x m.tenant), 6)] with
  | some c => refuse s m c
  | none =>
    let u := scatGte s
    let w : Who := { cls := 4, unit := u, op := 2, tenant := m.tenant, agent := engineAgent 4 u }
    let h := scatHead m.payload
    if !(scatOk s h m.payload.length) then refuse s m 0xA
    else
      let r := nodeRead s w h.table 64
      if !r.ok then refuse r.s m 0xC
      else
        let t := tableOf r.data
        if tableBad r.s t || t.dim != h.dim || (h.mode = 1 && t.stamps = 0) then refuse r.s m 0xA
        else
          let z := rowStride h.sF h.dim
          let how : ScatterHow := {
            mode := h.mode, sF := h.sF, round := h.round, sat := h.sat, addr := m.msgid,
            stamp := m.epoch * 2 ^ 48 + h.seq * 2 ^ 16 + m.src }
          let rows := slices h.nidx z (m.payload.drop (64 + up64 (4 * h.nidx)))
          let idx := words32 ((m.payload.drop 64).take (4 * h.nidx))
          let g := scatterAll r.s w t how res (List.zipWith Prod.mk idx rows)
          let s := scatterNote g u m.tenant
          if g.ok then scatPass s m.ring else refuse s m 0xC

/-- SCATTER_RECEIVE. -/
def execScatterReceive (p : Fin 16) (m : ScatterMsg) (s : State) : Ans :=
  .next (if arrives s p.val m.msg 3 then admitMsg s p.val m.msg (fun s => landScatter s m.msg m.checks) else s)

/-! ## Notices -/

/-- ACK_RECEIVE. -/
def execAckReceive (p : Fin 16) (m : Msg) (s : State) : Ans :=
  .next (if arrives s p.val m 8 then landNotice s m else s)

/-- REFUSE_RECEIVE. -/
def execRefuseReceive (p : Fin 16) (m : Msg) (s : State) : Ans :=
  .next (if arrives s p.val m 9 then landNotice s m else s)

/-- Every ARMED zone whose SRC is a node becomes ORPHANED (R389, R400). -/
def orphan (s : State) (node : Nat) : State :=
  if s.hws.zones.any (fun e => e.2.st = .armed && e.2.src = node) then
    hwsFlag { s with hws := { s.hws with zones := s.hws.zones.map (fun e =>
      if e.2.st = .armed && e.2.src = node then (e.1, { e.2 with st := .orphaned }) else e) } } 5
  else s

/-- The event ring (R402). -/
def evtRing (s : State) : Nat := fld s.hws.ctl 31 24

/-- A notice goes into EVT_RING; the code of its refusal where that ring cannot take it (R391). -/
def landEvent (s : State) (m : Msg) : Option Nat × State :=
  let r := evtRing s
  let x := recvOf s r
  match firstCode [(!(rqOn x) || bitAt x.cfg 1, 5), (!(rqTenant x m.tenant), 6), (rqFull x, 7)] with
  | some c => (some c, s)
  | none =>
    let p := writeSlot s (hwsWho 0 0) r m
    (if p.1 then none else some 0xC, p.2)

/-- ABSENT_RECEIVE (R400). A notice that EVT_RING cannot take is refused, and a refused message has no effect (R391): it orphans
no zone, and shows in ABSENT_SEEN alone (log 123). -/
def execAbsentReceive (p : Fin 16) (m : Msg) (s : State) : Ans :=
  .next (
    if arrives s p.val m 0xA then
      let x := landEvent (hwsFlag s 4) m
      match x.1 with
      | some c => refuse x.2 m c
      | none => orphan x.2 (fld m.arg 15 0)
    else s)

/-- An ABSENT notice of this node about a partner on a port. -/
def absentMsg (s : State) (dst node p : Nat) (local_ : Bool) : Msg :=
  { dst := dst, src := nodeNum s, epoch := s.cmp.epoch.toNat, kind := 0xA, hops := 16,
    arg := put (bit local_) 20 ||| put p 16 ||| put node 0 }

/-- The nodes of the watch list. -/
def watchList (s : State) : List Nat × State :=
  let n := min 1024 (fld s.hws.ctl 42 32)
  let r := nodeRead s (hwsWho 0 0) s.hws.watchBase.toNat (2 * n)
  (if r.ok then (chunks 2 r.data.length r.data).map leNat else [], r.s)

/-- PARTNER_ABSENT (R400): electrical idle on every lane for 10 µs. A link that was up goes down. The node's own notice that
EVT_RING cannot take is lost (log 123). -/
def execPartnerAbsent (p : Fin 16) (acked : Nat) (s : State) : Ans :=
  .next (
    let p := p.val
    match (portOf s p).partner with
    | none => s
    | some node =>
      let s := if (portOf s p).up then portFlag s p 2 else s
      let s := hwsFlag (portFlag (ackPort s p acked) p 3) 4
      let s := rerouteAll (updPort s p (fun x => { x with up := false, width := 0, partner := none })) p
      let s := (landEvent (orphan s node) (absentMsg s (nodeNum s) node p true)).2
      let l := watchList s
      l.1.foldl (fun s d => sendOwn s (absentMsg s d node p false)) l.2)

/-! ## Transit -/

/-- MSG_FORWARD (R384): policed, one hop spent, and on to a live port of the route. -/
def execMsgForward (p : Fin 16) (m : Msg) (s : State) : Ans :=
  .next (
    if !((portOf s p.val).up) || m.dst = nodeNum s || m.payload.length > 16384 then s
    else
      let a := police s p.val m
      if !a.1 then a.2
      else if m.hops = 0 then refuse a.2 m 4
      else routeMsg a.2 { m with hops := m.hops - 1 } false)

end Sys2Proof.Machine
end

