-- ==== Sys2Proof/Machine/Service.lean ====
section
/-!
DEFINITION. Chapter 20: service commands, memory channels, links (R456 to R463).
-/
namespace Sys2Proof.Machine
open Sys2Proof

/-! ## Results -/

def svOk : Nat := 0
def svRefused : Nat := 1
def svNoSpare : Nat := 2
def svTesting : Nat := 3
def svBadTarget : Nat := 4
def svTestFailed : Nat := 5

def unitNamed (cls u : Nat) : Bool := cls ≤ 8 && u < unitCount cls

/-- A command on a unit: its number, its state, then `f`; `busy` says that a pattern test on it has a result of its own
(R458). -/
def svcUnit (s : State) (cls u : Nat) (busy : Bool) (want : UnitMode) (f : State → State) : State :=
  if !(unitNamed cls u) then svcEnd s svBadTarget
  else if busy && underPattern s cls u then svcEnd s svTesting
  else if (unitOf s cls u).mode != want then svcEnd s svRefused
  else f s

/-- QUIESCE (R457): nothing further is dispatched on the unit, and a free spare stands in. -/
def svcQuiesce (s : State) (cls u : Nat) : State :=
  svcUnit s cls u true .inService (fun s =>
    let s := standIn s cls u .quiescing
    updBoot s (fun b => { b with svc := .quiesce cls u }))

/-- RESUME (R457). -/
def svcResume (s : State) (cls u : Nat) : State :=
  svcUnit s cls u false .quiesced (fun s =>
    let s := updUnit s cls u (fun x => { x with mode := .inService, offline := false })
    settleUnit (updBoot s (fun b => { b with svc := .resume cls u })) cls u)

/-- A unit's internal state is reset (R456): an NBU's buffers, a DSE's abandoned reads, a unit's place among its queues. Its
registers, which software reads, stay (log 80). -/
def unitReset (s : State) (cls u : Nat) : State :=
  let s := updUnit s cls u (fun x => { x with turn := 0, served := 0 })
  if cls = 8 then nbuClear s u
  else if cls = 1 then { s with dse := tmod s.dse {} u (fun x => { x with abandoned := [] }) }
  else s

/-- RELOAD (R456, R460): the unit's internal state is reset, its overlay applied, and its tests begin. -/
def svcReload (s : State) (cls u : Nat) : State :=
  svcUnit s cls u true .quiesced (fun s =>
    let s := updUnit s cls u (fun x => { x with mode := .testing, check := true })
    updBoot (applyOverlay (unitReset s cls u) cls u) (fun b => { b with svc := .reload cls u }))

/-- RETIRE (R457). -/
def svcRetire (s : State) (cls u : Nat) : State :=
  svcUnit s cls u true .quiesced (fun s => svcEnd (retireUnit s cls u 0) svOk)

/-- MIGRATE (R459): the channel goes to memory mode, whatever its HOME, and is held there. -/
def svcMigrate (s : State) (ch : Nat) : State :=
  if ch ≥ 512 then svcEnd s svBadTarget
  else if (unitOf s 8 ch).mode != .quiesced then svcEnd s svRefused
  else if !(chSpareFree s (ch / 32)) then svcEnd s svNoSpare
  else
    let s := updBoot s (fun b => { b with svc := .migrate ch })
    if (chanOf s ch).mode = .proc then toMem s ch else s

def linkWork (s : State) (act target lane : Nat) : State := updBoot s (fun b => { b with svc := .link act target lane })

/-- RECAL_HWS (R462): the port leaves every hash, and what it held goes out elsewhere. -/
def svcRecalHws (s : State) (p : Nat) : State :=
  if p ≥ 16 then svcEnd s svBadTarget
  else rerouteAll (updPort (linkWork s 7 p 0) p (fun x => { x with away := true })) p

/-- LANE_SPARE (R462): refused without a spare lane to switch to. -/
def svcLaneSpare (s : State) (p lane : Nat) : State :=
  if p ≥ 16 || lane > 3 then svcEnd s svBadTarget
  else if (portOf s p).spare then svcEnd s svNoSpare
  else linkWork s 8 p lane

/-- A write of BOOT_SVC_CMD (R465); an ACT that names no command does nothing (log 60). -/
def wrSvcCmd (s : State) (v : Word) : State :=
  let act := fld v 63 60
  let cls := fld v 59 56
  let t := fld v 55 46
  if act = 0 || act > 9 then s
  else if s.boot.svc != .idle then bootFlag s 1
  else
    let s := updBoot s (fun b => { b with svcAct := act, svcClass := cls, svcTarget := t })
    match act with
    | 1 => svcQuiesce s cls t
    | 2 => svcResume s cls t
    | 3 => svcReload s cls t
    | 4 => svcRetire s cls t
    | 5 => svcMigrate s t
    | 6 => if t < 16 then linkWork s 6 t 0 else svcEnd s svBadTarget
    | 7 => svcRecalHws s t
    | 8 => svcLaneSpare s t (fld v 39 32)
    | _ => if t < 4 then linkWork s 9 t 0 else svcEnd s svBadTarget

/-- The write of a command's own row: its ACT is the row's. -/
def svcRow (a : Acc) (act : Nat) (v : Word) (s : State) : State :=
  accDo s a (fun s => if fld v 63 60 = act then wrSvcCmd s v else s) true

/-- QUIESCE. -/
def execQuiesce (a : Acc) (v : Word) (s : State) : Ans := .next (svcRow a 1 v s)
/-- RESUME. -/
def execResume (a : Acc) (v : Word) (s : State) : Ans := .next (svcRow a 2 v s)
/-- RELOAD. -/
def execReload (a : Acc) (v : Word) (s : State) : Ans := .next (svcRow a 3 v s)
/-- RETIRE. -/
def execRetire (a : Acc) (v : Word) (s : State) : Ans := .next (svcRow a 4 v s)
/-- MIGRATE. -/
def execMigrate (a : Acc) (v : Word) (s : State) : Ans := .next (svcRow a 5 v s)
/-- RECAL_HBM (R462): the traffic of each channel waits while it is recalibrated, and is served. -/
def execRecalHbm (a : Acc) (v : Word) (s : State) : Ans := .next (svcRow a 6 v s)
/-- RECAL_HWS. -/
def execRecalHws (a : Acc) (v : Word) (s : State) : Ans := .next (svcRow a 7 v s)
/-- LANE_SPARE. -/
def execLaneSpare (a : Acc) (v : Word) (s : State) : Ans := .next (svcRow a 8 v s)
/-- RECAL_D2D (R462): requests wait in the link's decoupling queue, and are served. -/
def execRecalD2d (a : Acc) (v : Word) (s : State) : Ans := .next (svcRow a 9 v s)

/-! ## Ends -/

/-- QUIESCE_DONE (R456). -/
def execQuiesceDone (s : State) : Ans :=
  .next (
    match s.boot.svc with
    | .quiesce cls u =>
      if slotsUsed s cls u false = 0 then svcEnd (updUnit s cls u (fun x => { x with mode := .quiesced })) svOk else s
    | _ => s)

/-- A failed recovery test (R418, R456): the unit is retired, or stays QUIESCED, and without any spare its queues are lost. -/
def recoveryFails (s : State) (cls u : Nat) (l : List CheckResult) : State :=
  let s := testsFailed s cls u l
  let s := if autoRetire s cls u then retireUnit (errFlag s 7) cls u 0x0B
    else
      let none_ := (unitOf s cls u).spare = .none && (freeSpare s cls).isNone
      let s := updUnit s cls u (fun x => { x with mode := .quiesced, check := false, offline := none_ })
      if none_ then loseQueued s cls u else s
  svcEnd s svTestFailed

/-- RELOAD_TESTS_DONE (R456, R457): a unit that passes is back once its stand-in has finished. -/
def execReloadTestsDone (checks : List CheckResult) (s : State) : Ans :=
  .next (
    match s.boot.svc with
    | .reload cls u =>
      let s := testWork (unitReset s cls u) cls
      if checksPass checks then
        let s := updUnit s cls u (fun x => { x with mode := .inService, check := false, offline := false })
        settleUnit (updBoot s (fun b => { b with svc := .resume cls u })) cls u
      else recoveryFails s cls u checks
    | _ => s)

/-- MIGRATE_DONE (R459, R460): the spare has the channel's number, every codeword as stored, and the NBU its buffers; the
spare's NBU, just mapped in, first runs its tests (R418, log 81). -/
def execMigrateDone (s : State) : Ans :=
  .next (
    match s.boot.svc with
    | .migrate ch =>
      let s := updBoot s (fun b => { b with chSpares := tset b.chSpares (ch / 32) ch })
      svcEnd (updUnit s 8 ch (fun x => { x with mode := .inService, offline := false, fresh := true })) svOk
    | _ => s)

/-- The overlay of what a link command recalibrates (R462): class 0xB names a hub, with its stacks and its die-to-die link, class
0xD a Hawser port (R411, log 82). -/
def recalOverlay (s : State) (act t : Nat) : State :=
  match act with
  | 6 => applyOverlay s 0xB (t / 4)
  | 9 => applyOverlay s 0xB t
  | _ => applyOverlay s 0xD t

/-- SVC_DONE (R462, R463): the recalibrated port is back in the hashes, the spare lane is in use. -/
def execSvcDone (s : State) : Ans :=
  .next (
    match s.boot.svc with
    | .link act t _ =>
      let s := recalOverlay s act t
      let s := if act = 7 then updPort s t (fun x => { x with away := false })
        else if act = 8 then hwsFlag (updPort s t (fun x => { x with spare := true })) 1
        else s
      svcEnd s svOk
    | _ => s)

/-! ## A channel that fails (R461) -/

/-- Requests of a channel that has gone are not served. -/
def dropRequests (s : State) (ch : Nat) : State :=
  let c := chanOf s ch
  let s := (c.queue ++ c.upstream).foldl (fun s r => emit s (.chanDone ch r.1 false [])) s
  { s with chans := tset s.chans ch { home := c.home, slice := c.slice, sticky := c.sticky } }

/-- CHANNEL_FAIL: the free spare takes the number with every codeword uncorrectable, and its NBU the queue; without a spare
the channel is retired as R448 retires one (log 61). -/
def execChannelFail (ch : Fin 512) (s : State) : Ans :=
  .next (
    let ch := ch.val
    if s.mem.retiredCh.contains ch || !s.boot.ready then s
    else
      let base := t2Base + ch * 2 ^ 32
      let s := loseRunning s 8 ch false
      let s := freeBanks s 8 ch
      let s := memErr s { cls := 0xB, unit := ch / 128 } 4 base 0
      let s := { s with mem := { s.mem with
          cells := s.mem.cells.filter (fun c => !(base ≤ c.1 && c.1 < base + 2 ^ 32)),
          rewritten := s.mem.rewritten.filter (fun c => !(base ≤ c && c < base + 2 ^ 32)),
          lostCh := sadd s.mem.lostCh ch } }
      if chSpareFree s (ch / 32) then
        let s := updBoot s (fun b => { b with chSpares := tset b.chSpares (ch / 32) ch })
        let s := updUnit s 8 ch (fun x => { x with fresh := true })
        if s.boot.svc = .migrate ch then svcEnd s svNoSpare else s
      else
        let s := invalidateExt s base (2 ^ 32)
        let s := dropRequests { s with mem := { s.mem with retiredCh := sadd s.mem.retiredCh ch } } ch
        if (unitOf s 8 ch).mode = .retired then s else retireUnit (dropService s 8 ch) 8 ch 0)

/-! ## The BOOT window (R465, R33) -/

def rdSvcStatus (s : State) : Word :=
  let b := s.boot
  put b.svcResult 56 ||| put b.svcAct 52 ||| put b.svcClass 48 ||| put b.svcTarget 38 ||| b.sticky &&& mask 1 1
    ||| put (bit (b.svc != .idle)) 0

def clrBoot (s : State) (v m : Word) : State := updBoot s (fun b => { b with sticky := w1c b.sticky v m })

def rdBoot (s : State) (o : Nat) : Word :=
  if o = 0x00 then rdNodeId
  else if o = 0x08 then rdNodeStatus s
  else if o = 0x18 then rdBootFail s
  else if o = 0x20 then s.boot.readyTime
  else if o = 0x100 then s.rail.ctl
  else if o = 0x108 then rdRailStatus s
  else if o = 0x208 then rdSvcStatus s
  else if 0x300 ≤ o && o < 0x318 then rdSpare s ((o - 0x300) / 8)
  else if 0x400 ≤ o && o < 0x480 then rdChSpare s ((o - 0x400) / 8)
  else 0

/-- A WO register written 0 does nothing, but for BOOT_RESET, whose chapter refuses every other write (R452). -/
def wrBoot (s : State) (a : Acc) (o : Nat) (v : Word) : State :=
  match o with
  | 0x08 => clrBoot s v (mask 4 4)
  | 0x10 => wrBootReset s a v
  | 0x28 => releaseStage s v
  | 0x100 => wrRailCtl s v
  | 0x108 => { s with rail := { s.rail with sticky := w1c s.rail.sticky v (mask 4 0) } }
  | 0x200 => wrSvcCmd s v
  | 0x208 => clrBoot s v (mask 1 1)
  | _ => s

end Sys2Proof.Machine
end

