-- ==== Sys2Proof/Machine/Security.lean ====
section
/-!
DEFINITION. Chapter 21: the loader's commands, attestation, the SEC window (R471 to R479).
-/
namespace Sys2Proof.Machine
open Sys2Proof

/-! ## SEC_CMD (R471, R479) -/

/-- LOAD begins: the range of a program is reserved (R472), once every store that a Sequencer made before is visible, so
that none alters the code region later (R72). -/
def beginLoad (s : State) (i src : Nat) : State :=
  let dst := s.sec.dst.toNat
  match peekHead s src with
  | some h =>
    if regionRefuse s i dst h.psize = rOk then
      let s := drainAll s
      updSec (setRegion s i { base := dst, units := unitsFor h.psize }) (fun x => { x with work := .load i src dst true })
    else updSec s (fun x => { x with work := .load i src dst false })
  | none => updSec s (fun x => { x with work := .load i src dst false })

/-- A write of SEC_CMD. -/
def wrSecCmd (s : State) (a : Acc) (v : Word) : State :=
  let act := fld v 63 60
  let i := fld v 59 56
  let src := fld v 55 0
  if secBusy s || act = 0 || act > 4 || (act = 4 && !(isPF a)) then secFlag s 1
  else
    match act with
    | 1 => beginLoad s i src
    | 2 => updSec s (fun x => { x with work := .release i })
    | 3 => updSec s (fun x => { x with work := .attest src })
    | _ => updSec s (fun x => { x with work := .enrollFirst src })

/-- The write of a command's own row: its ACT is the row's. -/
def secRow (a : Acc) (act : Nat) (v : Word) (s : State) : State :=
  accDo s a (fun s => if fld v 63 60 = act then wrSecCmd s a v else s)

/-- LOAD. -/
def execLoad (a : Acc) (v : Word) (s : State) : Ans := .next (secRow a 1 v s)
/-- RELEASE. -/
def execRelease (a : Acc) (v : Word) (s : State) : Ans := .next (secRow a 2 v s)
/-- ATTEST. -/
def execAttest (a : Acc) (v : Word) (s : State) : Ans := .next (secRow a 3 v s)
/-- ENROLL_FIRST. -/
def execEnrollFirst (a : Acc) (v : Word) (s : State) : Ans := .next (secRow a 4 v s)

/-! ## Attestation (R476, R477) -/

def word384 (h : BitVec 384) : List Byte := leBytes 48 h.toNat

def rdRgn (r : Region) : Word := put (bit r.valid) 63 ||| put r.slot 59 ||| BitVec.ofNat 64 r.base ||| put r.units 0

def rdRgnVer (r : Region) : Word := put r.svn.toNat 16 ||| put r.version.toNat 0

def regionRec (r : Region) : List Byte := wordBytes (rdRgn r) ++ wordBytes (rdRgnVer r) ++ word384 r.hash

def heldRec (first : Word) (h : Held) : List Byte :=
  wordBytes first ++ wordBytes (put h.svn.toNat 16 ||| put h.version.toNat 0) ++ word384 h.hash

/-- Key slots as bits. -/
def slotBits (s : State) (lo n : Nat) (f : KeySlot → Bool) : Nat :=
  (List.range n).foldl (fun a k => if f (slotOf s (lo + k)) then a + 2 ^ k else a) 0

/-- The report before its signatures. -/
def reportBody (s : State) : List Byte :=
  let ovl := s.sec.overlays
  let n := ovl.length
  wordBytes (put (1472 + 64 * n + 3284) 32 ||| put 1 0) ++ wordBytes Config.serial ++ wordBytes rdNodeId ++ wordBytes s.tb.time
    ++ ((List.range 4).map (fun k => wordBytes (tget s.sec.nonce 0 k))).flatten
    ++ wordBytes (put (s.sec.topLeaf - 1) 32 ||| put s.sec.bottomLeaf 0) ++ wordBytes (rdNodeStatus s)
    ++ wordBytes (put (tget s.sec.floors 0 1) 32 ||| put (tget s.sec.floors 0 2) 16 ||| put (tget s.sec.floors 0 3) 0)
    ++ wordBytes (put (slotBits s 8 2 (fun x => x.programmed)) 18 ||| put (slotBits s 8 2 (fun x => x.revoked)) 16
      ||| put (slotBits s 0 8 (fun x => x.programmed)) 8 ||| put (slotBits s 0 8 (fun x => x.revoked)) 0)
    ++ wordBytes (put (bit (bitAt s.tst.sticky 2)) 33 ||| put (bit (unlocked s)) 32 ||| put n 16 ||| put s.err.packVer.toNat 0)
    ++ List.replicate 24 0
    ++ ((List.range 16).map (fun i => regionRec (regionOf s i))).flatten
    ++ (match s.sec.pack with
        | some h => if s.err.packVer = 0 then List.replicate 64 0 else heldRec (put 1 63 ||| put h.slot 59) h
        | none => List.replicate 64 0)
    ++ (ovl.map (fun h => heldRec (BitVec.ofNat 64 h.target) h)).flatten
    ++ ((List.range 64).map (fun k => leBytes 2 (tget s.seqs {} k).progver.toNat)).flatten

/-- The whole report. -/
def report (s : State) : List Byte :=
  let l := reportBody s
  l ++ (List.range 96).map (Config.ecdsaSign Config.ecdsaSeed s.choice l) ++ List.replicate 32 0
    ++ (List.range 3284).map (Config.hssSign Config.hssSeed s.choice l)

/-- A refill where one is due: the top counter advances; none where it is spent. -/
def refill (x : Sec) : Option Sec :=
  if x.bottomLive && x.bottomLeaf < 1024 then some x
  else if x.topLeaf ≥ 1048576 then none
  else some { x with topLeaf := x.topLeaf + 1, bottomLeaf := 0, bottomLive := true }

/-- The end of an ATTEST. -/
def endAttest (s : State) (dst : Nat) : State :=
  if dst % 64 != 0 || !(inT0 dst || area dst = .t1) || !(withinTier s dst 8896) then secEnd s rBadAddr
  else
    match refill s.sec with
    | none => secEnd s rExhausted
    | some x =>
      let s := { s with sec := x }
      let s := (anyWrite (tick1 s) loaderWho dst (report s)).2
      secEnd (updSec s (fun x => { x with bottomLeaf := x.bottomLeaf + 1 })) rOk

/-- SEC_DONE: the command in progress ends. -/
def execSecDone (s : State) : Ans :=
  .next (
    if !(secTurn s) then s else
    match s.sec.work with
    | .idle => s
    | .load i src dst held => endLoad s i src dst held
    | .release i =>
      let r := regionOf s i
      if r.units = 0 then secEnd s rRegion
      else if !r.users.isEmpty then secEnd s rInUse
      else secEnd (freeRegion s i) rOk
    | .attest dst => endAttest s dst
    | .enrollFirst src => endEnrol s src)

/-! ## Registers (R479) -/

def rdSecStatus (s : State) : Word := put s.sec.result 56 ||| s.sec.sticky ||| put (bit (secBusy s)) 0

/-- Word `k` of a 384-bit value, least significant first. -/
def wordOf (h : BitVec 384) (k : Nat) : Word := (h >>> (64 * k)).setWidth 64

def rdKeyState (x : KeySlot) : Word := put (bit x.programmed) 5 ||| put (bit x.revoked) 4 ||| put x.perms.toNat 0

def rdUsers (r : Region) : Word := BitVec.ofNat 64 (r.users.foldl (fun a n => a + 2 ^ n) 0)

def rdSec (s : State) (o : Nat) : Word :=
  if o = 0x08 then s.sec.dst
  else if 0x10 ≤ o && o ≤ 0x28 then tget s.sec.nonce 0 ((o - 0x10) / 8)
  else if o = 0x30 then rdSecStatus s
  else if o = 0x38 then Config.serial
  else if 0x40 ≤ o && o ≤ 0x68 then wordOf Config.idHash ((o - 0x40) / 8)
  else if 0x100 ≤ o && o < 0x200 then
    let r := regionOf s ((o - 0x100) / 16)
    if o % 16 = 0 then rdRgn r else rdUsers r
  else if 0x200 ≤ o && o < 0x280 then rdRgnVer (regionOf s ((o - 0x200) / 8))
  else if 0x400 ≤ o && o < 0x680 then
    let x := slotOf s ((o - 0x400) / 64)
    let k := o % 64 / 8
    if k < 6 then wordOf x.hash k else if k = 6 then rdKeyState x else 0
  else 0

def wrSec (s : State) (a : Acc) (o : Nat) (v : Word) : State :=
  if o = 0x00 then wrSecCmd s a v
  else if o = 0x08 then updSec s (fun x => { x with dst := v &&& mask 55 16 })
  else if 0x10 ≤ o && o ≤ 0x28 then updSec s (fun x => { x with nonce := tset x.nonce ((o - 0x10) / 8) v })
  else if o = 0x30 then updSec s (fun x => { x with sticky := w1c x.sticky v (mask 1 1) })
  else s

end Sys2Proof.Machine
end

