-- ==== Sys2Proof/Machine/SeqFlow.lean ====
section
/-!
DEFINITION. Chapter 03: branches and jumps (R58), system instructions (R68), hand-over (R77) and special registers (R45).
-/
namespace Sys2Proof.Machine
open Sys2Proof

/-! ## Branches and jumps -/

/-- A branch (format B): the offset counts words from the branch itself (R47). -/
def branch (s : State) (n : Fin 64) (op : Nat) (rs1 rs2 : BitVec 6) (off : BitVec 14) (c : Word → Word → Bool) : State :=
  runInsn s n (op * 256) (wordI op rs1.toNat rs2.toNat off.toNat) false (fun s =>
    let q := seqOf s n
    let len := if c (reg q rs1) (reg q rs2) then (off.signExtend 56) * 4 else 4
    updSeq s n (fun q => { q with pc := q.pc + len, icount := q.icount + 1 }))

def execBeq (n : Fin 64) (rs1 rs2 : BitVec 6) (off : BitVec 14) (s : State) : Ans :=
  .next (branch s n 0x20 rs1 rs2 off (fun a b => a == b))
def execBne (n : Fin 64) (rs1 rs2 : BitVec 6) (off : BitVec 14) (s : State) : Ans :=
  .next (branch s n 0x21 rs1 rs2 off (fun a b => a != b))
def execBlt (n : Fin 64) (rs1 rs2 : BitVec 6) (off : BitVec 14) (s : State) : Ans :=
  .next (branch s n 0x22 rs1 rs2 off slt)
def execBge (n : Fin 64) (rs1 rs2 : BitVec 6) (off : BitVec 14) (s : State) : Ans :=
  .next (branch s n 0x23 rs1 rs2 off (fun a b => !(slt a b)))
def execBltu (n : Fin 64) (rs1 rs2 : BitVec 6) (off : BitVec 14) (s : State) : Ans :=
  .next (branch s n 0x24 rs1 rs2 off ult)
def execBgeu (n : Fin 64) (rs1 rs2 : BitVec 6) (off : BitVec 14) (s : State) : Ans :=
  .next (branch s n 0x25 rs1 rs2 off (fun a b => !(ult a b)))

/-- JAL (R58): rd receives PC + 4. -/
def execJal (n : Fin 64) (rd : BitVec 6) (off : BitVec 20) (s : State) : Ans :=
  .next (runInsn s n 0x2600 (wordJ 0x26 rd.toNat off.toNat) false (fun s =>
    updSeq s n (fun q =>
      let q' := setReg q rd ((q.pc + 4).setWidth 64)
      { q' with pc := q.pc + off.signExtend 56 * 4, icount := q.icount + 1 })))

/-- JALR (R58): a target with bits [1:0] set traps at the jump; one beyond 56 bits is a fetch fault at the target. -/
def execJalr (n : Fin 64) (rd rs1 : BitVec 6) (imm : BitVec 14) (s : State) : Ans :=
  .next (runInsn s n 0x2700 (wordI 0x27 rd.toNat rs1.toNat imm.toNat) false (fun s =>
    let t := reg (seqOf s n) rs1 + imm14 imm
    if t.toNat % 4 != 0 then takeTrap s n 0x2700 .misalignPc t
    else
      let s := updSeq s n (fun q =>
        let q' := setReg q rd ((q.pc + 4).setWidth 64)
        { q' with pc := t.setWidth 56, icount := q.icount + 1 })
      if t.toNat < 2 ^ 56 then s else takeTrap s n 0x2700 .fetchFault t))

/-! ## System instructions (R68), class X -/

/-- A system instruction: `bad` says a field that must be 0 is not; earlier stores are visible before it begins. -/
def sysInsn (s : State) (n : Fin 64) (funct : Nat) (rd rs1 rs2 : BitVec 6) (bad : Bool) (f : State → State) : State :=
  runInsn s n (0x3200 + funct) (wordR 0x32 rd.toNat rs1.toNat rs2.toNat funct) bad (fun s => f (drain s n))

def allZero (a b c : BitVec 6) : Bool := a == 0 && b == 0 && c == 0

/-- TRET: ILLEGAL outside a handler. -/
def execTret (n : Fin 64) (rd rs1 rs2 : BitVec 6) (s : State) : Ans :=
  .next (sysInsn s n 0 rd rs1 rs2 (!(allZero rd rs1 rs2) || !((seqOf s n).th)) (fun s => updSeq s n trapReturn))

/-- HALT: the resume address is PC + 4. -/
def execHalt (n : Fin 64) (rd rs1 rs2 : BitVec 6) (s : State) : Ans :=
  .next (sysInsn s n 1 rd rs1 rs2 (!(allZero rd rs1 rs2)) (fun s =>
    let s := updSeq s n (fun q => { retire q 4 with sticky := stick q.sticky 1 })
    haltSeq s n (seqOf s n).pc))

/-- BRK: raises BRK with TVAL 0 (R69). -/
def execBrk (n : Fin 64) (rd rs1 rs2 : BitVec 6) (s : State) : Ans :=
  .next (sysInsn s n 2 rd rs1 rs2 (!(allZero rd rs1 rs2)) (fun s => takeTrap s n 0x3202 .brk 0))

/-- The time allowed for the pending hand-over has passed (R76). -/
def hoExpired (s : State) (q : Seq) : Bool :=
  q.hoTmo != 0 && decide (q.hoStart.toNat + q.hoTmo.toNat * 1000000 ≤ now s)

/-- The pending hand-over expires. -/
def hoExpire (q : Seq) : Seq := { q with hoPending := false, sticky := stick q.sticky 5 }

/-- HOVER (R77): takes the pending hand-over after its fence, else writes 0 to rd. -/
def execHover (n : Fin 64) (rd rs1 rs2 : BitVec 6) (s : State) : Ans :=
  .next (sysInsn s n 3 rd rs1 rs2 (!(allZero 0 rs1 rs2)) (fun s =>
    let q := seqOf s n
    if q.hoPending && !q.th && !(hoExpired s q) then
      let s := updSeq s n (fun q =>
        let q := setReg q rd (0x8000000000000000#64 + q.progver.setWidth 64)
        { q with progver := q.hoVersion, pc := q.hoEntry, hoPending := false, sticky := stick q.sticky 4,
                 icount := q.icount + 1 })
      dropUsers s n q.hoEntry.toNat
    else
      let s := if q.hoPending && hoExpired s q then updSeq s n hoExpire else s
      updSeq s n (fun q => retire (setReg q rd 0) 4)))

/-! ## Special registers (R45) -/

/-- The value of a special register; none for a number not in the table. -/
def srRead (s : State) (n : Fin 64) (k : Nat) : Option Word :=
  let q := seqOf s n
  match k with
  | 0x00 => some (BitVec.ofNat 64 n.val)
  | 0x01 => some s.tb.time
  | 0x02 => some (q.tenant.setWidth 64)
  | 0x03 => some (flag q.th)
  | 0x04 => some (q.tvec.setWidth 64)
  | 0x05 => some (q.tpc.setWidth 64)
  | 0x06 => some (q.tcause.setWidth 64)
  | 0x07 => some q.tval
  | 0x08 => some q.tsave
  | 0x09 => some q.wdl
  | 0x0A => some (q.progver.setWidth 64)
  | 0x0B => some q.icount
  | _ => none

/-- An address with bits [1:0] reserved (R9). -/
def pcOf (v : Word) : BitVec 56 := BitVec.ofNat 56 (fld v 55 2 * 4)

/-- A write of a special register; none where it is read-only or not in the table. -/
def srWrite (q : Seq) (k : Nat) (v : Word) : Option Seq :=
  match k with
  | 0x02 => some { q with tenant := v.setWidth 12 }
  | 0x03 => some { q with th := bitAt v 0 }
  | 0x04 => some { q with tvec := pcOf v }
  | 0x05 => some { q with tpc := pcOf v }
  | 0x08 => some { q with tsave := v }
  | 0x09 => some { q with wdl := v }
  | _ => none

/-- RDSR: class X; rs1 must be 0. -/
def execRdsr (n : Fin 64) (rd rs1 : BitVec 6) (imm : BitVec 14) (s : State) : Ans :=
  .next (
    let word := wordI 0x30 rd.toNat rs1.toNat imm.toNat
    runInsn s n 0x3000 word (rs1 != 0 || (srRead s n imm.toNat).isNone) (fun s =>
      let s := drain s n
      match srRead s n imm.toNat with
      | some v => updSeq s n (fun q => retire (setReg q rd v) 4)
      | none => takeTrap s n 0x3000 .illegal word))

/-- WRSR: class X; rd must be 0. -/
def execWrsr (n : Fin 64) (rd rs1 : BitVec 6) (imm : BitVec 14) (s : State) : Ans :=
  .next (
    let word := wordI 0x31 rd.toNat rs1.toNat imm.toNat
    runInsn s n 0x3100 word (rd != 0) (fun s =>
      let q := seqOf s n
      match srWrite q imm.toNat (reg q rs1) with
      | some _ =>
        let s := drain s n
        updSeq s n (fun q => retire ((srWrite q imm.toNat (reg q rs1)).getD q) 4)
      | none => takeTrap s n 0x3100 .illegal word))

end Sys2Proof.Machine
end

