-- ==== Sys2Proof/Machine/SeqCtl.lean ====
section
/-!
DEFINITION. Chapter 03: the SEQ registers (R74 to R76, R474).
-/
namespace Sys2Proof.Machine
open Sys2Proof

/-- STOP halts a running Sequencer at its boundary; a WAIT in progress or an EISS stalled for credits ends without effect,
and a FENCE that waits runs to its end first (R75). -/
def stopSeq (s : State) (n : Fin 64) : State :=
  let q := seqOf s n
  if !q.running then s
  else
    match q.wait with
    | .fence _ => updSeq s n (fun q => { q with stopping := true })
    | .credit _ k _ => haltSeq (updQueue s k (fun x => { x with stalled := sdel x.stalled n.val })) n q.pc
    | _ => haltSeq s n q.pc

/-- START runs a halted Sequencer from SEQ_ENTRY (R75); a retired Sequencer ignores it (R448). -/
def startSeq (s : State) (n : Fin 64) : State :=
  let q := seqOf s n
  if q.running || q.retired then s
  else updSeq s n (fun q => { q with
    running := true, wait := .idle, pc := q.entry,
    progver := if q.startVer = 0 then q.progver else q.startVer,
    th := q.th && decide (q.entry = q.haltAddr) })

/-- A write of SEQ_CTL: START_VER is set; STOP wins over START (R75). -/
def wrSeqCtl (s : State) (n : Fin 64) (v : Word) : State :=
  let s := updSeq s n (fun q => { q with startVer := BitVec.ofNat 16 (fld v 31 16) })
  if bitAt v 1 then stopSeq s n else if bitAt v 0 then startSeq s n else s

def wrSeqEntry (s : State) (n : Fin 64) (v : Word) : State := updSeq s n (fun q => { q with entry := pcOf v })

def wrSeqStatus (s : State) (n : Fin 64) (v : Word) : State :=
  updSeq s n (fun q => { q with sticky := w1c q.sticky v (mask 6 1) })

def rdSeqStatus (s : State) (n : Fin 64) : Word :=
  let q := seqOf s n
  put q.lastCause.toNat 48 ||| put q.progver.toNat 32 ||| q.sticky ||| flag q.running

/-- The request names a valid region of its version (R474). -/
def hoTarget (s : State) (q : Seq) (ver : BitVec 16) : Bool :=
  match fetchRegion s q.hoEntry.toNat with
  | some k => decide ((tget s.sec.regions {} k).version = ver)
  | none => false

/-- A write of SEQ_HANDOVER (R76). A request that is refused still writes VERSION and TMO_MS, as any write with PENDING 0
does: R76 keeps PENDING alone back (DEDUCED, log 102). -/
def wrSeqHandover (s : State) (n : Fin 64) (v : Word) : State :=
  let q := seqOf s n
  if q.hoPending then (if bitAt v 0 then s else updSeq s n (fun q => { q with hoPending := false }))
  else
    let ver := BitVec.ofNat 16 (fld v 63 48)
    let s := updSeq s n (fun q => { q with hoVersion := ver, hoTmo := BitVec.ofNat 16 (fld v 47 32) })
    if !(bitAt v 0) then s
    else if q.progver.toNat < ver.toNat && hoTarget s q ver then
      updSeq s n (fun q => { q with hoPending := true, hoStart := s.tb.time })
    else updSeq s n (fun q => { q with sticky := stick q.sticky 6 })

def rdSeqHandover (s : State) (n : Fin 64) : Word :=
  let q := seqOf s n
  put q.hoVersion.toNat 48 ||| put q.hoTmo.toNat 32 ||| flag q.hoPending

def wrSeqHoEntry (s : State) (n : Fin 64) (v : Word) : State :=
  updSeq s n (fun q => if q.hoPending then q else { q with hoEntry := pcOf v })

/-- SEQ_START (R75): a write of SEQ_CTL with START set. -/
def execSeqStart (a : Acc) (n : Fin 64) (v : Word) (s : State) : Ans :=
  .next (if bitAt v 0 then accDo s a (fun s => wrSeqCtl s n v) else s)

/-- SEQ_STOP (R75): a write of SEQ_CTL with STOP set. -/
def execSeqStop (a : Acc) (n : Fin 64) (v : Word) (s : State) : Ans :=
  .next (if bitAt v 1 then accDo s a (fun s => wrSeqCtl s n v) else s)

/-- SEQ_HANDOVER_WRITE (R76). -/
def execSeqHandoverWrite (a : Acc) (n : Fin 64) (v : Word) (s : State) : Ans :=
  .next (accDo s a (fun s => wrSeqHandover s n v))

/-- HO_TIMEOUT (R76). -/
def execHoTimeout (n : Fin 64) (s : State) : Ans :=
  .next (if (seqOf s n).hoPending && hoExpired s (seqOf s n) then updSeq s n hoExpire else s)

end Sys2Proof.Machine
end

