-- ==== Sys2Proof/Machine/Csr.lean ====
section
/-!
DEFINITION. Chapter 23: the registers by window and offset, reads and writes of them (R490 to R494).
-/
namespace Sys2Proof.Machine
open Sys2Proof

/-! ## Windows without a chapter's own map -/

def rdTbs (s : State) (o : Nat) : Word :=
  match o with
  | 0x00 => s.tb.time
  | 0x08 => s.tb.ctl
  | 0x18 => rdTbsStatus s
  | _ => 0

def wrTbs (s : State) (o : Nat) (v : Word) : State :=
  match o with
  | 0x08 => wrTbsCtl s v
  | 0x10 => wrTbsSet s v
  | 0x18 => { s with tb := { s.tb with sticky := w1c s.tb.sticky v (mask 2 1) } }
  | _ => s

def rdCmp (s : State) (o : Nat) : Word :=
  match o with
  | 0x00 => s.cmp.node.setWidth 64
  | 0x08 => s.cmp.epoch.setWidth 64
  | 0x10 => rdCmpStatus s
  | 0x18 => s.cmp.changed
  | _ => 0

def wrCmp (s : State) (o : Nat) (v : Word) : State :=
  match o with
  | 0x00 => wrCmpNode s v
  | 0x08 => wrEpoch s v
  | 0x10 => wrCmpStatus s v
  | _ => s

def rdDir (s : State) (o : Nat) : Word :=
  if o = 0 then s.dir.ctl
  else if 0x100 ≤ o && o < 0x300 && o % 16 = 0 then rdDirStatus s ((o - 0x100) / 16)
  else 0

def wrDir (s : State) (o : Nat) (v : Word) : State :=
  if o = 0 then wrDirCtl s v
  else if 0x100 ≤ o && o < 0x300 && o % 16 = 0 then wrDirStatus s ((o - 0x100) / 16) v
  else s

def portAt (o : Nat) : HostPort := if o < 0x4000 then .a else .b

/-- The HST window (R377): port p at p x 0x4000. -/
def rdHst (s : State) (o : Nat) : Word :=
  if o ≥ 0x8000 then 0
  else
    let p := portAt o
    let o := o % 0x4000
    if o = 0 then (hostOf s p).ctl
    else if o = 8 then rdHstStatus s p
    else if 0x100 ≤ o && o < 0x300 then (if o % 16 = 0 then tget (hostOf s p).vf 0 ((o - 0x100) / 16) else 0)
    else if 0x400 ≤ o && o < 0x600 then tget (hostOf s p).route 0 ((o - 0x400) / 8)
    else if 0x1000 ≤ o && o < 0x2000 then rdRing s p ((o - 0x1000) / 64) (o % 64)
    else 0

def wrHst (s : State) (a : Acc) (o : Nat) (v : Word) : State :=
  if o ≥ 0x8000 then s
  else
    let p := portAt o
    let o := o % 0x4000
    if o = 0 then wrHstCtl s p v
    else if o = 0x08 then wrHstStatus s p v
    else if o = 0x10 then wrTakeover s a p v
    else if o = 0x18 then wrIrqTrig s p v
    else if 0x100 ≤ o && o < 0x300 then (if o % 16 = 0 then wrVfCfg s p ((o - 0x100) / 16) v else s)
    else if 0x400 ≤ o && o < 0x600 then wrMbxRoute s p ((o - 0x400) / 8) v
    else if 0x1000 ≤ o && o < 0x2000 then wrRing s p ((o - 0x1000) / 64) (o % 64) v
    else if 0x3000 ≤ o && o < 0x3200 then sqDoorbell s a p ((o - 0x3000) / 8) v
    else if 0x3200 ≤ o && o < 0x3400 then cqDoorbell s a p ((o - 0x3200) / 8) v
    else s

def updHws (s : State) (f : Hws → Hws) : State := { s with hws := f s.hws }

/-- Reset of HWS_POL_PROF (R402). -/
def polProfReset : Word := 0x4040

/-- The HWS window (R402). -/
def rdHws (s : State) (o : Nat) : Word :=
  if o = 0x00 then s.hws.ctl
  else if o = 0x08 then s.hws.sticky
  else if o = 0x10 then s.hws.routeBase
  else if o = 0x18 then s.hws.watchBase
  else if 0x100 ≤ o && o < 0x200 then (if o % 16 = 0 then rdPortStatus s ((o - 0x100) / 16) else 0)
  else if 0x200 ≤ o && o < 0x600 then tget s.hws.qsamp 0 ((o - 0x200) / 8)
  else if 0x600 ≤ o && o < 0x680 then tget s.hws.polProf polProfReset ((o - 0x600) / 8)
  else if 0x700 ≤ o && o < 0xF00 then tget s.hws.tenProf 0 ((o - 0x700) / 8)
  else if o = 0xF00 then s.hws.polSel
  else if o = 0xF08 then rdPolCnt s
  else if 0x1000 ≤ o && o < 0x1800 then rdSend s ((o - 0x1000) / 32) (o % 32)
  else if 0x2000 ≤ o && o < 0x4000 then rdRecv s ((o - 0x2000) / 32) (o % 32)
  else if 0x4000 ≤ o && o < 0x6000 then rdZone s ((o - 0x4000) / 32) (o % 32)
  else 0

def wrHws (s : State) (o : Nat) (v : Word) : State :=
  if o = 0x00 then updHws s (fun h => { h with ctl := v &&& hwsCtlMask })
  else if o = 0x08 then updHws s (fun h => { h with sticky := w1c h.sticky v (mask 5 0) })
  else if o = 0x10 then updHws s (fun h => { h with routeBase := v &&& mask 55 6 })
  else if o = 0x18 then updHws s (fun h => { h with watchBase := v &&& mask 55 6 })
  else if 0x100 ≤ o && o < 0x200 then (if o % 16 = 0 then wrPortStatus s ((o - 0x100) / 16) v else s)
  else if 0x600 ≤ o && o < 0x680 then wrPolProf s ((o - 0x600) / 8) v
  else if 0x700 ≤ o && o < 0xF00 then wrTenProf s ((o - 0x700) / 8) v
  else if o = 0xF00 then updHws s (fun h => { h with polSel := v &&& mask 15 0 })
  else if 0x1000 ≤ o && o < 0x1800 then wrSend s ((o - 0x1000) / 32) (o % 32) v
  else if 0x2000 ≤ o && o < 0x4000 then wrRecv s ((o - 0x2000) / 32) (o % 32) v
  else if 0x4000 ≤ o && o < 0x6000 then wrZone s ((o - 0x4000) / 32) (o % 32) v
  else s

/-- The MCH window: channel number in [12:4]. -/
def rdMch (s : State) (o : Nat) : Word :=
  if o ≥ 0x2000 then 0 else if o % 16 = 0 then rdChmode s (o / 16) else rdChstat s (o / 16)

def wrMch (s : State) (o : Nat) (v : Word) : State :=
  if o ≥ 0x2000 then s else if o % 16 = 0 then wrChmode s (o / 16) v else wrChstat s (o / 16) v

/-- The SEQ window: Sequencer number in [13:8]. -/
def rdSeqReg (s : State) (o : Nat) : Word :=
  if o ≥ 0x4000 then 0
  else
    let n := Fin.ofNat 64 (o / 256)
    let q := seqOf s n
    match o % 256 with
    | 0x00 => put q.startVer.toNat 16
    | 0x08 => q.entry.setWidth 64
    | 0x10 => rdSeqStatus s n
    | 0x18 => rdSeqHandover s n
    | 0x20 => q.hoEntry.setWidth 64
    | _ => 0

def wrSeqReg (s : State) (o : Nat) (v : Word) : State :=
  if o ≥ 0x4000 then s
  else
    let n := Fin.ofNat 64 (o / 256)
    match o % 256 with
    | 0x00 => wrSeqCtl s n v
    | 0x08 => wrSeqEntry s n v
    | 0x10 => wrSeqStatus s n v
    | 0x18 => wrSeqHandover s n v
    | 0x20 => wrSeqHoEntry s n v
    | _ => s

/-! ## Engine windows -/

/-- The registers of R102: the queue at an offset of 0x8000 and upward. -/
def queueAt (cls o : Nat) : Option Nat :=
  let i := (o - 0x8000) / 64
  let u := i / queueCount cls
  if 0x8000 ≤ o && u < unitCount cls then some (mkQ cls u (i % queueCount cls)) else none

def rdGweCtx (s : State) (u : Nat) : Word :=
  let g := tget s.gwe {} u
  put g.limit 32 ||| put g.peak 16 ||| put (slotsUsed s 2 u false + slotsUsed s 2 u true) 0

def rdDseRerank (s : State) (u : Nat) : Word :=
  let d := dseOf s u
  put d.lateData 32 ||| put (rdInflight s u) 16 ||| put d.rdLimit 0

/-- The commit unit's registers (R218). -/
def rdCommit (s : State) (o : Nat) : Word :=
  match o with
  | 0x4000 => s.cu.ctl
  | 0x4008 => s.cu.tail.setWidth 64
  | 0x4010 => s.cu.head.setWidth 64
  | 0x4018 => s.cu.horizon.setWidth 64
  | 0x4020 => rdUpdStatus s
  | _ =>
    if 0x4100 ≤ o && o < 0x4200 then
      let k := (o - 0x4100) / 16
      if o % 16 = 0 then tget s.cu.vslot 0 k else tget s.cu.sprue 0 k
    else 0

def wrCommit (s : State) (o : Nat) (v : Word) : State :=
  match o with
  | 0x4000 => wrUpdCtl s v
  | 0x4008 => wrUpdTail s v
  | 0x4018 => wrHorizon s v
  | 0x4020 => wrUpdStatus s v
  | _ =>
    if 0x4100 ≤ o && o < 0x4200 then
      let k := (o - 0x4100) / 16
      if o % 16 = 0 then wrShardVslot s k v else wrShardSprue s k v
    else s

/-- An FLE's registers: unit in [9:8] (R331). -/
def rdFleReg (s : State) (o : Nat) : Word :=
  if o ≥ 0x400 then 0
  else
    let u := o / 256
    let f := fleOf s u
    match o % 256 with
    | 0x08 => f.mapBase
    | 0x10 => f.mapSize
    | 0x18 => f.gcCtl
    | 0x20 => rdFleStatus s u
    | 0x28 => rdFleCap s u
    | r => if 0x40 ≤ r && r < 0x60 then rdFleModCtl s u ((r - 0x40) / 8) else 0

def wrFleReg (s : State) (o : Nat) (v : Word) : State :=
  if o ≥ 0x400 then s
  else
    let u := o / 256
    match o % 256 with
    | 0x00 => wrFleCtl s u v
    | 0x08 => wrFleMapBase s u v
    | 0x10 => wrFleMapSize s u v
    | 0x18 => wrFleGcCtl s u v
    | 0x20 => wrFleStatus s u v
    | r => if 0x40 ≤ r && r < 0x60 then wrFleModCtl s u ((r - 0x40) / 8) v else s

def satMonMask (cls : Nat) : Word := mask 51 32 ||| mask (if cls = 0 then 1 else 0) 0

/-- The registers of class `cls` below 0x8000. -/
def rdEngine (s : State) (cls o : Nat) : Word :=
  let u := o / 32
  let r := o % 32
  let own := decide (u < unitCount cls)
  match cls with
  | 0 => if own then (let x := tget s.mxe mxeReset u; if r = 0 then x.mon else if r = 8 then x.stat else 0) else 0
  | 1 => if own then (if r = 0 then (dseOf s u).status else if r = 8 then rdDseRerank s u else 0) else 0
  | 2 => if own then (if r = 0 then (tget s.gwe {} u).status else if r = 8 then rdGweCtx s u else 0) else rdCommit s o
  | 3 => if own && r = 0 then tget s.sle 0 u else 0
  | 4 => if own && r = 0 then tget s.gte.status 0 u else if o = 0x1000 then s.gte.ctl else 0
  | 5 => if own then (let x := tget s.qte qteReset u; if r = 0 then x.mon else if r = 8 then x.stat else 0) else 0
  | 6 => if own && r = 0 then tget s.ldl 0 u else if o = 0x1000 then rdNtStatus s else 0
  | 7 => rdFleReg s o
  | _ => if o < 0x2000 then (if o % 16 = 0 then rdNbuCtl s (o / 16) else (nbuOf s (o / 16)).status) else 0

def wrSat (x : SatUnit) (cls r : Nat) (v : Word) : SatUnit :=
  if r = 0 then { x with mon := v &&& satMonMask cls } else if r = 8 then { x with stat := w1c x.stat v (mask 3 0) } else x

def wrEngine (s : State) (cls o : Nat) (v : Word) : State :=
  let u := o / 32
  let r := o % 32
  let own := decide (u < unitCount cls)
  match cls with
  | 0 => if own then { s with mxe := tmod s.mxe mxeReset u (fun x => wrSat x 0 r v) } else s
  | 1 =>
    if own then
      if r = 0 then updDse s u (fun x => { x with status := w1c x.status v (mask 6 0) })
      else if r = 8 then issueAll (updDse s u (fun x => { x with rdLimit := fld v 10 0 })) u
      else s
    else s
  | 2 =>
    if own then
      { s with gwe := tmod s.gwe {} u (fun x =>
          if r = 0 then { x with status := w1c x.status v (mask 5 0) }
          else if r = 8 then { x with limit := fld v 42 32 } else x) }
    else wrCommit s o v
  | 3 => if own && r = 0 then { s with sle := tmod s.sle 0 u (fun x => w1c x v (mask 63 0)) } else s
  | 4 => if own && r = 0 then wrGteStatus s u v else if o = 0x1000 then wrRiserCtl s v else s
  | 5 => if own then { s with qte := tmod s.qte qteReset u (fun x => wrSat x 5 r v) } else s
  | 6 => if own && r = 0 then wrLdlStatus s u v else if o = 0x1000 then wrNtStatus s v else s
  | 7 => wrFleReg s o v
  | _ => if o < 0x2000 then (if o % 16 = 0 then wrNbuCtl s (o / 16) v else wrNbuStatus s (o / 16) v) else s

/-! ## The whole space (R490, R491) -/

/-- The value of a register that a read leaves as it is; 0 where a listed window names none. -/
def rdPlain (s : State) (w o : Nat) : Word :=
  match w with
  | 0x0 => rdBoot s o
  | 0x1 => rdTbs s o
  | 0x2 => rdSec s o
  | 0x3 => rdTst s o
  | 0x4 => rdErr s o
  | 0x5 => rdAsy s o
  | 0x6 => rdCmp s o
  | 0x7 => rdDir s o
  | 0x9 => rdHst s o
  | 0xA => rdHws s o
  | 0xB => rdMch s o
  | 0xC => 0
  | 0x10 => rdSeqReg s o
  | _ =>
    match queueAt (w - 0x20) o with
    | some q => rdQueue s q (o % 64)
    | none => if o < 0x8000 then rdEngine s (w - 0x20) o else 0

/-- The register has an RC field; a mailbox register's is cleared by `mbxRead`. -/
def hasRc (w o : Nat) : Bool :=
  match w with
  | 0x8 => o < 0x4000 && [0x18, 0x28, 0x38, 0x48].contains (o % 256)
  | 0xA => (0x100 ≤ o && o < 0x200 && o % 16 = 0) || (0x200 ≤ o && o < 0x600) || o = 0xF08
  | 0xB => o < 0x2000 && o % 16 = 8
  | 0x21 => o < 0x400 && o % 32 = 8
  | 0x22 => o < 0x800 && o % 32 = 8
  | _ => false

/-- A read clears its RC fields (R11). -/
def clearRc (s : State) (w o : Nat) : State :=
  if !(hasRc w o) then s
  else
    match w with
    | 0xA =>
      if o < 0x200 then clrPortStatus s ((o - 0x100) / 16)
      else if o < 0x600 then
        updHws s (fun h => { h with qsamp := tmod h.qsamp 0 ((o - 0x200) / 8) (fun x => x &&& ~~~(mask 63 48)) })
      else clrPolCnt s
    | 0xB => clrChstat s (o / 16)
    | 0x21 => updDse s (o / 32) (fun x => { x with lateData := 0 })
    | _ => { s with gwe := tmod s.gwe {} (o / 32) (fun x => { x with peak := 0 }) }

/-- The window and the offset of an address of CSR space. -/
def csrWin (a : Nat) : Nat := (a - csrBase) / 65536
def csrOff (a : Nat) : Nat := (a - csrBase) % 65536

/-- A read of the register at an aligned address of a listed window (R492). -/
def csrRead (s : State) (a : Acc) (addr : Nat) : Word × State :=
  let w := csrWin addr
  let o := csrOff addr
  if w = 8 then (if o < 0x4000 then mbxRead s a (o / 256) (o % 256) else (0, s))
  else (rdPlain s w o, clearRc s w o)

/-- A write of it (R493). -/
def csrWrite (s : State) (a : Acc) (addr : Nat) (v : Word) : State :=
  let w := csrWin addr
  let o := csrOff addr
  match w with
  | 0x0 => wrBoot s a o v
  | 0x1 => wrTbs s o v
  | 0x2 => wrSec s a o v
  | 0x3 => wrTst s a o v
  | 0x4 => wrErr s a o v
  | 0x5 => wrAsy s a o v
  | 0x6 => wrCmp s o v
  | 0x7 => wrDir s o v
  | 0x8 => if o < 0x4000 then mbxWrite s a (o / 256) (o % 256) v else s
  | 0x9 => wrHst s a o v
  | 0xA => wrHws s o v
  | 0xB => wrMch s o v
  | 0xC => s
  | 0x10 => wrSeqReg s o v
  | _ =>
    match queueAt (w - 0x20) o with
    | some q => wrQueue s q (o % 64) v
    | none => if o < 0x8000 then wrEngine s (w - 0x20) o v else s

/-- An aligned address of a listed window. -/
def csrAddr (addr : Nat) : Bool := area addr = .csr && csrListed (csrWin addr) && addr % 8 = 0

/-- A virtual function reaches the mailbox window alone (R363, R494). -/
def csrReach (s : State) (a : Acc) (addr : Nat) : Bool :=
  match a with
  | .vf p v => csrWin addr = 8 && csrOff addr < 0x4000 && vfOk s p v
  | _ => accOk s a (decide (csrWin addr = 0))

/-- REGISTER_WRITE (R493). -/
def execRegisterWrite (a : Acc) (addr : BitVec 56) (v : Word) (s : State) : Ans :=
  .next (
    let x := addr.toNat
    if csrAddr x && csrReach s a x then csrWrite (accDrain s a) a x v else s)

/-- RC_FIELD_READ (R11): a read of a register with an RC field. -/
def execRcFieldRead (a : Acc) (addr : BitVec 56) (s : State) : Ans :=
  .next (
    let x := addr.toNat
    if !(csrAddr x) || !(hasRc (csrWin x) (csrOff x)) then s
    else if csrReach s a x then
      let r := csrRead (accDrain s a) a x
      emit r.2 (.csrValue a x r.1)
    else refuseRead s a)

end Sys2Proof.Machine
end

