-- ==== Sys2Proof/Machine/Host.lean ====
section
/-!
DEFINITION. Chapter 16: a host's reads, writes and AtomicOps through the BARs of its functions (R361 to R365).
-/
namespace Sys2Proof.Machine
open Sys2Proof

/-- What an offset of a BAR names. -/
inductive HostTgt where
  /-- A register, by its node physical address. -/
  | csr (addr : Nat)
  /-- Node memory, by its address. -/
  | mem (addr : Nat)
  /-- A doorbell of a ring pair through a VF: the CQ's if `cq`. -/
  | door (cq : Bool) (k : Nat)
  /-- A byte offset in the MSI-X table and pending-bit array of a function (log 63). -/
  | msix (off : Nat)
  | unmapped
  deriving DecidableEq, Repr

/-- Node memory at an address reached through BAR2: T0, T1 and T2 alone. -/
def memTgt (s : State) (addr : Nat) : HostTgt := if inNode addr && mapped s addr then .mem addr else .unmapped

/-- The GiB of a VF's aperture. -/
def aperGib (c : Word) : Nat := min 64 (fld c 23 16)

/-- The BARs of R363. -/
def hostAt (s : State) (a : Acc) (bar off : Nat) : HostTgt :=
  if bar = 4 then (if off < 0x2000 then .msix off else .unmapped)
  else
    match a with
    | .seq _ => .unmapped
    | .pf _ =>
      if bar = 0 then (if off < 2 ^ 32 && csrListed (off / 65536) then .csr (csrBase + off) else .unmapped)
      else if bar = 2 then (if off < 2 ^ 42 then memTgt s off else .unmapped)
      else .unmapped
    | .vf p v =>
      if bar = 0 then
        if off < 0x4000 then .csr (csrBase + 0x80000 + off)
        else if off < 0x8000 then .unmapped
        else if off < 0x8200 then .door false ((off - 0x8000) / 8)
        else if off < 0x8400 then .door true ((off - 0x8200) / 8)
        else .unmapped
      else if bar = 2 then
        let c := vfCfg s p v
        if off < aperGib c * 2 ^ 30 then memTgt s (fld c 55 30 * 2 ^ 30 + off) else .unmapped
      else .unmapped

def accPort : Acc → HostPort
  | .seq _ => .a
  | .pf p => p
  | .vf p _ => p

/-- The function's memory requests are served: after READY, of an enabled function of a port that is not lost (R362,
R449). -/
def hostServed (s : State) (a : Acc) : Bool :=
  match a with
  | .seq _ => false
  | .pf p => s.boot.ready && !(hostLost s p)
  | .vf p v => vfOk s p v

/-- A request for a target is served; after FAIL the BOOT window still is. -/
def tgtServed (s : State) (a : Acc) (t : HostTgt) : Bool :=
  match a, t with
  | .seq _, _ => false
  | a, .csr addr => csrReach s a addr
  | a, _ => hostServed s a

/-- The host port as the requester of a function's access (R332, R426). -/
def hostWho (s : State) (a : Acc) : Who := { portWho (accPort a) with tenant := (accTenant s a).getD 0 }

/-! ## The MSI-X table and the pending bits (R361, R363, log 63) -/

/-- The number of the accessor's function at its port, and its vectors. -/
def accFn : Acc → Nat
  | .vf _ v => v.val + 1
  | _ => 0

def fnVecs (fn : Nat) : Nat := if fn = 0 then 64 else 16

/-- The pending bits lie in the upper half of BAR4. -/
def pbaBase : Nat := 0x1000

/-- The 16 bytes of an entry: address, data, vector control with the mask in bit 0. -/
def msixBytes (x : MsixEnt) : List Byte :=
  wordBytes x.addr ++ leBytes 4 x.data.toNat ++ leBytes 4 (bit x.masked)

/-- An entry from its bytes; an address is a multiple of 4, and control keeps its mask alone. -/
def msixOf (l : List Byte) : MsixEnt :=
  { addr := bytesWord (l.take 8) &&& mask 63 2, data := BitVec.ofNat 32 (leNat ((l.drop 8).take 4)),
    masked := leNat (l.drop 12) % 2 = 1 }

/-- A byte of BAR4 of a function. -/
def msixByte (h : HostSt) (fn o : Nat) : Byte :=
  if o < 16 * fnVecs fn then (msixBytes (tget h.msix {} (msixKey fn (o / 16)))).getD (o % 16) 0
  else if pbaBase ≤ o && o < pbaBase + fnVecs fn / 8 then
    BitVec.ofNat 8 (((List.range 8).filter (fun k => h.pba.contains (msixKey fn ((o - pbaBase) * 8 + k)))).foldl (fun n k => n + 2 ^ k) 0)
  else 0

/-- Entry `k` of a function is written; an unmasked vector that was pending is sent. -/
def msixPut (s : State) (p : HostPort) (fn k : Nat) (x : MsixEnt) : State :=
  let key := msixKey fn k
  let s := updHost s p (fun h => { h with msix := tset h.msix key x })
  if !x.masked && (hostOf s p).pba.contains key then
    raiseIrq (updHost s p (fun h => { h with pba := sdel h.pba key })) p fn k
  else s

/-- Bytes are written to the table of a function; the pending bits take no write. -/
def msixWrite (s : State) (p : HostPort) (fn o : Nat) (l : List Byte) : State :=
  (List.range (fnVecs fn)).foldl (fun s k =>
    if overlaps (16 * k) 16 o l.length then
      let old := msixBytes (tget (hostOf s p).msix {} (msixKey fn k))
      let new := (List.range 16).map (fun j =>
        if o ≤ 16 * k + j && 16 * k + j < o + l.length then l.getD (16 * k + j - o) 0 else old.getD j 0)
      msixPut s p fn k (msixOf new)
    else s) s

/-- One aligned access of 8 bytes (R364). -/
def wholeCsr (off len : Nat) : Bool := off % 8 = 0 && len = 8

/-- A TLP lies within 4 KiB, as PCI Express has it (log 64). -/
def tlpOk (off len most : Nat) : Bool := len != 0 && len ≤ most && off % 4096 + len ≤ 4096

/-- HOST_MEM_WRITE (R363 to R365): applied in units of 64 bytes; a unit that meets an uncorrectable codeword is dropped
(R409). -/
def execHostMemWrite (a : Acc) (bar : BitVec 3) (off : Nat) (data : List Byte) (s : State) : Ans :=
  .next (
    let t := hostAt s a bar.toNat off
    if !(tlpOk off data.length 512) || !(tgtServed s a t) then s
    else
      match t with
      | .unmapped => s
      | .msix o => msixWrite s (accPort a) (accFn a) o data
      | .csr addr =>
        if wholeCsr off data.length then csrWrite s a addr (bytesWord data) else hostFlag s (accPort a) 1
      | .door cq k =>
        if wholeCsr off data.length then
          if cq then cqDoorbell s a (accPort a) k (bytesWord data) else sqDoorbell s a (accPort a) k (bytesWord data)
        else hostFlag s (accPort a) 1
      | .mem addr =>
        if protected_ s addr then hostFlag s (accPort a) 2
        else (pieces addr data.length).foldl (fun s p =>
          (pieceWrite s (hostWho s a) p.1 ((data.drop (p.1 - addr)).take p.2)).2) s)

/-- HOST_MEM_READ: completed with its bytes, or with UR; a read that fails on an uncorrectable codeword returns nothing
(log 65). -/
def execHostMemRead (a : Acc) (bar : BitVec 3) (off len : Nat) (s : State) : Ans :=
  .next (
    let t := hostAt s a bar.toNat off
    if !(tlpOk off len 4096) then s
    else if !(tgtServed s a t) then refuseRead s a
    else
      match t with
      | .unmapped => refuseRead s a
      | .msix o => emit s (.hostRead a ((List.range len).map (fun k => msixByte (hostOf s (accPort a)) (accFn a) (o + k))))
      | .csr addr =>
        if wholeCsr off len then
          let r := csrRead s a addr
          emit r.2 (.hostRead a (wordBytes r.1))
        else refuseRead (hostFlag s (accPort a) 1) a
      | .door _ _ =>
        if wholeCsr off len then emit s (.hostRead a (wordBytes 0)) else refuseRead (hostFlag s (accPort a) 1) a
      | .mem addr =>
        let r := nodeRead s (hostWho s a) addr len
        if r.ok then emit r.s (.hostRead a r.data) else emit r.s (.hostFail a))

def hostAmo : HostOp → AmoOp
  | .fetchAdd => .add
  | .swap => .swap
  | .cas | .cas128 => .cas

/-- The old value as the completion carries it. -/
def hostOldValue (dbl : Bool) (v : Word) : Word := if dbl then v else put (fld v 31 0) 0

/-- HOST_ATOMIC (R343, R364): near, or completed with UR; into a code region it changes nothing and is reported as a write
there is (log 66); one that fails returns nothing (log 65). -/
def execHostAtomic (a : Acc) (bar : BitVec 3) (off : Nat) (op : HostOp) (dbl : Bool) (src cmp : Word) (r : Residue)
    (s : State) : Ans :=
  .next (
    let t := hostAt s a bar.toNat off
    if op = .cas128 then (if hostLost s (accPort a) then s else emit s (.hostAbort a))
    else if off % amoSize dbl != 0 then s
    else if !(tgtServed s a t) then refuseRead s a
    else
      match t with
      | .mem addr =>
        if protected_ s addr then emit (hostFlag s (accPort a) 2) (.hostFail a)
        else
          let w := hostWho s a
          let x := nearDo (lineTurn (contMove s w.agent addr) w.agent (addr / 64)) w addr (hostAmo op) dbl src cmp r
          match x.1 with
          | .done v => emit x.2 (.hostOld a (hostOldValue dbl v))
          | _ => emit x.2 (.hostFail a)
      | _ => refuseRead s a)

end Sys2Proof.Machine
end

