-- ==== Sys2Proof/Machine/SeqEngine.lean ====
section
/-!
DEFINITION. Chapter 03: engine issue (R60, R81), event counters and waits (R64, R65), fences (R66).
-/
namespace Sys2Proof.Machine
open Sys2Proof

/-- The oldest stalled request takes a free credit, pushes its descriptor and retires (R81). -/
def grantOldest (s : State) (q : Nat) : State :=
  match (queueOf s q).stalled with
  | [] => s
  | k :: rest =>
    if credits s q = 0 then s
    else
      let n : Fin 64 := Fin.ofNat 64 k
      match (seqOf s n).wait with
      | .credit rd _ words => issue (updQueue s q (fun x => { x with stalled := rest })) q n rd words
      | _ => s

/-- Every stalled request that ranks before a TRY is granted (R81). -/
def grantAll (s : State) (q : Nat) : State := (queueOf s q).stalled.foldl (fun s _ => grantOldest s q) s

/-- Steps 4 to 6 of R60, the words read: an EISS that stalls for credits pushes the words it read before the stall, where
R61 leaves a descriptor rewritten meanwhile an unspecified mixture (DESIGN CHOICE, log 35). A TRY that finds a credit behind
those of the stalled requests enters the queue after them (R81). -/
def eissCredit (s : State) (n : Fin 64) (rd : BitVec 6) (q : Nat) (f : Nat) (words : List Word) : State :=
  let s := if f.testBit 1 then drain s n else s
  let waiting := (queueOf s q).stalled.length
  if f.testBit 0 then
    if credits s q > waiting then issue (grantAll s q) q n rd words
    else updSeq s n (fun r => retire (setReg r rd (-1)) 4)
  else if credits s q > 0 && waiting = 0 then issue s q n rd words
  else
    let s := updQueue s q (fun x => { x with stalled := x.stalled ++ [n.val] })
    updSeq s n (fun r => { r with wait := .credit rd q words })

/-- EISS (R60, R61). -/
def execEiss (n : Fin 64) (rd rs1 rs2 : BitVec 6) (f : BitVec 8) (s : State) : Ans :=
  .next (
    let op := 0x2800 + f.toNat
    runInsn s n op (wordR 0x28 rd.toNat rs1.toNat rs2.toNat f.toNat) (f.toNat / 4 != 0) (fun s =>
      let a := reg (seqOf s n) rs1
      let qv := reg (seqOf s n) rs2
      let q := qv.toNat
      if q ≥ 65536 || !(qExists q) then takeTrap s n op .queueId qv
      else if unitOffline s (qClass q) (qUnit q) then takeTrap s n op .queueOffline qv
      else if a.toNat % 8 != 0 || !(inT0 a.toNat) then takeTrap s n op .descAddr a
      else
        let h := seqLoad s n op a.toNat 8
        if !h.ok then takeTrap h.s n op .memerr a
        else
          let w := bytesWord h.data
          let len := hdrLen w
          if len ≥ 1 && !(inT0 (a.toNat + 8 * len - 1)) then takeTrap h.s n op .descAddr a
          else if len = 0 || len > 16 then takeTrap h.s n op .descLen w
          else
            let r := loadWords h.s n op len a.toNat
            if r.1 then eissCredit r.2.2 n rd q f.toNat r.2.1 else takeTrap r.2.2 n op .memerr a))

/-- EISS_CREDIT_GRANT (R81): the oldest stalled request takes a freed credit, pushes its descriptor and retires. -/
def execEissCreditGrant (q : BitVec 16) (s : State) : Ans :=
  .next (grantOldest s q.toNat)

/-- A wait ends with `v` in rd. -/
def endWait (s : State) (n : Fin 64) (rd : BitVec 6) (v : Word) : State :=
  updSeq s n (fun q => { retire (setReg q rd v) 4 with wait := .idle })

/-- The deadline of a WAIT with DL set has come (R64). -/
def wdlReached (s : State) (q : Seq) : Bool := q.wdl != 0 && decide (q.wdl.toNat ≤ now s)

/-- WAIT (R64, R65). -/
def execWait (n : Fin 64) (rd rs1 rs2 : BitVec 6) (f : BitVec 8) (s : State) : Ans :=
  .next (
    let op := 0x2900 + f.toNat
    runInsn s n op (wordR 0x29 rd.toNat rs1.toNat rs2.toNat f.toNat) (f.toNat / 2 != 0) (fun s =>
      let q := seqOf s n
      let c := reg q rs1
      let t := reg q rs2
      if c.toNat ≥ 65536 || !(ctrExists c.toNat) then takeTrap s n op .counterId c
      else if satisfies (ctrGet s c.toNat) t then endWait s n rd 0
      else if f.toNat % 2 = 1 && wdlReached s q then endWait s n rd 1
      else updSeq s n (fun q => { q with wait := .counter rd c.toNat t (f.toNat % 2 = 1) })))

/-- WAIT_SATISFIED (R65). -/
def execWaitSatisfied (n : Fin 64) (s : State) : Ans :=
  .next (match (seqOf s n).wait with
    | .counter rd c t _ => if satisfies (ctrGet s c) t then endWait s n rd 0 else s
    | _ => s)

/-- WAIT_DEADLINE (R64, R65): where both conditions hold the wait is satisfied. -/
def execWaitDeadline (n : Fin 64) (s : State) : Ans :=
  .next (match (seqOf s n).wait with
    | .counter rd c t dl =>
      if dl && wdlReached s (seqOf s n) then endWait s n rd (if satisfies (ctrGet s c) t then 0 else 1) else s
    | _ => s)

/-- EVINC (R64): class R. -/
def execEvinc (n : Fin 64) (rd rs1 rs2 : BitVec 6) (f : BitVec 8) (s : State) : Ans :=
  .next (
    let op := 0x2A00 + f.toNat
    runInsn s n op (wordR 0x2A rd.toNat rs1.toNat rs2.toNat f.toNat) (f != 0) (fun s =>
      let q := seqOf s n
      let c := reg q rs1
      if !(softCtr c.toNat) then takeTrap s n op .counterId c
      else
        let s := drain s n
        let old := ctrGet s c.toNat
        updSeq (ctrAdd s c.toNat (reg q rs2).toNat) n (fun q => retire (setReg q rd old) 4)))

/-- RDCTR (R64): rs2 and funct8 must be 0. -/
def execRdctr (n : Fin 64) (rd rs1 rs2 : BitVec 6) (f : BitVec 8) (s : State) : Ans :=
  .next (
    let op := 0x2B00 + f.toNat
    runInsn s n op (wordR 0x2B rd.toNat rs1.toNat rs2.toNat f.toNat) (f != 0 || rs2 != 0) (fun s =>
      let c := reg (seqOf s n) rs1
      if c.toNat ≥ 65536 || !(ctrExists c.toNat) then takeTrap s n op .counterId c
      else updSeq s n (fun q => retire (setReg q rd (ctrGet s c.toNat)) 4)))

/-- FENCE (R66): retires at once where its conditions hold, else waits for FENCE_DONE. -/
def execFence (n : Fin 64) (rd rs1 rs2 : BitVec 6) (f : BitVec 8) (s : State) : Ans :=
  .next (
    let m := f.toNat
    runInsn s n (0x2C00 + m) (wordR 0x2C rd.toNat rs1.toNat rs2.toNat m)
      (rd != 0 || rs1 != 0 || rs2 != 0 || m / 32 != 0) (fun s =>
      let s := if m.testBit 0 then drain s n else s
      if fenceReady s n m then fenceEnd s n m else updSeq s n (fun q => { q with wait := .fence m })))

/-- FENCE_DONE (R66). -/
def execFenceDone (n : Fin 64) (s : State) : Ans :=
  .next (match (seqOf s n).wait with
    | .fence m => if fenceReady s n m then fenceEnd s n m else s
    | _ => s)

end Sys2Proof.Machine
end

