-- ==== Sys2Proof/Machine/SeqMem.lean ====
section
/-!
DEFINITION. Chapter 03: loads, stores and CFLUSH of a Sequencer (R52 to R55), its atomics (R56, R57).
-/
namespace Sys2Proof.Machine
open Sys2Proof

/-! ## Traps of an access, in the order of R69 -/

/-- The address is beyond 56 bits (R44) or not mapped (R54). -/
def unmappedAt (s : State) (a : Nat) : Bool := a ≥ 2 ^ 56 || !(mapped s a)

/-- The address has no line: host memory or CSR space. -/
def uncached (a : Nat) : Bool :=
  match area a with
  | .t3 _ _ | .csr => true
  | _ => false

/-- Why a load or a store of `size` bytes at `a` traps before it is performed, if it does (R54). -/
def accessTrap (s : State) (a size : Nat) (store : Bool) : Option Cause :=
  if a % size != 0 then some .misalign
  else if unmappedAt s a then some .unmapped
  else if store && protected_ s a then some .codeWrite
  else if area a = .csr && size != 8 then some .csrSize
  else none

/-- Why an atomic of `size` bytes traps before it is performed, if it does (R57). -/
def amoTrap (s : State) (a size : Nat) : Option Cause :=
  if a % size != 0 then some .misalign
  else if unmappedAt s a then some .unmapped
  else if uncached a then some .region
  else if protected_ s a then some .codeWrite
  else none

/-! ## Loads -/

/-- The read of a load: cacheable (class L), or uncached after every earlier store (class U). -/
def loadFrom (s : State) (n : Fin 64) (op a size : Nat) : Rd :=
  match area a with
  | .csr =>
    let r := csrRead (drain s n) (.seq n) a
    ⟨true, wordBytes r.1, r.2⟩
  | .t3 p _ => t3Read (drain s n) (seqWho s n op) p a size
  | _ => seqLoad s n op a size

/-- A load: `ext` extends the bytes read to the value of `rd`. -/
def doLoad (s : State) (n : Fin 64) (op : Nat) (rd : BitVec 6) (a : Word) (size len : Nat) (ext : List Byte → Word) :
    State :=
  match accessTrap s a.toNat size false with
  | some c => takeTrap s n op c a
  | none =>
    let r := loadFrom s n op a.toNat size
    if r.ok then updSeq r.s n (fun q => retire (setReg q rd (ext r.data)) len) else takeTrap r.s n op .memerr a

/-- Zero extension and sign extension of `size` bytes. -/
def extZ (l : List Byte) : Word := bytesWord l
def extS (size : Nat) (l : List Byte) : Word := sext (8 * size) (leNat l)

/-- A load of format I. -/
def loadI (s : State) (n : Fin 64) (op : Nat) (rd rs1 : BitVec 6) (imm : BitVec 14) (size : Nat) (ext : List Byte → Word) :
    State :=
  runInsn s n (op * 256) (wordI op rd.toNat rs1.toNat imm.toNat) false (fun s =>
    doLoad s n (op * 256) rd (reg (seqOf s n) rs1 + imm14 imm) size 4 ext)

def execLb (n : Fin 64) (rd rs1 : BitVec 6) (imm : BitVec 14) (s : State) : Ans :=
  .next (loadI s n 0x10 rd rs1 imm 1 (extS 1))
def execLbu (n : Fin 64) (rd rs1 : BitVec 6) (imm : BitVec 14) (s : State) : Ans :=
  .next (loadI s n 0x11 rd rs1 imm 1 extZ)
def execLh (n : Fin 64) (rd rs1 : BitVec 6) (imm : BitVec 14) (s : State) : Ans :=
  .next (loadI s n 0x12 rd rs1 imm 2 (extS 2))
def execLhu (n : Fin 64) (rd rs1 : BitVec 6) (imm : BitVec 14) (s : State) : Ans :=
  .next (loadI s n 0x13 rd rs1 imm 2 extZ)
def execLw (n : Fin 64) (rd rs1 : BitVec 6) (imm : BitVec 14) (s : State) : Ans :=
  .next (loadI s n 0x14 rd rs1 imm 4 (extS 4))
def execLwu (n : Fin 64) (rd rs1 : BitVec 6) (imm : BitVec 14) (s : State) : Ans :=
  .next (loadI s n 0x15 rd rs1 imm 4 extZ)
def execLd (n : Fin 64) (rd rs1 : BitVec 6) (imm : BitVec 14) (s : State) : Ans :=
  .next (loadI s n 0x16 rd rs1 imm 8 extZ)

/-- LDX (R52). -/
def execLdx (n : Fin 64) (rd rs1 : BitVec 6) (imm : BitVec 40) (s : State) : Ans :=
  .next (runPair s n 0x3F00 (wordX rd.toNat rs1.toNat 0x04 imm) false (fun s =>
    doLoad s n 0x3F00 rd (reg (seqOf s n) rs1 + imm40 imm) 8 8 extZ))

/-! ## Stores -/

/-- A store of `size` bytes of `v`. A cacheable one has its line filled, which must be readable, and joins the store buffer
(R49, R54); it asks for the line in M as it becomes visible, and completes with that grant (R346, log 5). An uncached one is
performed after every earlier store, once the instruction has moved on, so that a Sequencer that halts itself by a register
resumes past it (R48, R75). -/
def doStore (s : State) (n : Fin 64) (op : Nat) (v : Word) (a : Word) (size len : Nat) : State :=
  match accessTrap s a.toNat size true with
  | some c => takeTrap s n op c a
  | none =>
    let torn := !(scatterRows s a.toNat size).isEmpty
    let l := if torn then freeBytes s size else leBytes size v.toNat
    let s := if torn then tearRows (tick1 s) a.toNat size else s
    match area a.toNat with
    | .csr => csrWrite (updSeq (drain s n) n (fun q => retire q len)) (.seq n) a.toNat v
    | .t3 p _ =>
      let r := t3Write (drain s n) (seqWho s n op) p a.toNat l
      if r.1 then updSeq r.2 n (fun q => retire q len) else takeTrap r.2 n op .memerr a
    | _ =>
      let r := getS s (seqWho s n op) a.toNat (partRead a.toNat size)
      if r.ok then updSeq r.s n (fun q => { retire q len with stores := q.stores ++ [(a.toNat, l)] })
      else takeTrap r.s n op .memerr a

/-- A store of format S. -/
def storeS (s : State) (n : Fin 64) (op : Nat) (rs2 rs1 : BitVec 6) (imm : BitVec 14) (size : Nat) : State :=
  runInsn s n (op * 256) (wordI op rs2.toNat rs1.toNat imm.toNat) false (fun s =>
    let q := seqOf s n
    doStore s n (op * 256) (reg q rs2) (reg q rs1 + imm14 imm) size 4)

def execSb (n : Fin 64) (rs2 rs1 : BitVec 6) (imm : BitVec 14) (s : State) : Ans := .next (storeS s n 0x18 rs2 rs1 imm 1)
def execSh (n : Fin 64) (rs2 rs1 : BitVec 6) (imm : BitVec 14) (s : State) : Ans := .next (storeS s n 0x19 rs2 rs1 imm 2)
def execSw (n : Fin 64) (rs2 rs1 : BitVec 6) (imm : BitVec 14) (s : State) : Ans := .next (storeS s n 0x1A rs2 rs1 imm 4)
def execSd (n : Fin 64) (rs2 rs1 : BitVec 6) (imm : BitVec 14) (s : State) : Ans := .next (storeS s n 0x1B rs2 rs1 imm 8)

/-- SDX (R52): the data is the register in the rd field. -/
def execSdx (n : Fin 64) (rd rs1 : BitVec 6) (imm : BitVec 40) (s : State) : Ans :=
  .next (runPair s n 0x3F00 (wordX rd.toNat rs1.toNat 0x05 imm) false (fun s =>
    let q := seqOf s n
    doStore s n 0x3F00 (reg q rd) (reg q rs1 + imm40 imm) 8 8))

/-! ## CFLUSH (R55) -/

/-- A cache gives up its copy of a line, a Modified one by writing it back. -/
def flushFrom (s : State) (g line : Nat) : State :=
  match cacheGet s g line with
  | none => s
  | some c =>
    if c.modified then serveWaiting (dirDel (cacheDrop (writeBack s g line) g line) line) line
    else
      match dirGet s line with
      | some (.shared l) =>
        let s := cacheDrop s g line
        if (sdel l g).isEmpty then dirDel s line else dirPut s line (.shared (sdel l g))
      | _ => cacheDrop s g line

/-- CFLUSH: rd must be 0. -/
def execCflush (n : Fin 64) (rd rs1 : BitVec 6) (imm : BitVec 14) (s : State) : Ans :=
  .next (runInsn s n 0x1D00 (wordI 0x1D rd.toNat rs1.toNat imm.toNat) (rd != 0) (fun s =>
    let a := reg (seqOf s n) rs1 + imm14 imm
    if unmappedAt s a.toNat then takeTrap s n 0x1D00 .unmapped a
    else if uncached a.toNat then takeTrap s n 0x1D00 .region a
    else
      let s := flushFrom (drain s n) (2 * n.val + 1) (a.toNat / 64)
      updSeq (flushFrom s (2 * n.val) (a.toNat / 64)) n (fun q => retire q 4)))

/-! ## Atomics -/

/-- Major opcode 0x1C, class A: `k` is funct8[7:4], `f` is funct8[3:0]. -/
def amo (s : State) (n : Fin 64) (k : Nat) (op : AmoOp) (rd rs1 rs2 : BitVec 6) (f : BitVec 4) (r : Residue) : State :=
  let funct := k * 16 + f.toNat
  let word := wordR 0x1C rd.toNat rs1.toNat rs2.toNat funct
  let code := 0x1C00 + funct
  let dbl := f.toNat % 2 = 1
  runInsn s n code word (f.toNat / 2 != 0) (fun s =>
    let q := seqOf s n
    let a := reg q rs1
    match amoTrap s a.toNat (amoSize dbl) with
    | some c => takeTrap s n code c a
    | none =>
      let x := atomic (drain s n) (seqWho s n code) a.toNat op dbl (reg q rs2) (reg q rd) r
      match x.1 with
      | .done old => updSeq x.2 n (fun q => retire (setReg q rd old) 4)
      | .memerr => takeTrap x.2 n code .memerr a
      | .arith => takeTrap x.2 n code .arith word)

def execAmoswap (n : Fin 64) (rd rs1 rs2 : BitVec 6) (f : BitVec 4) (r : Residue) (s : State) : Ans :=
  .next (amo s n 0x0 .swap rd rs1 rs2 f r)
def execAmoadd (n : Fin 64) (rd rs1 rs2 : BitVec 6) (f : BitVec 4) (r : Residue) (s : State) : Ans :=
  .next (amo s n 0x1 .add rd rs1 rs2 f r)
def execAmoand (n : Fin 64) (rd rs1 rs2 : BitVec 6) (f : BitVec 4) (r : Residue) (s : State) : Ans :=
  .next (amo s n 0x2 .and rd rs1 rs2 f r)
def execAmoor (n : Fin 64) (rd rs1 rs2 : BitVec 6) (f : BitVec 4) (r : Residue) (s : State) : Ans :=
  .next (amo s n 0x3 .or rd rs1 rs2 f r)
def execAmoxor (n : Fin 64) (rd rs1 rs2 : BitVec 6) (f : BitVec 4) (r : Residue) (s : State) : Ans :=
  .next (amo s n 0x4 .xor rd rs1 rs2 f r)
def execAmomin (n : Fin 64) (rd rs1 rs2 : BitVec 6) (f : BitVec 4) (r : Residue) (s : State) : Ans :=
  .next (amo s n 0x5 .min rd rs1 rs2 f r)
def execAmomax (n : Fin 64) (rd rs1 rs2 : BitVec 6) (f : BitVec 4) (r : Residue) (s : State) : Ans :=
  .next (amo s n 0x6 .max rd rs1 rs2 f r)
def execAmominu (n : Fin 64) (rd rs1 rs2 : BitVec 6) (f : BitVec 4) (r : Residue) (s : State) : Ans :=
  .next (amo s n 0x7 .minu rd rs1 rs2 f r)
def execAmomaxu (n : Fin 64) (rd rs1 rs2 : BitVec 6) (f : BitVec 4) (r : Residue) (s : State) : Ans :=
  .next (amo s n 0x8 .maxu rd rs1 rs2 f r)
def execAmocas (n : Fin 64) (rd rs1 rs2 : BitVec 6) (f : BitVec 4) (r : Residue) (s : State) : Ans :=
  .next (amo s n 0x9 .cas rd rs1 rs2 f r)

end Sys2Proof.Machine
end

