-- ==== Sys2Proof/Machine/Sideband.lean ====
section
/-!
DEFINITION. Chapter 19: the island's sideband (R435 to R440). The layouts of replies that the spec gives by their contents
alone are the model's (DESIGN CHOICE, log 57).
-/
namespace Sys2Proof.Machine
open Sys2Proof

def reply (s : State) (code : Nat) (l : List Byte) : State := emit s (.sideband code l)
def nack (s : State) (code : Nat) : State := emit s (.sidebandNack code)

/-- A command that reaches an island whose rail is up. -/
def sideDo (s : State) (f : State → State) : State := if s.island.up then f s else s

/-- ASY_STATUS (R438). -/
def rdAsyStatus (x : Island) : Word :=
  put (x.sealCount % 2 ^ 32) 32 ||| put (bit x.inService) 15 ||| put (bit x.logFull) 14 ||| x.sticky ||| put (bit x.openS) 0

/-- The pin ASY_ALERT_N (R438): low while any W1C bit of ASY_STATUS is set. -/
def alertN (x : Island) : Bool := x.sticky &&& mask 7 1 = 0

/-- ID: part, stepping, the hash of the identity keys. -/
def execId (s : State) : Ans :=
  .next (sideDo s (fun s => reply s 0x01 (leBytes 2 0x9160 ++ leBytes 1 Config.stepping.toNat ++ leBytes 32 Config.islandHash.toNat)))

/-- STATUS. -/
def execStatus (s : State) : Ans := .next (sideDo s (fun s => reply s 0x02 (wordBytes (rdAsyStatus s.island))))

/-- STATUS_CLR. -/
def execStatusClr (v : Word) (s : State) : Ans :=
  .next (sideDo s (fun s => updIsl s (fun x => { x with sticky := w1c x.sticky v (mask 7 1) })))

/-! ## Snapshots (R439, R440) -/

/-- The header of 128 bytes: nonce, clock, LAST, the anomaly counters of the session and for life, SEAL_COUNT, the log's SEQ,
TARIFF_VER, flags, the perturbation record. The flags are ASY_STATUS [15:0] whole, with the session's clean end in the reserved
bit 13 (log 57). -/
def snapHeader (x : Island) (nonce : BitVec 128) : List Byte :=
  leBytes 16 nonce.toNat ++ leBytes 8 x.kept.clock ++ leBytes 6 x.last
    ++ leBytes 8 x.sMacFails ++ leBytes 8 x.sReplays ++ leBytes 8 x.sGaps ++ leBytes 8 x.sMissing
    ++ leBytes 8 x.kept.macFails ++ leBytes 8 x.kept.replays ++ leBytes 8 x.kept.gaps ++ leBytes 8 x.kept.missing
    ++ leBytes 4 x.sealCount ++ leBytes 2 x.sealLog.length ++ leBytes 4 x.tariffVer
    ++ leBytes 2 ((rdAsyStatus x ||| put (bit x.sessClean) 13).toNat % 2 ^ 16)
    ++ leBytes 4 x.pertSession ++ leBytes 4 x.pertLife ++ leBytes 7 x.pertFirst ++ leBytes 7 x.pertLast

/-- A tenant's record of 160 bytes: its id, its 18 counters, its charge. -/
def snapRecord (x : Island) (t : Nat) : List Byte :=
  leBytes 8 t ++ ((List.range 18).map (fun k =>
      leBytes 8 (tget x.kept.counters 0 (t * 32 + if k < 9 then k else k + 7)))).flatten
    ++ leBytes 8 (tget x.kept.charges 0 t)

def snapBody (x : Island) (nonce : BitVec 128) (first count : Nat) : List Byte :=
  snapHeader x nonce ++ ((List.range count).map (fun k => snapRecord x (first + k))).flatten
    ++ ((List.range 16).map (fun k => leBytes 8 (tget x.kept.energy 0 k))).flatten

/-- The two signatures: 96 and 3,604 bytes. -/
def signaturesOf (n : Nat) (l : List Byte) : List Byte := (List.range 3700).map (Config.islandSign n l)

/-- SNAPSHOT: at most one per 100 ms, of 1 to 256 tenants; others are not acknowledged. -/
def execSnapshot (nonce : BitVec 128) (first count : BitVec 16) (s : State) : Ans :=
  .next (sideDo s (fun s =>
    let x := s.island
    let soon := match x.snapAt with | some t => decide (x.kept.clock < t + 100000) | none => false
    let n := count.toNat
    if soon || n = 0 || n > 256 || first.toNat + n > 4096 then nack s 0x10
    else
      let s := accrue s
      let l := snapBody s.island nonce first.toNat n
      updIsl (tick1 s) (fun x => { x with snap := some (l ++ signaturesOf s.choice l), snapAt := some x.kept.clock })))

/-- READ_PAGE: page `page` of the snapshot, 255 bytes a page. -/
def execReadPage (page : Nat) (s : State) : Ans :=
  .next (sideDo s (fun s =>
    match s.island.snap with
    | some l => reply s 0x11 ((l.drop (page * 255)).take 255)
    | none => reply s 0x11 []))

/-- ANOMALIES: the ring, latest first. -/
def execAnomalies (s : State) : Ans :=
  .next (sideDo s (fun s =>
    reply s 0x18 ((s.island.ring.map (fun e => leBytes 8 e.1 ++ leBytes 8 e.2.1 ++ leBytes 8 e.2.2)).flatten)))

/-- The 32 bytes of a seal event: SEAL_COUNT, SEQ, kind, identifier, clock, two values of 8 bytes. -/
def sealBytes (k : Nat) (e : SealEntry) : List Byte :=
  let d := e.detail ++ List.replicate 17 0
  leBytes 4 e.count ++ leBytes 2 k ++ leBytes 1 e.kind ++ d.take 1 ++ leBytes 8 e.clock ++ (d.drop 1).take 16

/-- SEAL_LOG: eight entries from an index. -/
def execSealLog (idx : Nat) (s : State) : Ans :=
  .next (sideDo s (fun s =>
    reply s 0x19 (((List.range 8).map (fun k =>
      match s.island.sealLog[idx + k]? with
      | some e => sealBytes (idx + k) e
      | none => [])).flatten)))

/-! ## Tariff (R437) -/

/-- Words of a whole table: 16 classes of 18 prices, and the version. -/
def tariffWords : Nat := 16 * 18 + 1

/-- TARIFF: a page joins the table; the last page applies it, if it is whole. -/
def execTariff (words : List Word) (last : Bool) (s : State) : Ans :=
  .next (sideDo s (fun s =>
    let l := s.island.tariffBuf ++ words
    if !last then updIsl s (fun x => { x with tariffBuf := l })
    else if l.length != tariffWords then nack (updIsl s (fun x => { x with tariffBuf := [] })) 0x20
    else
      islFlag (updIsl s (fun x => { x with
        tariffBuf := [], tariffVer := (l.getD 288 0).toNat % 2 ^ 32,
        tariff := (List.range 288).map (fun k => (k, (l.getD k 0).toNat)) })) 1))

/-! ## Sealed service (R435) -/

/-- The sealed-service bundle is signed by the verification authority under the dual rule. -/
def sealedOk (b : Bundle) : Bool :=
  bheadOk b.h [0x10] && b.signer.ok && Config.sha384 b.payload = b.h.hash && signerHash b.signer = Config.authorityKey
    && signatures b.signer b.head = rOk

/-- The value of a sealed constant: a coefficient by resource, a rail's gain or offset. -/
def sealedGet (x : Island) (k : Nat) : Nat := if k < 32 then tget x.coeff 0 k else tget x.gains 0 k

def sealedSet (x : Island) (k v : Nat) : Island :=
  if k < 32 then { x with coeff := tset x.coeff k v } else { x with gains := tset x.gains k v }

/-- The first 8 bytes of the hash of a constant's value. -/
def valueHash (v : Nat) : List Byte := (leBytes 48 (Config.sha384 (leBytes 8 v)).toNat).take 8

/-- One constant changes and is logged CHANGE. -/
def sealedChange (x : Island) (k v : Nat) : Island :=
  let old := sealedGet x k
  sealNote (sealedSet x k v) kChange (leBytes 1 k ++ valueHash old ++ valueHash v)

/-- The pairs in turn: each that differs from the constant changes it and takes a log entry. None when an entry finds the log
full: the island then applies no bundle (R436), and none in part (log 57). -/
def sealedApply : List (Nat × Nat) → Island → Option Island
  | [], x => some x
  | p :: l, x =>
    if sealedGet x p.1 = p.2 then sealedApply l x
    else if x.sealLog.length ≥ 1024 then none
    else sealedApply l (sealedChange x p.1 p.2)

/-- The payload as pairs of identifier and value. -/
def sealedPairs (l : List Byte) : List (Nat × Nat) :=
  (chunks 16 l.length l).map (fun p => (leNat (p.take 8) % 256, leNat (p.drop 8)))

/-- SEAL_BUNDLE: a page joins the bundle; the last page has it verified and applied, while service is open. -/
def execSealBundle (bytes : List Byte) (last : Bool) (s : State) : Ans :=
  .next (sideDo s (fun s =>
    let l := s.island.bundleBuf ++ bytes
    if !last then updIsl s (fun x => { x with bundleBuf := l })
    else
      let s := updIsl s (fun x => { x with bundleBuf := [] })
      if !s.island.inService || s.island.sealLog.length ≥ 1024 then nack s 0x30
      else
        let b := bundleOf l
        if sealedOk b then
          match sealedApply (sealedPairs b.payload) s.island with
          | some x => updIsl s (fun _ => x)
          | none => nack s 0x30
        else updIsl s (fun x => sealNote x kReject [])))

end Sys2Proof.Machine
end

