-- ==== Sys2Proof/Machine/Dispatch.lean ====
section
/-!
DEFINITION. One arm per command: a direct call of its meaning.
-/
namespace Sys2Proof.Machine
open Sys2Proof

def exec (i : Instr) (s : State) : Host.Outcome State Fault Refusal :=
  match i with
  | .railReading railMv tjQc powerW => Sys2Proof.Machine.execRailReading railMv tjQc powerW s
  | .railStepDecision => Sys2Proof.Machine.execRailStepDecision s
  | .bootRailCtlWrite a v => Sys2Proof.Machine.execBootRailCtlWrite a v s
  | .stall cls unit stage heldUs => Sys2Proof.Machine.execStall cls unit stage heldUs s
  | .refLoss => Sys2Proof.Machine.execRefLoss s
  | .refReturn => Sys2Proof.Machine.execRefReturn s
  | .tbsSet a v => Sys2Proof.Machine.execTbsSet a v s
  | .syncSend => Sys2Proof.Machine.execSyncSend s
  | .syncReceive dom offset upHops => Sys2Proof.Machine.execSyncReceive dom offset upHops s
  | .syncMissed => Sys2Proof.Machine.execSyncMissed s
  | .add n rd rs1 rs2 r => Sys2Proof.Machine.execAdd n rd rs1 rs2 r s
  | .sub n rd rs1 rs2 r => Sys2Proof.Machine.execSub n rd rs1 rs2 r s
  | .and n rd rs1 rs2 => Sys2Proof.Machine.execAnd n rd rs1 rs2 s
  | .or n rd rs1 rs2 => Sys2Proof.Machine.execOr n rd rs1 rs2 s
  | .xor n rd rs1 rs2 => Sys2Proof.Machine.execXor n rd rs1 rs2 s
  | .sll n rd rs1 rs2 => Sys2Proof.Machine.execSll n rd rs1 rs2 s
  | .srl n rd rs1 rs2 => Sys2Proof.Machine.execSrl n rd rs1 rs2 s
  | .sra n rd rs1 rs2 => Sys2Proof.Machine.execSra n rd rs1 rs2 s
  | .slt n rd rs1 rs2 => Sys2Proof.Machine.execSlt n rd rs1 rs2 s
  | .sltu n rd rs1 rs2 => Sys2Proof.Machine.execSltu n rd rs1 rs2 s
  | .min n rd rs1 rs2 => Sys2Proof.Machine.execMin n rd rs1 rs2 s
  | .max n rd rs1 rs2 => Sys2Proof.Machine.execMax n rd rs1 rs2 s
  | .minu n rd rs1 rs2 => Sys2Proof.Machine.execMinu n rd rs1 rs2 s
  | .maxu n rd rs1 rs2 => Sys2Proof.Machine.execMaxu n rd rs1 rs2 s
  | .mul n rd rs1 rs2 r => Sys2Proof.Machine.execMul n rd rs1 rs2 r s
  | .mulh n rd rs1 rs2 r => Sys2Proof.Machine.execMulh n rd rs1 rs2 r s
  | .mulhu n rd rs1 rs2 r => Sys2Proof.Machine.execMulhu n rd rs1 rs2 r s
  | .div n rd rs1 rs2 r => Sys2Proof.Machine.execDiv n rd rs1 rs2 r s
  | .divu n rd rs1 rs2 r => Sys2Proof.Machine.execDivu n rd rs1 rs2 r s
  | .rem n rd rs1 rs2 r => Sys2Proof.Machine.execRem n rd rs1 rs2 r s
  | .remu n rd rs1 rs2 r => Sys2Proof.Machine.execRemu n rd rs1 rs2 r s
  | .clz n rd rs1 rs2 => Sys2Proof.Machine.execClz n rd rs1 rs2 s
  | .ctz n rd rs1 rs2 => Sys2Proof.Machine.execCtz n rd rs1 rs2 s
  | .popc n rd rs1 rs2 => Sys2Proof.Machine.execPopc n rd rs1 rs2 s
  | .addi n rd rs1 imm r => Sys2Proof.Machine.execAddi n rd rs1 imm r s
  | .andi n rd rs1 imm => Sys2Proof.Machine.execAndi n rd rs1 imm s
  | .ori n rd rs1 imm => Sys2Proof.Machine.execOri n rd rs1 imm s
  | .xori n rd rs1 imm => Sys2Proof.Machine.execXori n rd rs1 imm s
  | .slti n rd rs1 imm => Sys2Proof.Machine.execSlti n rd rs1 imm s
  | .sltiu n rd rs1 imm => Sys2Proof.Machine.execSltiu n rd rs1 imm s
  | .slli n rd rs1 imm => Sys2Proof.Machine.execSlli n rd rs1 imm s
  | .srli n rd rs1 imm => Sys2Proof.Machine.execSrli n rd rs1 imm s
  | .srai n rd rs1 imm => Sys2Proof.Machine.execSrai n rd rs1 imm s
  | .lix n rd rs1 imm => Sys2Proof.Machine.execLix n rd rs1 imm s
  | .lihx n rd rs1 imm => Sys2Proof.Machine.execLihx n rd rs1 imm s
  | .addix n rd rs1 imm r => Sys2Proof.Machine.execAddix n rd rs1 imm r s
  | .andix n rd rs1 imm => Sys2Proof.Machine.execAndix n rd rs1 imm s
  | .ldx n rd rs1 imm => Sys2Proof.Machine.execLdx n rd rs1 imm s
  | .sdx n rd rs1 imm => Sys2Proof.Machine.execSdx n rd rs1 imm s
  | .lb n rd rs1 imm => Sys2Proof.Machine.execLb n rd rs1 imm s
  | .lbu n rd rs1 imm => Sys2Proof.Machine.execLbu n rd rs1 imm s
  | .lh n rd rs1 imm => Sys2Proof.Machine.execLh n rd rs1 imm s
  | .lhu n rd rs1 imm => Sys2Proof.Machine.execLhu n rd rs1 imm s
  | .lw n rd rs1 imm => Sys2Proof.Machine.execLw n rd rs1 imm s
  | .lwu n rd rs1 imm => Sys2Proof.Machine.execLwu n rd rs1 imm s
  | .ld n rd rs1 imm => Sys2Proof.Machine.execLd n rd rs1 imm s
  | .sb n rs2 rs1 imm => Sys2Proof.Machine.execSb n rs2 rs1 imm s
  | .sh n rs2 rs1 imm => Sys2Proof.Machine.execSh n rs2 rs1 imm s
  | .sw n rs2 rs1 imm => Sys2Proof.Machine.execSw n rs2 rs1 imm s
  | .sd n rs2 rs1 imm => Sys2Proof.Machine.execSd n rs2 rs1 imm s
  | .cflush n rd rs1 imm => Sys2Proof.Machine.execCflush n rd rs1 imm s
  | .amoswap n rd rs1 rs2 f r => Sys2Proof.Machine.execAmoswap n rd rs1 rs2 f r s
  | .amoadd n rd rs1 rs2 f r => Sys2Proof.Machine.execAmoadd n rd rs1 rs2 f r s
  | .amoand n rd rs1 rs2 f r => Sys2Proof.Machine.execAmoand n rd rs1 rs2 f r s
  | .amoor n rd rs1 rs2 f r => Sys2Proof.Machine.execAmoor n rd rs1 rs2 f r s
  | .amoxor n rd rs1 rs2 f r => Sys2Proof.Machine.execAmoxor n rd rs1 rs2 f r s
  | .amomin n rd rs1 rs2 f r => Sys2Proof.Machine.execAmomin n rd rs1 rs2 f r s
  | .amomax n rd rs1 rs2 f r => Sys2Proof.Machine.execAmomax n rd rs1 rs2 f r s
  | .amominu n rd rs1 rs2 f r => Sys2Proof.Machine.execAmominu n rd rs1 rs2 f r s
  | .amomaxu n rd rs1 rs2 f r => Sys2Proof.Machine.execAmomaxu n rd rs1 rs2 f r s
  | .amocas n rd rs1 rs2 f r => Sys2Proof.Machine.execAmocas n rd rs1 rs2 f r s
  | .beq n rs1 rs2 off => Sys2Proof.Machine.execBeq n rs1 rs2 off s
  | .bne n rs1 rs2 off => Sys2Proof.Machine.execBne n rs1 rs2 off s
  | .blt n rs1 rs2 off => Sys2Proof.Machine.execBlt n rs1 rs2 off s
  | .bge n rs1 rs2 off => Sys2Proof.Machine.execBge n rs1 rs2 off s
  | .bltu n rs1 rs2 off => Sys2Proof.Machine.execBltu n rs1 rs2 off s
  | .bgeu n rs1 rs2 off => Sys2Proof.Machine.execBgeu n rs1 rs2 off s
  | .jal n rd off => Sys2Proof.Machine.execJal n rd off s
  | .jalr n rd rs1 imm => Sys2Proof.Machine.execJalr n rd rs1 imm s
  | .eiss n rd rs1 rs2 f => Sys2Proof.Machine.execEiss n rd rs1 rs2 f s
  | .eissCreditGrant q => Sys2Proof.Machine.execEissCreditGrant q s
  | .wait n rd rs1 rs2 f => Sys2Proof.Machine.execWait n rd rs1 rs2 f s
  | .waitSatisfied n => Sys2Proof.Machine.execWaitSatisfied n s
  | .waitDeadline n => Sys2Proof.Machine.execWaitDeadline n s
  | .evinc n rd rs1 rs2 f => Sys2Proof.Machine.execEvinc n rd rs1 rs2 f s
  | .rdctr n rd rs1 rs2 f => Sys2Proof.Machine.execRdctr n rd rs1 rs2 f s
  | .fence n rd rs1 rs2 f => Sys2Proof.Machine.execFence n rd rs1 rs2 f s
  | .fenceDone n => Sys2Proof.Machine.execFenceDone n s
  | .tret n rd rs1 rs2 => Sys2Proof.Machine.execTret n rd rs1 rs2 s
  | .halt n rd rs1 rs2 => Sys2Proof.Machine.execHalt n rd rs1 rs2 s
  | .brk n rd rs1 rs2 => Sys2Proof.Machine.execBrk n rd rs1 rs2 s
  | .hover n rd rs1 rs2 => Sys2Proof.Machine.execHover n rd rs1 rs2 s
  | .rdsr n rd rs1 imm => Sys2Proof.Machine.execRdsr n rd rs1 imm s
  | .wrsr n rd rs1 imm => Sys2Proof.Machine.execWrsr n rd rs1 imm s
  | .seqStart a n v => Sys2Proof.Machine.execSeqStart a n v s
  | .seqStop a n v => Sys2Proof.Machine.execSeqStop a n v s
  | .seqHandoverWrite a n v => Sys2Proof.Machine.execSeqHandoverWrite a n v s
  | .hoTimeout n => Sys2Proof.Machine.execHoTimeout n s
  | .descAtHead q => Sys2Proof.Machine.execDescAtHead q s
  | .descDispatch cls unit => Sys2Proof.Machine.execDescDispatch cls unit s
  | .descRetire q ix => Sys2Proof.Machine.execDescRetire q ix s
  | .waitTimeout q => Sys2Proof.Machine.execWaitTimeout q s
  | .flush a q v => Sys2Proof.Machine.execFlush a q v s
  | .queueResume a q v => Sys2Proof.Machine.execQueueResume a q v s
  | .unitLoss cls unit => Sys2Proof.Machine.execUnitLoss cls unit s
  | .convert q ix r => Sys2Proof.Machine.execConvert q ix r s
  | .quantize q ix r => Sys2Proof.Machine.execQuantize q ix r s
  | .rotate q ix r => Sys2Proof.Machine.execRotate q ix r s
  | .smooth q ix r => Sys2Proof.Machine.execSmooth q ix r s
  | .matmul q ix r => Sys2Proof.Machine.execMatmul q ix r s
  | .matmulQa q ix r => Sys2Proof.Machine.execMatmulQa q ix r s
  | .attention q ix r => Sys2Proof.Machine.execAttention q ix r s
  | .walk q ix r => Sys2Proof.Machine.execWalk q ix r s
  | .walkStep q ix r => Sys2Proof.Machine.execWalkStep q ix r s
  | .dist q ix r => Sys2Proof.Machine.execDist q ix r s
  | .qbuild q ix r => Sys2Proof.Machine.execQbuild q ix r s
  | .rerank q ix => Sys2Proof.Machine.execRerank q ix s
  | .rerankReadData q ix slot r => Sys2Proof.Machine.execRerankReadData q ix slot r s
  | .rerankReadError q ix slot => Sys2Proof.Machine.execRerankReadError q ix slot s
  | .rerankDeadline q ix => Sys2Proof.Machine.execRerankDeadline q ix s
  | .rerankOutput q ix => Sys2Proof.Machine.execRerankOutput q ix s
  | .gweUpdTailWrite a v => Sys2Proof.Machine.execGweUpdTailWrite a v s
  | .updBatch => Sys2Proof.Machine.execUpdBatch s
  | .gweHorizonWrite a v => Sys2Proof.Machine.execGweHorizonWrite a v s
  | .gweUpdCtlWrite a v => Sys2Proof.Machine.execGweUpdCtlWrite a v s
  | .topk q ix r => Sys2Proof.Machine.execTopk q ix r s
  | .move q ix => Sys2Proof.Machine.execMove q ix s
  | .movel q ix => Sys2Proof.Machine.execMovel q ix s
  | .ladleDeadline q ix done started => Sys2Proof.Machine.execLadleDeadline q ix done started s
  | .windowTableUpdate p seg mapped => Sys2Proof.Machine.execWindowTableUpdate p seg mapped s
  | .t3SegmentLoss p seg cause => Sys2Proof.Machine.execT3SegmentLoss p seg cause s
  | .ntRefreshChange layer tempQc => Sys2Proof.Machine.execNtRefreshChange layer tempQc s
  | .hbmRefreshChange stack tempQc => Sys2Proof.Machine.execHbmRefreshChange stack tempQc s
  | .channelRequest ch req => Sys2Proof.Machine.execChannelRequest ch req s
  | .channelDecision ch => Sys2Proof.Machine.execChannelDecision ch s
  | .toProcDone ch => Sys2Proof.Machine.execToProcDone ch s
  | .toMemDone ch => Sys2Proof.Machine.execToMemDone ch s
  | .windowSliceExpire ch => Sys2Proof.Machine.execWindowSliceExpire ch s
  | .broadcastEnd ch => Sys2Proof.Machine.execBroadcastEnd ch s
  | .mchChmodeWrite a ch v => Sys2Proof.Machine.execMchChmodeWrite a ch v s
  | .loadx q ix => Sys2Proof.Machine.execLoadx q ix s
  | .gemv q ix r => Sys2Proof.Machine.execGemv q ix r s
  | .attn q ix r => Sys2Proof.Machine.execAttn q ix r s
  | .scan q ix r => Sys2Proof.Machine.execScan q ix r s
  | .nbuCtlWrite a u v => Sys2Proof.Machine.execNbuCtlWrite a u v s
  | .gather q ix r => Sys2Proof.Machine.execGather q ix r s
  | .gatherDeadline q ix arrived r => Sys2Proof.Machine.execGatherDeadline q ix arrived r s
  | .riserDecay => Sys2Proof.Machine.execRiserDecay s
  | .scatter q ix r => Sys2Proof.Machine.execScatter q ix r s
  | .read q ix => Sys2Proof.Machine.execRead q ix s
  | .write q ix => Sys2Proof.Machine.execWrite q ix s
  | .trim q ix => Sys2Proof.Machine.execTrim q ix s
  | .spaceCreate q ix => Sys2Proof.Machine.execSpaceCreate q ix s
  | .spaceDelete q ix => Sys2Proof.Machine.execSpaceDelete q ix s
  | .sync q ix => Sys2Proof.Machine.execSync q ix s
  | .sectorReadDone q ix sec o => Sys2Proof.Machine.execSectorReadDone q ix sec o s
  | .fleReadDeadline q ix => Sys2Proof.Machine.execFleReadDeadline q ix s
  | .partialParity f sb => Sys2Proof.Machine.execPartialParity f sb s
  | .sbVerify f sb weak => Sys2Proof.Machine.execSbVerify f sb weak s
  | .gcCopy f loc => Sys2Proof.Machine.execGcCopy f loc s
  | .bgGcStart f => Sys2Proof.Machine.execBgGcStart f s
  | .fgGc f => Sys2Proof.Machine.execFgGc f s
  | .sbErase f sb => Sys2Proof.Machine.execSbErase f sb s
  | .checkpoint f => Sys2Proof.Machine.execCheckpoint f s
  | .programFail f page => Sys2Proof.Machine.execProgramFail f page s
  | .eraseFail f sb member => Sys2Proof.Machine.execEraseFail f sb member s
  | .mount a f v => Sys2Proof.Machine.execMount a f v s
  | .format a f v => Sys2Proof.Machine.execFormat a f v s
  | .fleMapWrite a f size v => Sys2Proof.Machine.execFleMapWrite a f size v s
  | .fleGcCtlWrite a f v => Sys2Proof.Machine.execFleGcCtlWrite a f v s
  | .modAdmit a f m v => Sys2Proof.Machine.execAdmit a f m v s
  | .admitDone f m geo => Sys2Proof.Machine.execAdmitDone f m geo s
  | .evacuate a f m v => Sys2Proof.Machine.execEvacuate a f m v s
  | .evacDone f m => Sys2Proof.Machine.execEvacDone f m s
  | .powerOff a f m v => Sys2Proof.Machine.execPowerOff a f m v s
  | .modPrsntFall f m => Sys2Proof.Machine.execModPrsntFall f m s
  | .modPrsntRise f m => Sys2Proof.Machine.execModPrsntRise f m s
  | .modDiesLost f m => Sys2Proof.Machine.execModDiesLost f m s
  | .gets g line => Sys2Proof.Machine.execGets g line s
  | .getm g line => Sys2Proof.Machine.execGetm g line s
  | .putm g line => Sys2Proof.Machine.execPutm g line s
  | .ncRead g line => Sys2Proof.Machine.execNcRead g line s
  | .ncWrite g addr data => Sys2Proof.Machine.execNcWrite g addr data s
  | .invalidate g line => Sys2Proof.Machine.execInvalidate g line s
  | .nearAtomic g addr op dbl src cmp r => Sys2Proof.Machine.execNearAtomic g addr op dbl src cmp r s
  | .requestAged g line stamp => Sys2Proof.Machine.execRequestAged g line stamp s
  | .holdExpire g line => Sys2Proof.Machine.execHoldExpire g line s
  | .cleatClaim a m => Sys2Proof.Machine.execCleatClaim a m s
  | .cleatWrite a m v => Sys2Proof.Machine.execCleatWrite a m v s
  | .mbxATx a m v => Sys2Proof.Machine.execMbxATx a m v s
  | .mbxBTx a m v => Sys2Proof.Machine.execMbxBTx a m v s
  | .mbxBRx a m => Sys2Proof.Machine.execMbxBRx a m s
  | .mbxARx a m => Sys2Proof.Machine.execMbxARx a m s
  | .mbxDbAb a m v => Sys2Proof.Machine.execMbxDbAb a m v s
  | .mbxDbBa a m v => Sys2Proof.Machine.execMbxDbBa a m v s
  | .ackAbPost a m v => Sys2Proof.Machine.execAckAbPost a m v s
  | .ackBaPost a m v => Sys2Proof.Machine.execAckBaPost a m v s
  | .ackAbCollect a m => Sys2Proof.Machine.execAckAbCollect a m s
  | .ackBaCollect a m => Sys2Proof.Machine.execAckBaCollect a m s
  | .mbxCfgWrite a m v => Sys2Proof.Machine.execMbxCfgWrite a m v s
  | .hostMemWrite a bar off data => Sys2Proof.Machine.execHostMemWrite a bar off data s
  | .hostMemRead a bar off len => Sys2Proof.Machine.execHostMemRead a bar off len s
  | .hostAtomic a bar off op dbl src cmp r => Sys2Proof.Machine.execHostAtomic a bar off op dbl src cmp r s
  | .poisonedTlp p => Sys2Proof.Machine.execPoisonedTlp p s
  | .sqDoorbell a p k v => Sys2Proof.Machine.execSqDoorbell a p k v s
  | .sqEntryMirror p k data => Sys2Proof.Machine.execSqEntryMirror p k data s
  | .sqHeadWrite a p k v => Sys2Proof.Machine.execSqHeadWrite a p k v s
  | .cqTailWrite a p k v => Sys2Proof.Machine.execCqTailWrite a p k v s
  | .cqPost p k => Sys2Proof.Machine.execCqPost p k s
  | .cqDoorbell a p k v => Sys2Proof.Machine.execCqDoorbell a p k v s
  | .coalTimer p k => Sys2Proof.Machine.execCoalTimer p k s
  | .hstIrqTrig a p v => Sys2Proof.Machine.execHstIrqTrig a p v s
  | .hstTakeover a p v => Sys2Proof.Machine.execHstTakeover a p v s
  | .rpCfgWrite a p k v => Sys2Proof.Machine.execRpCfgWrite a p k v s
  | .portLost p => Sys2Proof.Machine.execPortLost p s
  | .perstNAssert p => Sys2Proof.Machine.execPerstNAssert p s
  | .linkUp p width speed => Sys2Proof.Machine.execLinkUp p width speed s
  | .cto p ring => Sys2Proof.Machine.execCto p ring s
  | .flr p fn => Sys2Proof.Machine.execFlr p fn s
  | .hwsSqTailWrite a k v => Sys2Proof.Machine.execHwsSqTailWrite a k v s
  | .sendEntry k => Sys2Proof.Machine.execSendEntry k s
  | .hwsSqCfgWrite a k v => Sys2Proof.Machine.execHwsSqCfgWrite a k v s
  | .msgSend p credit acked => Sys2Proof.Machine.execMsgSend p credit acked s
  | .msgForward p m => Sys2Proof.Machine.execMsgForward p m s
  | .dataReceive p m => Sys2Proof.Machine.execDataReceive p m s
  | .putReceive p m => Sys2Proof.Machine.execPutReceive p m s
  | .scatterReceive p m => Sys2Proof.Machine.execScatterReceive p m s
  | .ackReceive p m => Sys2Proof.Machine.execAckReceive p m s
  | .refuseReceive p m => Sys2Proof.Machine.execRefuseReceive p m s
  | .absentReceive p m => Sys2Proof.Machine.execAbsentReceive p m s
  | .hwsRqHeadWrite a k v => Sys2Proof.Machine.execHwsRqHeadWrite a k v s
  | .arm a z v => Sys2Proof.Machine.execArm a z v s
  | .disarm a z v => Sys2Proof.Machine.execDisarm a z v s
  | .laneFailing p => Sys2Proof.Machine.execLaneFailing p s
  | .hwsLinkDown p acked => Sys2Proof.Machine.execHwsLinkDown p acked s
  | .partnerAbsent p acked => Sys2Proof.Machine.execPartnerAbsent p acked s
  | .qsample p => Sys2Proof.Machine.execQsample p s
  | .cmpEpochWrite a v => Sys2Proof.Machine.execCmpEpochWrite a v s
  | .graceExpire => Sys2Proof.Machine.execGraceExpire s
  | .cmpNodeWrite a v => Sys2Proof.Machine.execCmpNodeWrite a v s
  | .logLostWrite => Sys2Proof.Machine.execLogLostWrite s
  | .scrubRead addr => Sys2Proof.Machine.execScrubRead addr s
  | .patternTestStart => Sys2Proof.Machine.execPatternTestStart s
  | .patternTestEnd checks => Sys2Proof.Machine.execPatternTestEnd checks s
  | .errBelay a v => Sys2Proof.Machine.execErrBelay a v s
  | .errBarrier a v => Sys2Proof.Machine.execErrBarrier a v s
  | .barClear a v => Sys2Proof.Machine.execBarClear a v s
  | .errLogBaseWrite a v => Sys2Proof.Machine.execErrLogBaseWrite a v s
  | .errPpCtlWrite a v => Sys2Proof.Machine.execErrPpCtlWrite a v s
  | .islandNonce => Sys2Proof.Machine.execIslandNonce s
  | .tallySend => Sys2Proof.Machine.execTallySend s
  | .startFrame fr => Sys2Proof.Machine.execStartFrame fr s
  | .tallyFrame fr => Sys2Proof.Machine.execTallyFrame fr s
  | .finalFrame fr => Sys2Proof.Machine.execFinalFrame fr s
  | .finalSequence => Sys2Proof.Machine.execFinalSequence s
  | .feedDown => Sys2Proof.Machine.execFeedDown s
  | .energyInterval rails => Sys2Proof.Machine.execEnergyInterval rails s
  | .islandCommit => Sys2Proof.Machine.execIslandCommit s
  | .islandRailFall complete => Sys2Proof.Machine.execIslandRailFall complete s
  | .islandStart => Sys2Proof.Machine.execIslandStart s
  | .asyTally a v => Sys2Proof.Machine.execAsyTally a v s
  | .sealOpen => Sys2Proof.Machine.execSealOpen s
  | .sealClose => Sys2Proof.Machine.execSealClose s
  | .id => Sys2Proof.Machine.execId s
  | .status => Sys2Proof.Machine.execStatus s
  | .statusClr v => Sys2Proof.Machine.execStatusClr v s
  | .snapshot nonce first count => Sys2Proof.Machine.execSnapshot nonce first count s
  | .readPage page => Sys2Proof.Machine.execReadPage page s
  | .anomalies => Sys2Proof.Machine.execAnomalies s
  | .sealLog idx => Sys2Proof.Machine.execSealLog idx s
  | .tariff words last => Sys2Proof.Machine.execTariff words last s
  | .sealBundle bytes last => Sys2Proof.Machine.execSealBundle bytes last s
  | .powerupSequence rep => Sys2Proof.Machine.execPowerupSequence rep s
  | .railGood x => Sys2Proof.Machine.execRailGood x s
  | .railTimeout => Sys2Proof.Machine.execRailTimeout s
  | .railPgLoss x => Sys2Proof.Machine.execRailPgLoss x s
  | .nodeRstNLow => Sys2Proof.Machine.execNodeRstNLow s
  | .nodeRstNHigh => Sys2Proof.Machine.execNodeRstNHigh s
  | .vddAsyLoss => Sys2Proof.Machine.execVddAsyLoss s
  | .thermalTrip src tempQc => Sys2Proof.Machine.execThermalTrip src tempQc s
  | .bootReset a v => Sys2Proof.Machine.execBootReset a v s
  | .scopeEntry => Sys2Proof.Machine.execScopeEntry s
  | .warmExit rep => Sys2Proof.Machine.execWarmExit rep s
  | .bootStageRel a v => Sys2Proof.Machine.execBootStageRel a v s
  | .quiesce a v => Sys2Proof.Machine.execQuiesce a v s
  | .quiesceDone => Sys2Proof.Machine.execQuiesceDone s
  | .resume a v => Sys2Proof.Machine.execResume a v s
  | .reload a v => Sys2Proof.Machine.execReload a v s
  | .reloadTestsDone checks => Sys2Proof.Machine.execReloadTestsDone checks s
  | .retire a v => Sys2Proof.Machine.execRetire a v s
  | .migrate a v => Sys2Proof.Machine.execMigrate a v s
  | .migrateDone => Sys2Proof.Machine.execMigrateDone s
  | .recalHbm a v => Sys2Proof.Machine.execRecalHbm a v s
  | .recalHws a v => Sys2Proof.Machine.execRecalHws a v s
  | .laneSpare a v => Sys2Proof.Machine.execLaneSpare a v s
  | .recalD2d a v => Sys2Proof.Machine.execRecalD2d a v s
  | .channelFail ch => Sys2Proof.Machine.execChannelFail ch s
  | .load a v => Sys2Proof.Machine.execLoad a v s
  | .release a v => Sys2Proof.Machine.execRelease a v s
  | .attest a v => Sys2Proof.Machine.execAttest a v s
  | .enrollFirst a v => Sys2Proof.Machine.execEnrollFirst a v s
  | .tstUnlock a v => Sys2Proof.Machine.execTstUnlock a v s
  | .lock a v => Sys2Proof.Machine.execLock a v s
  | .unlockExpire => Sys2Proof.Machine.execUnlockExpire s
  | .tstDelay a k v => Sys2Proof.Machine.execTstDelay a k v s
  | .tstWithhold a k v => Sys2Proof.Machine.execTstWithhold a k v s
  | .tstClamp a k v => Sys2Proof.Machine.execTstClamp a k v s
  | .tstMemlat a k v => Sys2Proof.Machine.execTstMemlat a k v s
  | .tstLinkdrop a v => Sys2Proof.Machine.execTstLinkdrop a v s
  | .linkdropEnd p => Sys2Proof.Machine.execLinkdropEnd p s
  | .registerWrite a addr v => Sys2Proof.Machine.execRegisterWrite a addr v s
  | .secDone => Sys2Proof.Machine.execSecDone s
  | .mountComplete f rep => Sys2Proof.Machine.execMountComplete f rep s
  | .formatComplete f bad => Sys2Proof.Machine.execFormatComplete f bad s
  | .svcDone => Sys2Proof.Machine.execSvcDone s
  | .tokenCheckDone => Sys2Proof.Machine.execTokenCheckDone s
  | .hwsLinkUp p width partner => Sys2Proof.Machine.execHwsLinkUp p width partner s
  | .rcFieldRead a addr => Sys2Proof.Machine.execRcFieldRead a addr s

end Sys2Proof.Machine
end

