-- ==== Sys2Proof/Machine/Tick.lean ====
section
/-!
DEFINITION. What a step on an empty queue does: one nanosecond passes (log 1). The timebase and the island's clock advance,
buffered stores of the Sequencers may become visible, an error may strike an array or a link, the flash engines program what
waits, the log writer takes a waiting record.
-/
namespace Sys2Proof.Machine
open Sys2Proof

/-- What happens within the nanosecond, or not yet: a part of it that would have to wait, for the end of a hold or for a place
in the log writer's queue, waits. -/
def atOnce (f : State → State) (s : State) : State := if (f s).tb.time = s.tb.time then f s else s

/-- In each nanosecond a Sequencer's buffered stores become visible or stay: which of the two is free, so that no order
follows from elapsed time (R21, R49, log 5). -/
def drainSome (s : State) : State :=
  if s.seqs.all (fun e => e.2.stores.isEmpty) then s
  else (List.finRange 64).foldl (fun t n =>
    if (seqOf t n).stores.isEmpty || Config.pick s.choice n.val % 2 = 0 then t else atOnce (fun t => drain t n) t) (tick1 s)

/-- The home slices go on with the requests that wait for a line and for no hold (R337). -/
def dirTick (s : State) : State :=
  (s.dir.waiting.map (·.line)).eraseDups.foldl (fun s l => atOnce (fun s => serveWaiting s l) s) s

/-! ## Faults of the arrays (R402, R409)

Errors come to the stored state and to the links by themselves. Which come, and when, is free: in each nanosecond of idling
after READY at most one of the kinds below strikes (DESIGN CHOICE, log 74). -/

/-- The codeword of node memory at `a` now holds an error that its code corrects, or one that it only detects. -/
def strikeWord (s : State) (a : Nat) (bad : Bool) : State :=
  if !(inNode a) || !(mapped s a) || cwBad s (cwBase a) then s
  else if bad then { s with mem := { s.mem with ce := sdel s.mem.ce (cwBase a), ue := sadd s.mem.ue (cwBase a) } }
  else { s with mem := { s.mem with ce := sadd s.mem.ce (cwBase a) } }

/-- A directory entry has an uncorrectable error (R339): every copy of its line leaves the caches, a Modified one written
back, and the entry becomes U. -/
def strikeDir (s : State) (k : Nat) : State :=
  match (s.dir.slices.flatMap Prod.snd)[k]? with
  | none => s
  | some (line, _) =>
    let slice := homeSlice line
    let s := dirFlag (dirDel (recallLine s line) line) slice 2
    logRec (tick1 s) { cls := 0xA, unit := slice } 5 (BitVec.ofNat 64 (line * 64)) (Config.syndrome s.choice)
      (BitVec.ofNat 64 slice)

/-- A copy is hit (R409): in a unit of 8 bytes of data that its code corrects, in one that it does not, which is then lost, or in
its tag: a shared copy goes, which corrects it, and a Modified one is lost with its tag, so that the line's codewords are
uncorrectable. Each is recorded (R411); the loss of a unit when an access or a write-back meets it. -/
def strikeCopy (s : State) (g k how : Nat) : State :=
  match (tget s.caches [] g)[k]? with
  | none => s
  | some (line, c) =>
    let u := line * 8 + how / 3 % 8
    match how % 3 with
    | 0 => memErr s (cacheWho g) 3 (8 * u) 0
    | 1 => { s with dir := { s.dir with bad := (g, u) :: s.dir.bad } }
    | _ =>
      if c.modified then
        spoilWords (dirDel (cacheDrop (memErr s (cacheWho g) 4 (line * 64) 0) g line) line) (cwsOf (line * 64) 64)
      else cacheDrop (memErr s (cacheWho g) 3 (line * 64) 0) g line

/-- A Hawser port that is up corrects codewords (R378, R402); the count saturates. -/
def strikeLink (s : State) (p n : Nat) : State :=
  { s with hws := { s.hws with ports := s.hws.ports.map (fun e =>
      if e.1 = p && e.2.up then (e.1, { e.2 with corr := BitVec.ofNat 32 (min (2 ^ 32 - 1) (e.2.corr.toNat + n)) }) else e) } }

/-- What a nanosecond brings. -/
def strike (s : State) : State :=
  let k := Config.strike s.choice
  if !s.boot.ready then s
  else match k 0 with
    | 1 => strikeWord (tick1 s) (k 1) false
    | 2 => strikeWord (tick1 s) (k 1) true
    | 3 => strikeDir (tick1 s) (k 1)
    | 4 => strikeCopy (tick1 s) (k 1) (k 2) (k 3)
    | 5 => strikeLink (tick1 s) (k 1) (k 2)
    | _ => tick1 s

/-- The flash engines program what waits (R316, R324). -/
def flashTick (s : State) : State := if s.fle.any (fun e => e.2.mounted) then (List.range 4).foldl fleTick s else s

/-- One nanosecond on an empty queue; the perturbation registers lock as their duration ends (R483), and a spare that is being
tested goes on (R418). -/
def idle (s : State) : State :=
  logPump (logAgain (atOnce testSpares (atOnce flashTick (atOnce strike (dirTick (drainSome (lockDue (passNs s 1))))))))

end Sys2Proof.Machine
end

