-- ==== Sys2Proof/Laws/Tables.lean ====
section
/-!
SUPPORT. Reading a bank after writing it.
-/
namespace Sys2Proof.Machine
open Sys2Proof

@[simp] theorem tget_tset_same {α : Type} (t : Tbl α) (d v : α) (k : Nat) : tget (tset t k v) d k = v := by
  induction t with
  | nil => simp [tset, tget]
  | cons e r ih =>
    obtain ⟨j, w⟩ := e
    simp only [tset]
    split
    · simp [tget]
    · split
      · simp [tget]
      · simp [tget, *]

theorem tget_tset_other {α : Type} (t : Tbl α) (d v : α) {j k : Nat} (h : j ≠ k) :
    tget (tset t k v) d j = tget t d j := by
  induction t with
  | nil => simp [tset, tget, Ne.symm h]
  | cons e r ih =>
    obtain ⟨i, w⟩ := e
    simp only [tset]
    split
    · subst_vars; simp [tget, Ne.symm h]
    · split
      · simp [tget, Ne.symm h]
      · simp [tget, ih]

@[simp] theorem tget_tmod_same {α : Type} (t : Tbl α) (d : α) (k : Nat) (f : α → α) :
    tget (tmod t d k f) d k = f (tget t d k) := by simp [tmod]

theorem tget_tmod_other {α : Type} (t : Tbl α) (d : α) (f : α → α) {j k : Nat} (h : j ≠ k) :
    tget (tmod t d k f) d j = tget t d j := by simp [tmod, tget_tset_other _ _ _ h]

/-- Of two writes at one number the later one stands. -/
@[simp] theorem tset_tset {α : Type} (t : Tbl α) (k : Nat) (v w : α) : tset (tset t k v) k w = tset t k w := by
  induction t with
  | nil => simp [tset]
  | cons e r ih =>
    obtain ⟨j, u⟩ := e
    simp only [tset]
    split
    · simp [tset]
    · split
      · simp [tset]
      · simp [tset, *]

@[simp] theorem tmod_tmod {α : Type} (t : Tbl α) (d : α) (k : Nat) (f g : α → α) :
    tmod (tmod t d k f) d k g = tmod t d k (fun x => g (f x)) := by simp [tmod]

theorem tget_nil {α : Type} (d : α) (k : Nat) : tget ([] : Tbl α) d k = d := rfl

end Sys2Proof.Machine
end

