-- ==== Sys2Proof/Safety.lean ====
section
/-!
DEFINITION. The terms in which claims about the node are made: when a Sequencer runs an instruction of its program, what an
instruction leaves behind, what an observer reads at an address, and the invariants that every step keeps.
-/
namespace Sys2Proof.Machine
open Sys2Proof

/-- The command completes: it has a next state, and `P` holds of it. -/
def Completes (i : Instr) (s : State) (P : State → Prop) : Prop := ∃ t, exec i s = .next t ∧ P t

/-! ## Sequencers -/

/-- Sequencer `n` runs the instruction at its PC: it is running, waits for nothing, its PC lies in the code region `k`
(R72), and the instruction's word is readable. -/
def FetchesFrom (s : State) (n : Fin 64) (k : Nat) : Prop :=
  (seqOf s n).running = true ∧ (seqOf s n).wait = .idle ∧
  fetchRegion s (seqOf s n).pc.toNat = some k ∧ ueIn s (seqOf s n).pc.toNat 4 = none

/-- The second word of the extended pair at the PC lies in the same region and is readable. -/
def PairFetched (s : State) (n : Fin 64) (k : Nat) : Prop :=
  fetchRegion s ((seqOf s n).pc + 4).toNat = some k ∧ ueIn s ((seqOf s n).pc + 4).toNat 4 = none

/-- What an instruction that retires leaves behind: `rd` written (R44), the PC past it (R47), ICOUNT one more (R45); the
fetch from region `k` put the Sequencer into its USERS mask (R473). -/
def retired (s : State) (n : Fin 64) (k : Nat) (rd : BitVec 6) (v : Word) (len : Nat) : State :=
  updSeq (addUser s n k) n (fun q => retire (setReg q rd v) len)

/-- What a branch or jump that retires leaves behind: `rd` written, the PC at `target`. -/
def jumped (s : State) (n : Fin 64) (k : Nat) (rd : BitVec 6) (v : Word) (target : BitVec 56) : State :=
  updSeq (addUser s n k) n (fun q => { setReg q rd v with pc := target, icount := q.icount + 1 })


/-- Nothing an observer can read in memory differs between two states. -/
def SameMemory (s t : State) : Prop := ∀ a, byteAt t a = byteAt s a

/-- Every cached copy is a line of 64 bytes, and what the directory calls owned is Modified at its owner (R335, R336). -/
def Coherent (s : State) : Prop :=
  (∀ g line c, cacheGet s g line = some c → c.data.length = 64) ∧
  (∀ g line, dirGet s line = some (.owned g) → ∃ c, cacheGet s g line = some c ∧ c.modified = true)

/-- The Sequencer that runs a command as an instruction of its program (chapter 03), if one does. -/
def insnOf : Instr → Option (Fin 64)
  | .add n _ _ _ _ | .sub n _ _ _ _ | .and n _ _ _ | .or n _ _ _ | .xor n _ _ _ | .sll n _ _ _ | .srl n _ _ _
  | .sra n _ _ _ | .slt n _ _ _ | .sltu n _ _ _ | .min n _ _ _ | .max n _ _ _ | .minu n _ _ _ | .maxu n _ _ _
  | .mul n _ _ _ _ | .mulh n _ _ _ _ | .mulhu n _ _ _ _ | .div n _ _ _ _ | .divu n _ _ _ _ | .rem n _ _ _ _
  | .remu n _ _ _ _ | .clz n _ _ _ | .ctz n _ _ _ | .popc n _ _ _ | .addi n _ _ _ _ | .andi n _ _ _ | .ori n _ _ _
  | .xori n _ _ _ | .slti n _ _ _ | .sltiu n _ _ _ | .slli n _ _ _ | .srli n _ _ _ | .srai n _ _ _ | .lix n _ _ _
  | .lihx n _ _ _ | .addix n _ _ _ _ | .andix n _ _ _ | .ldx n _ _ _ | .sdx n _ _ _ | .lb n _ _ _ | .lbu n _ _ _
  | .lh n _ _ _ | .lhu n _ _ _ | .lw n _ _ _ | .lwu n _ _ _ | .ld n _ _ _ | .sb n _ _ _ | .sh n _ _ _ | .sw n _ _ _
  | .sd n _ _ _ | .cflush n _ _ _ | .amoswap n _ _ _ _ _ | .amoadd n _ _ _ _ _ | .amoand n _ _ _ _ _
  | .amoor n _ _ _ _ _ | .amoxor n _ _ _ _ _ | .amomin n _ _ _ _ _ | .amomax n _ _ _ _ _ | .amominu n _ _ _ _ _
  | .amomaxu n _ _ _ _ _ | .amocas n _ _ _ _ _ | .beq n _ _ _ | .bne n _ _ _ | .blt n _ _ _ | .bge n _ _ _
  | .bltu n _ _ _ | .bgeu n _ _ _ | .jal n _ _ | .jalr n _ _ _ | .eiss n _ _ _ _ | .wait n _ _ _ _ | .evinc n _ _ _ _
  | .rdctr n _ _ _ _ | .fence n _ _ _ _ | .tret n _ _ _ | .halt n _ _ _ | .brk n _ _ _ | .hover n _ _ _ | .rdsr n _ _ _
  | .wrsr n _ _ _ => some n
  | _ => none

/-- The byte at `a` that the newest of some stores covering it holds, the newest last. -/
def storedByte (l : List (Nat × List Byte)) (a : Nat) : Option Byte :=
  l.foldl (fun x e => if e.1 ≤ a ∧ a < e.1 + e.2.length then some (e.2.getD (a - e.1) 0) else x) none

/-- Every Sequencer but `n` is as it was. -/
def OtherSeqs (s t : State) (n : Fin 64) : Prop := ∀ m, m ≠ n → seqOf t m = seqOf s m

/-- Every general register of Sequencer `n` but `rd` is as it was. -/
def OtherRegs (s t : State) (n : Fin 64) (rd : BitVec 6) : Prop :=
  ∀ r, r ≠ rd → reg (seqOf t n) r = reg (seqOf s n) r

/-! ## Queues -/

/-- Every queue but `q` is as it was. -/
def OtherQueues (s t : State) (q : Nat) : Prop := ∀ k, k ≠ q → queueOf t k = queueOf s k

/-- No queue holds 2^64 descriptors: a queue holds at most its depth and its unit's execution slots (R79). -/
def QueuesBounded (s : State) : Prop := ∀ q, (queueOf s q).entries.length < 2 ^ 64

/-- The rejection or failure of the descriptor with index `i` is noted (R97): Q_REJECTS counts it, REJECTED is set,
Q_LASTERR names it, and the queue enters HALTED where HALT_ON_REJ says so. -/
def Rejected (s t : State) (q : Nat) (i : Word) (code : Nat) : Prop :=
  let x := queueOf s q
  let y := queueOf t q
  y.rejects = x.rejects + 1 ∧ bitAt y.sticky 1 = true ∧ y.lastErr = BitVec.ofNat 64 (i.toNat % 2 ^ 40 * 256 + code) ∧
  y.halted = (x.halted || bitAt x.ctl 2) ∧ y.completed = x.completed

/-- The descriptor with index `i` of queue `q` is `e`, of opcode `op` of class `cls`, and runs with `w` in hand. -/
def Runs (s : State) (q : Nat) (i : Word) (cls op : Nat) (e : Entry) (w : Work) : Prop :=
  entryAt s q i = some e ∧ e.st = .running w ∧ qClass q = cls ∧ qExists q = true ∧ hdrOp (hdr e) = op

/-- The descriptor has moved on to `w`. -/
def RunsOn (t : State) (q : Nat) (i : Word) (e : Entry) (w : Work) : Prop :=
  entryAt t q i = some { e with st := .running w }

/-- The descriptor has done its work with `code`, and waits to retire. -/
def Finished (t : State) (q : Nat) (i : Word) (e : Entry) (code : Nat) : Prop :=
  entryAt t q i = some { e with st := .finished code }

/-- The descriptor has done its work: OK, or failed by an uncorrectable memory error or a second residue mismatch (R96). -/
def Ended (t : State) (q : Nat) (i : Word) (e : Entry) : Prop :=
  Finished t q i e 0 ∨ Finished t q i e cMemerr ∨ Finished t q i e cArith

/-- Of the queues only descriptor `i` of `q` may have moved, and no Sequencer has. -/
def OnlyEntry (s t : State) (q : Nat) (i : Word) : Prop :=
  OtherQueues s t q ∧ (queueOf t q).retired = (queueOf s q).retired ∧ (∀ j, j ≠ i → entryAt t q j = entryAt s q j) ∧
  t.seqs = s.seqs

/-- A queue without the marks of R143: a move over weights in use marks the descriptors that use them. -/
def unmarked (x : Queue) : Queue := { x with entries := x.entries.map (fun e => { e with spoiled := false }) }

/-- Of the queues only descriptor `i` of `q` may have moved, and of the matrix engines' queues nothing but marks of R143
differs; no Sequencer has moved. -/
def OnlyEntryAndMarks (s t : State) (q : Nat) (i : Word) : Prop :=
  (∀ k, k ≠ q → unmarked (queueOf t k) = unmarked (queueOf s k) ∧ (qClass k ≠ 0 → queueOf t k = queueOf s k)) ∧
  (queueOf t q).retired = (queueOf s q).retired ∧ (∀ j, j ≠ i → entryAt t q j = entryAt s q j) ∧ t.seqs = s.seqs

/-- No request waits at a channel, and no NBU descriptor has a footprint. -/
def ChannelsQuiet (s : State) : Prop := s.foot = [] ∧ ∀ ch, (chanOf s ch).queue = [] ∧ (chanOf s ch).upstream = []

/-- Nothing waits at a home slice or at a channel, and no NBU descriptor has a footprint: an access meets no other agent's
request. -/
def Quiet (s : State) : Prop := ChannelsQuiet s ∧ s.dir.waiting = []

/-- Memory is settled: nothing waits and no footprint stands (`Quiet`); the directory and the caches agree (`Coherent`, a
Modified copy being its line's owner's); no copy has lost a unit; no cache lists a line twice; and every copy holds the bytes
that an observer reads. -/
def Settled (s : State) : Prop :=
  Quiet s ∧ Coherent s ∧ s.dir.bad = [] ∧ (∀ g, ((tget s.caches [] g).map Prod.fst).Nodup) ∧
  (∀ g line c, cacheGet s g line = some c → c.modified = true → dirGet s line = some (.owned g)) ∧
  (∀ g line c, cacheGet s g line = some c → ∀ j, j < 64 → c.data.getD j 0 = byteAt s (64 * line + j))

/-- The bytes from `a` on are `l` to an observer, and every other byte is as it was. -/
def Stored (s t : State) (a : Nat) (l : List Byte) : Prop :=
  ∀ b, byteAt t b = if a ≤ b ∧ b < a + l.length then l.getD (b - a) 0 else byteAt s b

/-- An observer reads every byte outside some extents as before. -/
def OnlyIn (s t : State) (l : List (Nat × Nat)) : Prop :=
  ∀ a, (∀ x ∈ l, ¬(x.1 ≤ a ∧ a < x.1 + x.2)) → byteAt t a = byteAt s a

/-- The descriptor has ended with `code` and, where it has a status record at `stat`, aligned as R94 demands, an observer reads
the record there; or the record could not be written, and it failed with MEMERR. -/
def Recorded (t : State) (q : Nat) (i : Word) (e : Entry) (stat : Nat) (l : List Byte) (code : Nat) : Prop :=
  (Finished t q i e code ∧ (stat ≠ 0 → stat % 64 = 0 → ∀ k, k < l.length → byteAt t (stat + k) = l.getD k 0)) ∨
  (stat ≠ 0 ∧ Finished t q i e cMemerr)

/-! ## Invariants -/

/-- The answers to channel requests among the outputs. -/
def chanAnswers (s : State) : List Output :=
  s.out.filter (fun o => match o with
    | .chanDone _ _ _ _ => true
    | _ => false)

/-- Node memory is in its canonical form. -/
def MemoryWf (s : State) : Prop := s.mem.wf

/-- An address whose bits [1:0] are 0. -/
def Aligned4 (a : BitVec 56) : Prop := a.toNat % 4 = 0

/-- The PC of a Sequencer, and every register the PC is loaded from, has bits [1:0] at 0 (R44). -/
def SeqAligned (q : Seq) : Prop :=
  Aligned4 q.pc ∧ Aligned4 q.tvec ∧ Aligned4 q.tpc ∧ Aligned4 q.entry ∧ Aligned4 q.hoEntry

def SeqsAligned (s : State) : Prop := ∀ n, SeqAligned (seqOf s n)

/-- No mailbox queue holds more words than its depth. -/
def MbxBounded (s : State) : Prop := ∀ m, (tget s.mbx {} m).ab.length ≤ 16 ∧ (tget s.mbx {} m).ba.length ≤ 16

end Sys2Proof.Machine
end

