-- ==== Sys2Proof/Laws/Seq.lean ====
section
/-!
SUPPORT. What running one instruction of a Sequencer can do.
-/
namespace Sys2Proof.Machine
open Sys2Proof

@[simp] theorem seqOf_updSeq_same (s : State) (n : Fin 64) (f : Seq → Seq) : seqOf (updSeq s n f) n = f (seqOf s n) := by
  simp [seqOf, updSeq]

theorem seqOf_updSeq_other (s : State) {n m : Fin 64} (f : Seq → Seq) (h : m ≠ n) :
    seqOf (updSeq s n f) m = seqOf s m := by
  have : m.val ≠ n.val := fun e => h (Fin.ext e)
  simp [seqOf, updSeq, tget_tmod_other _ _ _ this]

/-- What a change makes of the Sequencer is all that counts. -/
theorem updSeq_congr (s : State) (n : Fin 64) {f g : Seq → Seq} (h : f (seqOf s n) = g (seqOf s n)) :
    updSeq s n f = updSeq s n g := by
  have h' : f (tget s.seqs {} n.val) = g (tget s.seqs {} n.val) := h
  simp only [updSeq, tmod, h']

/-- Two changes of one Sequencer are one. -/
theorem updSeq_updSeq (s : State) (n : Fin 64) (f g : Seq → Seq) :
    updSeq (updSeq s n f) n g = updSeq s n (fun q => g (f q)) := by
  simp only [updSeq, tmod_tmod]

@[simp] theorem seqOf_addUser (s : State) (n m : Fin 64) (k : Nat) : seqOf (addUser s n k) m = seqOf s m := rfl

/-- Where the instruction is fetched, it runs in the state that counts the fetch; an illegal one traps. -/
theorem runInsn_fetched {s : State} {n : Fin 64} {k : Nat} (h : FetchesFrom s n k) (op : Nat) (w : Word) (bad : Bool)
    (f : State → State) :
    runInsn s n op w bad f = if bad then takeTrap (addUser s n k) n op .illegal w else f (addUser s n k) := by
  obtain ⟨h1, h2, h3, h4⟩ := h
  simp [runInsn, seqLive, h1, h2, h3, h4]

theorem sadd_idem (l : List Nat) (k : Nat) : sadd (sadd l k) k = sadd l k := by
  have h : k ∈ sadd l k := by unfold sadd; split <;> simp [*]
  rw [sadd, if_pos h]

/-- A Sequencer joins a region's USERS mask once. -/
theorem addUser_addUser (s : State) (n : Fin 64) (k : Nat) : addUser (addUser s n k) n k = addUser s n k := by
  simp only [addUser, tmod_tmod, sadd_idem]

/-- Where both words of a pair are fetched, it runs as any other instruction does. -/
theorem runPair_fetched {s : State} {n : Fin 64} {k : Nat} (h : FetchesFrom s n k) (h2 : PairFetched s n k) (op : Nat)
    (w : Word) (bad : Bool) (f : State → State) :
    runPair s n op w bad f = if bad then takeTrap (addUser s n k) n op .illegal w else f (addUser s n k) := by
  obtain ⟨a, b⟩ := h2
  simp only [runPair, runInsn_fetched h, a, b, addUser_addUser, Bool.false_eq_true, if_false]

end Sys2Proof.Machine
end

