-- ==== Sys2Proof/Certificates/Slice0/Obligations.lean ====
section
/-!
DEFINITION. The statements for the provers: what the spec's rules say that a command, a step or the reset does, over every
state. `Completes` says that the command has a next state and what holds of it.
-/
open Sys2Proof Sys2Proof.Machine

/-! ## The step, reset, invariants -/

/-- A step runs the command at the front of the queue on the state with the queue's rest. -/
def Obligations.StepRunsFront : Prop :=
  ∀ (c : Instr) (rest : List Instr) (s : State), step { s with pending := c :: rest } = exec c { s with pending := rest }

/-- MODEL'S CHOICE (logs 1 and 5): on an empty queue one nanosecond passes. The timebase advances by one where it is released,
the queue stays empty, and each Sequencer either stands as it was or has had its buffered stores made visible, nothing else
of it changing. -/
def Obligations.IdleTick : Prop :=
  ∀ (s t : State), s.pending = [] → step s = .next t →
    t.tb.time = (if s.tb.released then s.tb.time + 1 else s.tb.time) ∧ t.pending = [] ∧
    ∀ n, seqOf t n = seqOf s n ∨ seqOf t n = { seqOf s n with stores := [] }

/-- The machine right after power-up (R42, R44, R45, R73, R74, R85, R96, R102, R141, R176, R195, R196, R218, R260, R265, R271,
R300, R331, R349, R350, R377, R402, R403, R446, R465): every Sequencer is halted with its registers at 0; memory is zero and
uncached; COMMIT_SEQ is 0, queues and mailboxes are empty and enabled as their registers say; each register named here reads
its reset value; and the invariants below hold. MODEL'S CHOICE (log 10): what the spec states no reset value for is 0 or
empty, so that no cache line and no directory entry exists, and memory reads 0 before the power-up sequence zeroes T0. -/
def Obligations.ResetState : Prop :=
  let s := State.reset
  let reads (w : Nat) (l : List (Nat × Word)) : Prop := ∀ x ∈ l, rdPlain s w x.1 = x.2
  s.pending = [] ∧ MemoryWf s ∧ SeqsAligned s ∧ MbxBounded s ∧ Coherent s ∧ QueuesBounded s ∧
  (∀ n r, (seqOf s n).running = false ∧ reg (seqOf s n) r = 0 ∧ (seqOf s n).th = false ∧ (seqOf s n).tvec = 0 ∧
    (seqOf s n).tenant = 0 ∧ (seqOf s n).wdl = 0 ∧ (seqOf s n).tsave = 0 ∧ (seqOf s n).icount = 0 ∧
    (seqOf s n).progver = 0 ∧ (seqOf s n).tpc = 0 ∧ (seqOf s n).tcause = 0 ∧ (seqOf s n).tval = 0) ∧
  (∀ a, byteAt s a = 0) ∧ (∀ g l, cacheGet s g l = none ∧ dirGet s l = none) ∧
  ctrGet s 0x9010 = 0 ∧ (∀ k, 0xFF00 ≤ k → k ≤ 0xFFFF → ctrGet s k = 0) ∧
  (∀ q, (queueOf s q).entries = [] ∧ (queueOf s q).retired = 0 ∧ (queueOf s q).completed = 0) ∧
  (∀ p g, segMapped s p g = false) ∧ (∀ c, (chanOf s c).mode = .mem ∧ (chanOf s c).queue = []) ∧
  s.boot.alive = false ∧ s.boot.ready = false ∧ s.tb.released = false ∧ s.tb.time = 0 ∧
  reads 0x01 [(0x08, 0x03E8000000), (0x18, 0xF0)] ∧ reads 0x06 [(0x00, 0xFFFF), (0x08, 0), (0x18, 0)] ∧
  reads 0x07 [(0x00, 0x00C807D00000), (0x100, 0), (0x2F0, 0)] ∧ reads 0x09 [(0x00, 0x0A0000000001), (0x1000, 0x14400)] ∧
  reads 0x0A [(0x00, 0x64), (0x600, 0x4040), (0x678, 0x4040), (0x700, 0)] ∧ reads 0x0B [(0x00, 0x400), (0x08, 0), (0x1FF0, 0x400)] ∧
  reads 0x10 [(0x00, 0), (0x08, 0), (0x10, 0), (0x18, 0), (0x20, 0), (0x3F00, 0), (0x3F10, 0)] ∧
  reads 0x20 [(0x00, 0x6400000003), (0x08, 0), (0x8000, 0x101), (0x8008, 0x2000200000), (0x8010, 0), (0x8018, 0), (0x8020, 0)] ∧
  reads 0x21 [(0x00, 0), (0x08, 0x400)] ∧ reads 0x22 [(0x00, 0), (0x08, 0x40000000000), (0x4000, 0), (0x4008, 0), (0x4018, 0)] ∧
  reads 0x24 [(0x00, 0), (0x1000, 0x271000100001)] ∧ reads 0x25 [(0x00, 0x6400000001), (0x08, 0)] ∧
  reads 0x27 [(0x08, 0), (0x10, 0), (0x18, 0x03E8010000400008), (0x20, 0)] ∧ reads 0x28 [(0x00, 0), (0x08, 0)]

/-- Every command, in every state, has a next state: the node neither stops nor refuses (R1 and the chapters' rules name no
stop). An empty queue idles (MODEL'S CHOICE, log 1). -/
def Obligations.EveryStepAnswers : Prop := ∀ s : State, ∃ t, step s = .next t

/-- Node memory keeps its canonical form: the listed bytes are in strictly rising order of address and none is 0, what an
unlisted byte reads (R240, R241, R446: memory is zero after power-up). -/
def Obligations.MemoryStaysCanonical : Prop :=
  ∀ s t : State, MemoryWf s → step s = .next t → MemoryWf t

/-- Bits [1:0] of every Sequencer's PC read as 0 (R44), and so do those of every register that the PC is loaded from: TVEC
and TPC (R45), SEQ_ENTRY and SEQ_HO_ENTRY (R74). No step changes that. -/
def Obligations.SequencersStayAligned : Prop :=
  ∀ s t : State, SeqsAligned s → step s = .next t → SeqsAligned t

/-- A mailbox queue never holds more than its 16 words (R355): no command, and no reset, makes it hold more. -/
def Obligations.MailboxesStayBounded : Prop :=
  ∀ s t : State, MbxBounded s → step s = .next t → MbxBounded t

/-! ## Sequencers -/

/-- Addition, subtraction and logic of major opcode 0x00 (R50): where the instruction is fetched it retires with the
value in rd.

Multiplication, division and bit counts (R50, R51). The quotient of -2^63 by -1 is -2^63 and its remainder 0; a zero
divisor gives all ones, and rs1 as the remainder. CLZ, CTZ and POPC with rs2 = 0.

The immediate and extended scalar instructions (R47, R52): immediates are sign-extended. -/
def Obligations.ScalarResults : Prop :=
  (∀ (s : State) (n : Fin 64) (k : Nat) (rd rs1 rs2 : BitVec 6), FetchesFrom s n k →
    let a := reg (seqOf s n) rs1
    let b := reg (seqOf s n) rs2
    exec (.add n rd rs1 rs2 .ok) s = .next (retired s n k rd (a + b) 4) ∧
    exec (.sub n rd rs1 rs2 .ok) s = .next (retired s n k rd (a - b) 4) ∧
    exec (.and n rd rs1 rs2) s = .next (retired s n k rd (a &&& b) 4) ∧
    exec (.or n rd rs1 rs2) s = .next (retired s n k rd (a ||| b) 4) ∧
    exec (.xor n rd rs1 rs2) s = .next (retired s n k rd (a ^^^ b) 4) ∧
    exec (.sll n rd rs1 rs2) s = .next (retired s n k rd (a <<< (b.extractLsb' 0 6).toNat) 4) ∧
    exec (.srl n rd rs1 rs2) s = .next (retired s n k rd (a >>> (b.extractLsb' 0 6).toNat) 4) ∧
    exec (.sra n rd rs1 rs2) s = .next (retired s n k rd (a.sshiftRight (b.extractLsb' 0 6).toNat) 4) ∧
    exec (.slt n rd rs1 rs2) s = .next (retired s n k rd (if a.toInt < b.toInt then 1 else 0) 4) ∧
    exec (.sltu n rd rs1 rs2) s = .next (retired s n k rd (if a < b then 1 else 0) 4) ∧
    exec (.min n rd rs1 rs2) s = .next (retired s n k rd (BitVec.ofInt 64 (min a.toInt b.toInt)) 4) ∧
    exec (.max n rd rs1 rs2) s = .next (retired s n k rd (BitVec.ofInt 64 (max a.toInt b.toInt)) 4) ∧
    exec (.minu n rd rs1 rs2) s = .next (retired s n k rd (BitVec.ofNat 64 (min a.toNat b.toNat)) 4) ∧
    exec (.maxu n rd rs1 rs2) s = .next (retired s n k rd (BitVec.ofNat 64 (max a.toNat b.toNat)) 4)) ∧
  (∀ (s : State) (n : Fin 64) (k : Nat) (rd rs1 rs2 : BitVec 6), FetchesFrom s n k →
    let a := reg (seqOf s n) rs1
    let b := reg (seqOf s n) rs2
    exec (.mul n rd rs1 rs2 .ok) s = .next (retired s n k rd (a * b) 4) ∧
    exec (.mulh n rd rs1 rs2 .ok) s =
      .next (retired s n k rd ((a.signExtend 128 * b.signExtend 128).extractLsb' 64 64) 4) ∧
    exec (.mulhu n rd rs1 rs2 .ok) s =
      .next (retired s n k rd ((a.zeroExtend 128 * b.zeroExtend 128).extractLsb' 64 64) 4) ∧
    exec (.div n rd rs1 rs2 .ok) s =
      .next (retired s n k rd (if b = 0 then BitVec.allOnes 64 else a.sdiv b) 4) ∧
    exec (.divu n rd rs1 rs2 .ok) s =
      .next (retired s n k rd (if b = 0 then BitVec.allOnes 64 else a / b) 4) ∧
    exec (.rem n rd rs1 rs2 .ok) s = .next (retired s n k rd (if b = 0 then a else a.srem b) 4) ∧
    exec (.remu n rd rs1 rs2 .ok) s = .next (retired s n k rd (if b = 0 then a else a % b) 4) ∧
    (a = BitVec.intMin 64 → b = BitVec.allOnes 64 →
      exec (.div n rd rs1 rs2 .ok) s = .next (retired s n k rd (BitVec.intMin 64) 4) ∧
      exec (.rem n rd rs1 rs2 .ok) s = .next (retired s n k rd 0 4)) ∧
    exec (.clz n rd rs1 0) s = .next (retired s n k rd a.clz 4) ∧
    exec (.ctz n rd rs1 0) s = .next (retired s n k rd a.ctz 4) ∧
    exec (.popc n rd rs1 0) s =
      .next (retired s n k rd (BitVec.ofNat 64 ((List.finRange 64).countP (fun i => a.getLsb i))) 4)) ∧
  (∀ (s : State) (n : Fin 64) (k : Nat) (rd rs1 : BitVec 6) (i : BitVec 14) (x : BitVec 40), FetchesFrom s n k →
    let a := reg (seqOf s n) rs1
    exec (.addi n rd rs1 i .ok) s = .next (retired s n k rd (a + i.signExtend 64) 4) ∧
    exec (.andi n rd rs1 i) s = .next (retired s n k rd (a &&& i.signExtend 64) 4) ∧
    exec (.ori n rd rs1 i) s = .next (retired s n k rd (a ||| i.signExtend 64) 4) ∧
    exec (.xori n rd rs1 i) s = .next (retired s n k rd (a ^^^ i.signExtend 64) 4) ∧
    exec (.slti n rd rs1 i) s = .next (retired s n k rd (if a.toInt < i.toInt then 1 else 0) 4) ∧
    exec (.sltiu n rd rs1 i) s = .next (retired s n k rd (if a < i.signExtend 64 then 1 else 0) 4) ∧
    (∀ m : BitVec 6,
      exec (.slli n rd rs1 (m.setWidth 12)) s = .next (retired s n k rd (a <<< m.toNat) 4) ∧
      exec (.srli n rd rs1 (m.setWidth 12)) s = .next (retired s n k rd (a >>> m.toNat) 4) ∧
      exec (.srai n rd rs1 (m.setWidth 12)) s = .next (retired s n k rd (a.sshiftRight m.toNat) 4)) ∧
    (PairFetched s n k →
    exec (.lix n rd 0 x) s = .next (retired s n k rd (x.signExtend 64) 8) ∧
    (∀ h : BitVec 24, exec (.lihx n rd 0 (h.setWidth 40)) s =
      .next (retired s n k rd (h ++ (reg (seqOf s n) rd).setWidth 40) 8)) ∧
    exec (.addix n rd rs1 x .ok) s = .next (retired s n k rd (a + x.signExtend 64) 8) ∧
    exec (.andix n rd rs1 x) s = .next (retired s n k rd (a &&& x.signExtend 64) 8)))

/-- The frame of an instruction that retires by writing `rd` (R44, R45, R47): g0 reads 0, rd holds the value, no other
register of the Sequencer and no other Sequencer changes, ICOUNT counts one, the trap registers and the special registers
stand, and nothing in memory, in the queues or in the counters changes.

A residue check (R70, R404): a first mismatch is recorded and the instruction retires as ever; a second raises ARITH
(R69) in place of the write. -/
def Obligations.ScalarFrame : Prop :=
  (∀ (s : State) (n : Fin 64) (k : Nat) (rd : BitVec 6) (v : Word) (len : Nat),
    let t := retired s n k rd v len
    let p := seqOf s n
    let q := seqOf t n
    reg q rd = (if rd = 0 then 0 else v) ∧ reg q 0 = 0 ∧ OtherRegs s t n rd ∧ OtherSeqs s t n ∧
    q.pc = p.pc + BitVec.ofNat 56 len ∧ q.icount = p.icount + 1 ∧
    q.th = p.th ∧ q.tvec = p.tvec ∧ q.tpc = p.tpc ∧ q.tcause = p.tcause ∧ q.tval = p.tval ∧ q.tsave = p.tsave ∧
    q.tenant = p.tenant ∧ q.wdl = p.wdl ∧ q.progver = p.progver ∧ q.stores = p.stores ∧
    SameMemory s t ∧ t.queues = s.queues ∧ t.ctrs = s.ctrs ∧ t.mbx = s.mbx ∧ t.tb = s.tb ∧ t.err = s.err ∧ t.out = s.out) ∧
  (∀ (s : State) (n : Fin 64) (k : Nat) (rd rs1 rs2 : BitVec 6) (y z : BitVec 18), FetchesFrom s n k →
    let a := reg (seqOf s n) rs1
    let b := reg (seqOf s n) rs2
    let w := wordR 0 rd.toNat rs1.toNat rs2.toNat 0x10
    Completes (.mul n rd rs1 rs2 (.first y)) s (fun t =>
      reg (seqOf t n) rd = (if rd = 0 then 0 else a * b) ∧ (seqOf t n).pc = (seqOf s n).pc + 4 ∧
      tget t.ctrs 0 0x9022 = tget s.ctrs 0 0x9022 + 1 ∧ bitAt t.err.sticky 1 = true) ∧
    Completes (.mul n rd rs1 rs2 (.second y z)) s (fun t =>
      reg (seqOf t n) rd = reg (seqOf s n) rd ∧ (seqOf t n).tcause = 0x0E ∧ (seqOf t n).tval = w ∧
      (seqOf t n).tpc = (seqOf s n).pc ∧ bitAt t.err.sticky 2 = true))

/-- Branches and jumps (R47, R58): the offset counts words from the branch itself; JAL and JALR put PC + 4 in rd, and JALR
takes its base before rd is written. A JALR whose target has bits [1:0] set raises MISALIGN_PC at the jump, with the target
as TVAL and rd unwritten.

A fetch outside every code region (R58, R69, R72): whatever the instruction of chapter 03 and its operands, FETCH_FAULT is
raised at the PC, which TPC and TVAL hold; the instruction has no effect. Where only the second word of an extended pair lies
outside, TVAL holds that word's address. -/
def Obligations.BranchesAndJumps : Prop :=
  (∀ (s : State) (n : Fin 64) (k : Nat) (rd rs1 rs2 : BitVec 6) (off : BitVec 14) (joff : BitVec 20), FetchesFrom s n k →
    let pc := (seqOf s n).pc
    let a := reg (seqOf s n) rs1
    let b := reg (seqOf s n) rs2
    let yes := jumped s n k 0 0 (pc + 4 * off.signExtend 56)
    let no := jumped s n k 0 0 (pc + 4)
    let t := a + off.signExtend 64
    exec (.beq n rs1 rs2 off) s = .next (if a = b then yes else no) ∧
    exec (.bne n rs1 rs2 off) s = .next (if a = b then no else yes) ∧
    exec (.blt n rs1 rs2 off) s = .next (if a.toInt < b.toInt then yes else no) ∧
    exec (.bge n rs1 rs2 off) s = .next (if a.toInt < b.toInt then no else yes) ∧
    exec (.bltu n rs1 rs2 off) s = .next (if a.toNat < b.toNat then yes else no) ∧
    exec (.bgeu n rs1 rs2 off) s = .next (if a.toNat < b.toNat then no else yes) ∧
    exec (.jal n rd joff) s = .next (jumped s n k rd ((pc + 4).zeroExtend 64) (pc + 4 * joff.signExtend 56)) ∧
    (t.toNat % 4 = 0 → t.toNat < 2 ^ 56 →
      exec (.jalr n rd rs1 off) s = .next (jumped s n k rd ((pc + 4).zeroExtend 64) (t.setWidth 56))) ∧
    (t.toNat % 4 ≠ 0 → Completes (.jalr n rd rs1 off) s (fun u =>
      (seqOf u n).tcause = 0x02 ∧ (seqOf u n).tval = t ∧ (seqOf u n).tpc = pc ∧ (seqOf u n).g = (seqOf s n).g ∧
      (seqOf u n).icount = (seqOf s n).icount))) ∧
  ((∀ (s : State) (n : Fin 64) (c : Instr), insnOf c = some n →
    let p := seqOf s n
    p.running = true → p.wait = .idle → fetchRegion s p.pc.toNat = none →
      Completes c s (fun t => (seqOf t n).tcause = 0x03 ∧ (seqOf t n).tval = p.pc.zeroExtend 64 ∧
        (seqOf t n).tpc = p.pc ∧ (seqOf t n).g = p.g ∧ (seqOf t n).icount = p.icount ∧ (seqOf t n).stores = p.stores ∧
        OtherSeqs s t n ∧ t.queues = s.queues)) ∧
  (∀ (s : State) (n : Fin 64) (k : Nat) (rd rs1 : BitVec 6) (x : BitVec 40) (r : Residue), FetchesFrom s n k →
    let p := seqOf s n
    fetchRegion s (p.pc + 4).toNat = none →
      ∀ c ∈ [Instr.lix n rd rs1 x, .lihx n rd rs1 x, .addix n rd rs1 x r, .andix n rd rs1 x, .ldx n rd rs1 x, .sdx n rd rs1 x],
        Completes c s (fun t => (seqOf t n).tcause = 0x03 ∧ (seqOf t n).tval = (p.pc + 4).zeroExtend 64 ∧
          (seqOf t n).tpc = p.pc ∧ (seqOf t n).g = p.g ∧ (seqOf t n).icount = p.icount ∧ (seqOf t n).stores = p.stores ∧
          OtherSeqs s t n ∧ t.queues = s.queues)))

/-- Taking a trap (R71), for BRK (R68, R69): with TH at 0 and TVEC not 0 the Sequencer saves the PC in TPC, the cause in TCAUSE,
0 in TVAL, sets TH and goes on at TVEC; otherwise it halts, TRAP_HALT set where TVEC is 0 and DOUBLE_TRAP where TH is 1
(both where both hold), LAST_CAUSE at the code and SEQ_ENTRY at the trapping instruction. Its general registers and ICOUNT
stand.

TRET resumes at TPC and clears TH, and is ILLEGAL outside a handler; HALT halts with PC + 4 in SEQ_ENTRY and HALTED set
(R68).

HOVER (R77): with a request pending that has not expired once the earlier stores are visible, and TH at 0, it takes the
hand-over: rd receives 0x8000_0000_0000_0000 plus the old PROGVER, PROGVER becomes VERSION, the PC is SEQ_HO_ENTRY, PENDING
clears and HO_DONE is set; TENANT, TVEC, TSAVE and WDL pass on. With no request pending, or in a handler, it writes 0 to rd. -/
def Obligations.TrapsAndReturns : Prop :=
  (∀ (s : State) (n : Fin 64) (k : Nat), FetchesFrom s n k →
    let p := seqOf s n
    Completes (.brk n 0 0 0) s (fun t =>
      let q := seqOf t n
      q.tpc = p.pc ∧ q.tcause = 0x0D ∧ q.tval = 0 ∧ q.g = p.g ∧ q.icount = p.icount ∧ q.tvec = p.tvec ∧
      q.tsave = p.tsave ∧ q.stores = [] ∧ OtherSeqs s t n ∧
      (if p.th = false ∧ p.tvec ≠ 0 then
        q.th = true ∧ q.pc = p.tvec ∧ q.running = true ∧ q.sticky = p.sticky ∧ q.lastCause = p.lastCause
      else
        q.th = p.th ∧ q.running = false ∧ q.entry = p.pc ∧ q.haltAddr = p.pc ∧ q.lastCause = 0x0D ∧
        bitAt q.sticky 2 = (bitAt p.sticky 2 || decide (p.tvec = 0)) ∧
        bitAt q.sticky 3 = (bitAt p.sticky 3 || p.th)))) ∧
  (∀ (s : State) (n : Fin 64) (k : Nat), FetchesFrom s n k →
    let p := seqOf s n
    (p.th = true → Completes (.tret n 0 0 0) s (fun t =>
      seqOf t n = { p with pc := p.tpc, th := false, icount := p.icount + 1, stores := [] } ∧ OtherSeqs s t n)) ∧
    (p.th = false → Completes (.tret n 0 0 0) s (fun t =>
      (seqOf t n).tcause = 0x01 ∧ (seqOf t n).tpc = p.pc ∧ (seqOf t n).icount = p.icount)) ∧
    Completes (.halt n 0 0 0) s (fun t =>
      let q := seqOf t n
      q.running = false ∧ q.entry = p.pc + 4 ∧ q.haltAddr = p.pc + 4 ∧ bitAt q.sticky 1 = true ∧ q.g = p.g ∧
      q.icount = p.icount + 1 ∧ q.th = p.th ∧ q.stores = [] ∧ OtherSeqs s t n)) ∧
  (∀ (s : State) (n : Fin 64) (k : Nat) (rd : BitVec 6), FetchesFrom s n k →
    let p := seqOf s n
    (p.hoPending = true → p.th = false → (p.hoTmo = 0 ∨
        (drain (addUser s n k) n).tb.time.toNat < p.hoStart.toNat + p.hoTmo.toNat * 1000000) →
      Completes (.hover n rd 0 0) s (fun t =>
        let q := seqOf t n
        reg q rd = (if rd = 0 then 0 else 0x8000000000000000 + p.progver.zeroExtend 64) ∧ OtherRegs s t n rd ∧
        q.progver = p.hoVersion ∧ q.pc = p.hoEntry ∧ q.hoPending = false ∧ bitAt q.sticky 4 = true ∧
        q.icount = p.icount + 1 ∧ q.tenant = p.tenant ∧ q.tvec = p.tvec ∧ q.tsave = p.tsave ∧ q.wdl = p.wdl ∧
        OtherSeqs s t n)) ∧
    ((p.hoPending = false ∨ (p.th = true ∧ p.hoTmo = 0)) → Completes (.hover n rd 0 0) s (fun t =>
      seqOf t n = retire (setReg { p with stores := [] } rd 0) 4 ∧ OtherSeqs s t n)))

/-- Special registers (R45): RDSR returns each, TIME as it stands once the earlier stores are visible; WRSR writes those that
are RW, reserved bits reading 0; a number outside the table, or a WRSR to a register marked RO, is ILLEGAL. -/
def Obligations.SpecialRegisters : Prop :=
  ∀ (s : State) (n : Fin 64) (k : Nat) (rd rs1 : BitVec 6) (i : BitVec 14), FetchesFrom s n k →
    let p := seqOf s n
    let v := reg p rs1
    let reads (j : BitVec 14) (w : Word) : Prop := Completes (.rdsr n rd 0 j) s (fun t =>
      seqOf t n = retire (setReg { p with stores := [] } rd w) 4 ∧ OtherSeqs s t n)
    let writes (j : BitVec 14) (q : Seq) : Prop := Completes (.wrsr n 0 rs1 j) s (fun t =>
      seqOf t n = retire { q with stores := [] } 4 ∧ OtherSeqs s t n)
    let illegal (c : Instr) : Prop := Completes c s (fun t =>
      (seqOf t n).tcause = 0x01 ∧ (seqOf t n).tpc = p.pc ∧ (seqOf t n).g = p.g)
    reads 0x00 (BitVec.ofNat 64 n.val) ∧ reads 0x01 (drain (addUser s n k) n).tb.time ∧ reads 0x02 (p.tenant.zeroExtend 64) ∧
    reads 0x03 (if p.th then 1 else 0) ∧ reads 0x04 (p.tvec.zeroExtend 64) ∧ reads 0x05 (p.tpc.zeroExtend 64) ∧
    reads 0x06 (p.tcause.zeroExtend 64) ∧ reads 0x07 p.tval ∧ reads 0x08 p.tsave ∧ reads 0x09 p.wdl ∧
    reads 0x0A (p.progver.zeroExtend 64) ∧ reads 0x0B p.icount ∧
    writes 0x02 { p with tenant := v.extractLsb' 0 12 } ∧ writes 0x03 { p with th := v.getLsbD 0 } ∧
    writes 0x04 { p with tvec := v.extractLsb' 2 54 ++ (0 : BitVec 2) } ∧
    writes 0x05 { p with tpc := v.extractLsb' 2 54 ++ (0 : BitVec 2) } ∧
    writes 0x08 { p with tsave := v } ∧ writes 0x09 { p with wdl := v } ∧
    (i.toNat > 0x0B → illegal (.rdsr n rd 0 i) ∧ illegal (.wrsr n 0 rs1 i)) ∧
    (i.toNat ∈ [0x00, 0x01, 0x06, 0x07, 0x0A, 0x0B] → illegal (.wrsr n 0 rs1 i))

/-- A load that is aligned and mapped (R49, R53, R54). Of node memory: rd receives the bytes that the line and the Sequencer's
own earlier stores give, extended by sign or by zero as the instruction says; where the line's fill meets an uncorrectable
codeword, MEMERR is raised with the effective address and rd is unwritten. Of host memory the same, the earlier stores
visible first; of a register, 8 bytes wide, its value, and the register is left as a read leaves it.

Read after write (R48, R49): where memory is settled, each byte a load reads is the one that the newest of the Sequencer's
own earlier stores to it wrote, and where none did the one an observer reads; what an observer reads stands.

A store that is aligned, mapped, outside the code regions and outside the rows of a running SCATTER (R49, R53, R54). To node
memory: where its line can be fetched, the instruction retires and its bytes, least significant first, join the Sequencer's
store buffer as the newest store; no general register changes; where it cannot, MEMERR. To host memory: the earlier stores
are visible first, then the bytes are written; to a register, 8 bytes wide, the instruction retires and the register is
written. On the rows of a running SCATTER the rows are undefined, and so is what is stored (R296).

A buffered store becomes visible (R48, R49): where memory is settled and its line can be taken, an observer reads its bytes
at its address, and every other byte as before. MODEL'S CHOICE (log 5): a store's line is filled as the store executes and
taken in M as it becomes visible. -/
def Obligations.LoadsAndStores : Prop :=
  (∀ (s : State) (n : Fin 64) (k : Nat) (rd rs1 : BitVec 6) (i : BitVec 14) (x : BitVec 40), FetchesFrom s n k →
    let u := addUser s n k
    let loads (c : Instr) (op : Nat) (a : Word) (size len : Nat) (ext : List Byte → Word) : Prop :=
      a.toNat % size = 0 → a.toNat < 2 ^ 56 → mapped s a.toNat = true →
        let ends (r : Rd) : Prop :=
          (r.ok = true → exec c s = .next (updSeq r.s n (fun q => retire (setReg q rd (ext r.data)) len))) ∧
          (r.ok = false → Completes c s (fun t =>
            (seqOf t n).tcause = 0x07 ∧ (seqOf t n).tval = a ∧ (seqOf t n).tpc = (seqOf s n).pc ∧
            (seqOf t n).g = (seqOf s n).g))
        (inNode a.toNat = true → ends (seqLoad u n op a.toNat size)) ∧
        (∀ p g, area a.toNat = .t3 p g → ends (t3Read (drain u n) (seqWho u n op) p a.toNat size)) ∧
        (area a.toNat = .csr → size = 8 →
          let r := csrRead (drain u n) (.seq n) a.toNat
          exec c s = .next (updSeq r.2 n (fun q => retire (setReg q rd r.1) len)))
    let a := reg (seqOf s n) rs1 + i.signExtend 64
    let signed (w : Nat) (l : List Byte) : Word := (BitVec.ofNat w (leNat l)).signExtend 64
    let plain (l : List Byte) : Word := BitVec.ofNat 64 (leNat l)
    loads (.lb n rd rs1 i) 0x1000 a 1 4 (signed 8) ∧ loads (.lbu n rd rs1 i) 0x1100 a 1 4 plain ∧
    loads (.lh n rd rs1 i) 0x1200 a 2 4 (signed 16) ∧ loads (.lhu n rd rs1 i) 0x1300 a 2 4 plain ∧
    loads (.lw n rd rs1 i) 0x1400 a 4 4 (signed 32) ∧ loads (.lwu n rd rs1 i) 0x1500 a 4 4 plain ∧
    loads (.ld n rd rs1 i) 0x1600 a 8 4 plain ∧
    (PairFetched s n k → loads (.ldx n rd rs1 x) 0x3F00 (reg (seqOf s n) rs1 + x.signExtend 64) 8 8 plain)) ∧
  (∀ (s : State) (n : Fin 64) (op a size : Nat), Settled s → inNode a = true → 0 < size → a % 64 + size ≤ 64 →
    let r := seqLoad s n op a size
    r.ok = true → SameMemory s r.s ∧ r.data.length = size ∧
      ∀ j, j < size → r.data.getD j 0 = (storedByte (seqOf s n).stores (a + j)).getD (byteAt s (a + j))) ∧
  (∀ (s : State) (n : Fin 64) (k : Nat) (rs2 rs1 : BitVec 6) (i : BitVec 14) (x : BitVec 40), FetchesFrom s n k →
    let u := addUser s n k
    let v := reg (seqOf s n) rs2
    let stores (c : Instr) (op : Nat) (a : Word) (size len : Nat) : Prop :=
      a.toNat % size = 0 → a.toNat < 2 ^ 56 → mapped s a.toNat = true → protected_ s a.toNat = false →
        let fails (t : State) : Prop :=
          (seqOf t n).tcause = 0x07 ∧ (seqOf t n).tval = a ∧ (seqOf t n).g = (seqOf s n).g
        let joins (w : State) (l : List Byte) : Prop :=
          let r := getS w (seqWho u n op) a.toNat (partRead a.toNat size)
          (r.ok = true → exec c s = .next (updSeq r.s n (fun q =>
            { retire q len with stores := q.stores ++ [(a.toNat, l)] }))) ∧
          (r.ok = false → Completes c s (fun t => fails t ∧ (seqOf t n).stores = (seqOf s n).stores))
        (inNode a.toNat = true → scatterRows u a.toNat size = [] → joins u (leBytes size v.toNat)) ∧
        (inNode a.toNat = true → scatterRows u a.toNat size ≠ [] →
          joins (tearRows (tick1 u) a.toNat size) (freeBytes u size)) ∧
        (scatterRows u a.toNat size = [] → ∀ p g, area a.toNat = .t3 p g →
          let r := t3Write (drain u n) (seqWho u n op) p a.toNat (leBytes size v.toNat)
          (r.1 = true → exec c s = .next (updSeq r.2 n (fun q => retire q len))) ∧
          (r.1 = false → Completes c s fails)) ∧
        (scatterRows u a.toNat size = [] → area a.toNat = .csr → size = 8 →
          exec c s = .next (csrWrite (updSeq (drain u n) n (fun q => retire q len)) (.seq n) a.toNat v))
    let a := reg (seqOf s n) rs1 + i.signExtend 64
    stores (.sb n rs2 rs1 i) 0x1800 a 1 4 ∧ stores (.sh n rs2 rs1 i) 0x1900 a 2 4 ∧
    stores (.sw n rs2 rs1 i) 0x1A00 a 4 4 ∧ stores (.sd n rs2 rs1 i) 0x1B00 a 8 4 ∧
    (PairFetched s n k → stores (.sdx n rs2 rs1 x) 0x3F00 (reg (seqOf s n) rs1 + x.signExtend 64) 8 8)) ∧
  (∀ (s : State) (w : Who) (a : Nat) (l : List Byte), Settled s → inNode a = true → l ≠ [] → a % 64 + l.length ≤ 64 →
    (pieceWrite s w a l).1 = true → Stored s (storeOut s w a l) a l)

/-- The order of the traps of a load, a store and an atomic (R54, R57, R69): misalignment first, then an unmapped address (R44:
one beyond 56 bits too), then for an atomic an address outside node memory, REGION; for a store or an atomic a code region;
for a load or a store a size other than 8 bytes in CSR space. TVAL is the effective address, the instruction does not retire,
and no register and no byte of memory changes where a handler takes the trap. -/
def Obligations.AccessTraps : Prop :=
  ∀ (s : State) (n : Fin 64) (k : Nat) (r1 r2 r3 : BitVec 6) (i : BitVec 14) (x : BitVec 40) (r : Residue),
    FetchesFrom s n k →
    let traps (c : Instr) (a : Word) (code : BitVec 8) : Prop := Completes c s (fun t =>
      (seqOf t n).tcause = code ∧ (seqOf t n).tval = a ∧ (seqOf t n).tpc = (seqOf s n).pc ∧
      (seqOf t n).g = (seqOf s n).g ∧ (seqOf t n).icount = (seqOf s n).icount ∧
      (seqOf t n).stores = (seqOf s n).stores ∧ OtherSeqs s t n ∧
      ((seqOf s n).th = false → (seqOf s n).tvec ≠ 0 → SameMemory s t))
    let gone (a : Word) : Prop := a.toNat ≥ 2 ^ 56 ∨ mapped s a.toNat = false
    let load (c : Instr) (a : Word) (size : Nat) : Prop :=
      (a.toNat % size ≠ 0 → traps c a 0x04) ∧
      (a.toNat % size = 0 → gone a → traps c a 0x05) ∧
      (a.toNat % size = 0 → ¬gone a → area a.toNat = .csr → size ≠ 8 → traps c a 0x0F)
    let store (c : Instr) (a : Word) (size : Nat) : Prop :=
      (a.toNat % size ≠ 0 → traps c a 0x04) ∧
      (a.toNat % size = 0 → gone a → traps c a 0x05) ∧
      (a.toNat % size = 0 → ¬gone a → protected_ s a.toNat = true → traps c a 0x10) ∧
      (a.toNat % size = 0 → ¬gone a → protected_ s a.toNat = false → area a.toNat = .csr → size ≠ 8 → traps c a 0x0F)
    let a := reg (seqOf s n) r2 + i.signExtend 64
    let ax := reg (seqOf s n) r2 + x.signExtend 64
    load (.lb n r1 r2 i) a 1 ∧ load (.lbu n r1 r2 i) a 1 ∧ load (.lh n r1 r2 i) a 2 ∧ load (.lhu n r1 r2 i) a 2 ∧
    load (.lw n r1 r2 i) a 4 ∧ load (.lwu n r1 r2 i) a 4 ∧ load (.ld n r1 r2 i) a 8 ∧
    store (.sb n r1 r2 i) a 1 ∧ store (.sh n r1 r2 i) a 2 ∧ store (.sw n r1 r2 i) a 4 ∧ store (.sd n r1 r2 i) a 8 ∧
    (PairFetched s n k → load (.ldx n r1 r2 x) ax 8 ∧ store (.sdx n r1 r2 x) ax 8) ∧
    ∀ f : BitVec 4, f = 0 ∨ f = 1 →
      let b := reg (seqOf s n) r2
      let size := if f = 1 then 8 else 4
      ∀ c ∈ [Instr.amoswap n r1 r2 r3 f r, .amoadd n r1 r2 r3 f r, .amoand n r1 r2 r3 f r, .amoor n r1 r2 r3 f r,
        .amoxor n r1 r2 r3 f r, .amomin n r1 r2 r3 f r, .amomax n r1 r2 r3 f r, .amominu n r1 r2 r3 f r,
        .amomaxu n r1 r2 r3 f r, .amocas n r1 r2 r3 f r],
        (b.toNat % size ≠ 0 → traps c b 0x04) ∧
        (b.toNat % size = 0 → gone b → traps c b 0x05) ∧
        (b.toNat % size = 0 → ¬gone b → inNode b.toNat = false → traps c b 0x06) ∧
        (b.toNat % size = 0 → ¬gone b → inNode b.toNat = true → protected_ s b.toNat = true → traps c b 0x10)

/-- Atomics of a Sequencer (R56, R57): where the address is aligned, in node memory, mapped and outside the code regions, the
instruction's earlier stores become visible, the read-modify-write is done near or far, and rd receives the old value; an
uncorrectable codeword raises MEMERR with the address, a second residue mismatch ARITH with the instruction's word.

The read-modify-write, near or far (R56, R57, R341): where memory is settled, the old value is what an observer reads at the
address, the new value is there afterwards, the old one where a CAS does not match, and every other byte is as before.

An atomic's new value (R56), at 32 and at 64 bits: the operation on the low bits of its operands. -/
def Obligations.Atomics : Prop :=
  (∀ (s : State) (n : Fin 64) (k : Nat) (rd rs1 rs2 : BitVec 6) (dbl : Bool) (z : Residue), FetchesFrom s n k →
    let f : BitVec 4 := if dbl then 1 else 0
    let a := reg (seqOf s n) rs1
    let amos (c : Instr) (code : Nat) (op : AmoOp) : Prop :=
      a.toNat % (if dbl then 8 else 4) = 0 → a.toNat < 2 ^ 56 → inNode a.toNat = true → mapped s a.toNat = true →
      protected_ s a.toNat = false →
        let u := addUser s n k
        let x := atomic (drain u n) (seqWho u n (code + f.toNat)) a.toNat op dbl (reg (seqOf s n) rs2)
          (reg (seqOf s n) rd) z
        (∀ old, x.1 = .done old → exec c s = .next (updSeq x.2 n (fun q => retire (setReg q rd old) 4))) ∧
        (x.1 = .memerr → Completes c s (fun t => (seqOf t n).tcause = 0x07 ∧ (seqOf t n).tval = a ∧
          (seqOf t n).g = (seqOf s n).g)) ∧
        (x.1 = .arith → Completes c s (fun t => (seqOf t n).tcause = 0x0E ∧ (seqOf t n).g = (seqOf s n).g))
    amos (.amoswap n rd rs1 rs2 f z) 0x1C00 .swap ∧ amos (.amoadd n rd rs1 rs2 f z) 0x1C10 .add ∧
    amos (.amoand n rd rs1 rs2 f z) 0x1C20 .and ∧ amos (.amoor n rd rs1 rs2 f z) 0x1C30 .or ∧
    amos (.amoxor n rd rs1 rs2 f z) 0x1C40 .xor ∧ amos (.amomin n rd rs1 rs2 f z) 0x1C50 .min ∧
    amos (.amomax n rd rs1 rs2 f z) 0x1C60 .max ∧ amos (.amominu n rd rs1 rs2 f z) 0x1C70 .minu ∧
    amos (.amomaxu n rd rs1 rs2 f z) 0x1C80 .maxu ∧ amos (.amocas n rd rs1 rs2 f z) 0x1C90 .cas) ∧
  (∀ (s : State) (n : Fin 64) (code a : Nat) (op : AmoOp) (dbl : Bool) (src cmp old : Word), Settled s → inNode a = true →
    let size := if dbl then 8 else 4
    a % size = 0 →
    let x := atomic s (seqWho s n code) a op dbl src cmp .ok
    let v := leNat (seenGet s a size)
    x.1 = .done old →
      old = (if dbl then BitVec.ofNat 64 v else (BitVec.ofNat 32 v).signExtend 64) ∧
      Stored s x.2 a (leBytes size (amoNew op (8 * size) v src.toNat cmp.toNat))) ∧
  (∀ (w : Nat) (old src cmp : BitVec w), (w = 32 ∨ w = 64) →
    let new (op : AmoOp) : Nat := amoNew op w old.toNat src.toNat cmp.toNat
    new .swap = src.toNat ∧ new .add = (old + src).toNat ∧ new .and = (old &&& src).toNat ∧
    new .or = (old ||| src).toNat ∧ new .xor = (old ^^^ src).toNat ∧
    new .min = (if old.toInt ≤ src.toInt then old else src).toNat ∧
    new .max = (if old.toInt ≤ src.toInt then src else old).toNat ∧
    new .minu = min old.toNat src.toNat ∧ new .maxu = max old.toNat src.toNat ∧
    new .cas = (if old = cmp then src else old).toNat)

/-- FENCE (R66): with no NB and no EC bit it retires at once, its earlier stores visible where SL is set; with NB or EC it
waits while a descriptor that the Sequencer issued (to an NBU queue, for NB) has not completed, and FENCE_DONE retires it
once they all have.

CFLUSH (R55): a line that neither cache of the Sequencer holds is left as it is and the instruction retires; a line its
data cache holds Modified reaches the tier and leaves the cache, and its directory entry becomes U; clean copies leave both
caches, memory and the other caches' copies standing, and the directory lists the caches no longer. T3 and CSR space raise
REGION, an unmapped address UNMAPPED. -/
def Obligations.FencesAndFlushes : Prop :=
  (∀ (s : State) (n : Fin 64) (k : Nat) (m : BitVec 8), m.toNat < 32 →
    let p := seqOf s n
    let open_ := (m.getLsbD 2 = true ∧ ∃ q e, (q, e) ∈ s.queues ∧ qClass q = 8 ∧ ∃ d ∈ e.entries, d.issuer = n.val ∧
        entryDone d = false) ∨
      (m.getLsbD 4 = true ∧ ∃ q e, (q, e) ∈ s.queues ∧ ∃ d ∈ e.entries, d.issuer = n.val ∧ entryDone d = false)
    (FetchesFrom s n k → ¬open_ → Completes (.fence n 0 0 0 m) s (fun t =>
      (seqOf t n).pc = p.pc + 4 ∧ (seqOf t n).icount = p.icount + 1 ∧ (seqOf t n).g = p.g ∧ (seqOf t n).wait = .idle ∧
      (seqOf t n).stores = (if m.getLsbD 0 then [] else p.stores) ∧ OtherSeqs s t n)) ∧
    (FetchesFrom s n k → open_ → Completes (.fence n 0 0 0 m) s (fun t =>
      (seqOf t n).pc = p.pc ∧ (seqOf t n).wait = .fence m.toNat ∧ (seqOf t n).icount = p.icount)) ∧
    (p.wait = .fence m.toNat → ¬open_ → Completes (.fenceDone n) s (fun t =>
      (seqOf t n).pc = p.pc + 4 ∧ (seqOf t n).wait = .idle ∧ (seqOf t n).g = p.g)) ∧
    (p.wait = .fence m.toNat → open_ → exec (.fenceDone n) s = .next s)) ∧
  (∀ (s : State) (n : Fin 64) (k : Nat) (rs1 : BitVec 6) (i : BitVec 14), FetchesFrom s n k → (seqOf s n).stores = [] →
    let a := reg (seqOf s n) rs1 + i.signExtend 64
    let line := a.toNat / 64
    let d := 2 * n.val + 1
    let e := 2 * n.val
    (a.toNat < 2 ^ 56 → mapped s a.toNat = true → inNode a.toNat = true →
      (cacheGet s d line = none → cacheGet s e line = none → exec (.cflush n 0 rs1 i) s = .next (retired s n k 0 0 4)) ∧
      (Quiet s → badUnits s d line = [] → cacheGet s e line = none → ∀ c : CLine, cacheGet s d line = some c →
        c.modified = true → c.data.length = 64 → Completes (.cflush n 0 rs1 i) s (fun t =>
          cacheGet t d line = none ∧ dirGet t line = none ∧
          (∀ j, j < 64 → byteAt t (line * 64 + j) = c.data.getD j 0) ∧
          (seqOf t n).pc = (seqOf s n).pc + 4 ∧ (seqOf t n).g = (seqOf s n).g)) ∧
      (∀ l, dirGet s line = some (.shared l) → (∀ g c, cacheGet s g line = some c → c.modified = false) →
        Completes (.cflush n 0 rs1 i) s (fun t =>
          cacheGet t d line = none ∧ cacheGet t e line = none ∧ SameMemory s t ∧
          (∀ g, g ≠ d → g ≠ e → cacheGet t g line = cacheGet s g line) ∧
          (∀ r, dirGet t line = some (.shared r) → (cacheGet s d line ≠ none → d ∉ r) ∧ (cacheGet s e line ≠ none → e ∉ r)) ∧
          (seqOf t n).pc = (seqOf s n).pc + 4 ∧ (seqOf t n).g = (seqOf s n).g))) ∧
    (mapped s a.toNat = true → (area a.toNat = .csr ∨ ∃ p g, area a.toNat = .t3 p g) → a.toNat < 2 ^ 56 →
      Completes (.cflush n 0 rs1 i) s (fun t => (seqOf t n).tcause = 0x06 ∧ (seqOf t n).tval = a)) ∧
    ((mapped s a.toNat = false ∨ a.toNat ≥ 2 ^ 56) → Completes (.cflush n 0 rs1 i) s (fun t =>
      (seqOf t n).tcause = 0x05 ∧ (seqOf t n).tval = a)))

/-- Event counters (R63 to R65). WAIT on a satisfied target writes 0; unsatisfied, it waits and its PC stays; with DL set and
WDL come, it writes 1. EVINC adds to a software counter and rd receives the value before; RDCTR reads. A number that names no
counter (for EVINC: no software counter) raises COUNTER_ID with rs1 as TVAL.

A WAIT in progress (R65) ends when its counter satisfies its target, with 0 in rd, and when its deadline has come, with 1,
or 0 where both hold at once; until then it goes on. -/
def Obligations.CountersAndWaits : Prop :=
  (∀ (s : State) (n : Fin 64) (k : Nat) (rd rs1 rs2 : BitVec 6), FetchesFrom s n k →
    let p := seqOf s n
    let c := reg p rs1
    let v := reg p rs2
    let met := ((ctrGet s c.toNat - v).toNat < 2 ^ 63)
    let due := p.wdl ≠ 0 ∧ p.wdl.toNat ≤ s.tb.time.toNat
    (c.toNat < 65536 → ctrExists c.toNat = true →
      (met → exec (.wait n rd rs1 rs2 0) s = .next (retired s n k rd 0 4) ∧
        exec (.wait n rd rs1 rs2 1) s = .next (retired s n k rd 0 4)) ∧
      (¬met → due → exec (.wait n rd rs1 rs2 1) s = .next (retired s n k rd 1 4)) ∧
      (¬met → ¬due → exec (.wait n rd rs1 rs2 1) s =
        .next (updSeq (addUser s n k) n (fun q => { q with wait := .counter rd c.toNat v true }))) ∧
      (¬met → exec (.wait n rd rs1 rs2 0) s =
        .next (updSeq (addUser s n k) n (fun q => { q with wait := .counter rd c.toNat v false }))) ∧
      exec (.rdctr n rd rs1 0 0) s = .next (retired s n k rd (ctrGet s c.toNat) 4)) ∧
    (0xFF00 ≤ c.toNat → c.toNat ≤ 0xFFFF → Completes (.evinc n rd rs1 rs2 0) s (fun t =>
      ctrGet t c.toNat = ctrGet s c.toNat + v ∧ seqOf t n = retire (setReg { p with stores := [] } rd (ctrGet s c.toNat)) 4 ∧
      OtherSeqs s t n ∧ (∀ j, 0xFF00 ≤ j → j ≤ 0xFFFF → j ≠ c.toNat → ctrGet t j = ctrGet s j))) ∧
    (let none_ (i : Instr) : Prop := Completes i s (fun t =>
        (seqOf t n).tcause = 0x0C ∧ (seqOf t n).tval = c ∧ (seqOf t n).tpc = p.pc ∧ (seqOf t n).g = p.g ∧
        (seqOf t n).stores = p.stores ∧ ∀ j, 0xFF00 ≤ j → ctrGet t j = ctrGet s j);
      (c.toNat ≥ 65536 ∨ ctrExists c.toNat = false →
        none_ (.wait n rd rs1 rs2 0) ∧ none_ (.wait n rd rs1 rs2 1) ∧ none_ (.rdctr n rd rs1 0 0)) ∧
      (c.toNat < 0xFF00 ∨ 0xFFFF < c.toNat → none_ (.evinc n rd rs1 rs2 0)))) ∧
  (∀ (s : State) (n : Fin 64) (rd : BitVec 6) (c : Nat) (v : Word) (dl : Bool), (seqOf s n).wait = .counter rd c v dl →
    let p := seqOf s n
    let met := ((ctrGet s c - v).toNat < 2 ^ 63)
    let due := dl = true ∧ p.wdl ≠ 0 ∧ p.wdl.toNat ≤ s.tb.time.toNat
    let done (x : Word) : Host.Outcome State Fault Refusal :=
      .next (updSeq s n (fun q => { setReg q rd x with wait := .idle, pc := q.pc + 4, icount := q.icount + 1 }))
    (met → exec (.waitSatisfied n) s = done 0) ∧ (¬met → exec (.waitSatisfied n) s = .next s) ∧
    (due → met → exec (.waitDeadline n) s = done 0) ∧ (due → ¬met → exec (.waitDeadline n) s = done 1) ∧
    (¬due → exec (.waitDeadline n) s = .next s))

/-- EISS whose words can be read (R60, R81): with a credit free and no request stalled ahead it pushes the words as one
descriptor, tagged with TENANT and its issuer, and rd receives the queue's issue count before it. A TRY never passes a
stalled request: where the credits reach beyond them, the stalled requests' descriptors enter the queue first, in the order
in which they stalled, then its own; where they do not, it writes all ones. Without TRY and without a credit or behind a
stalled request it stalls, with its PC unchanged and the queue as it was. MODEL'S CHOICE (log 35): the stall keeps the words
as they were read before it, where the spec leaves a descriptor rewritten meanwhile an unspecified mixture.

The causes of EISS in their order (R60, R69): QUEUE_ID, QUEUE_OFFLINE, DESC_ADDR, which words that leave T0 raise at any LEN
of 1 or more, DESC_LEN; the queue is left as it was.

EISS_CREDIT_GRANT (R81): the request that has stalled longest on the queue takes a freed credit; its descriptor is pushed,
its rd receives the issue count before it, and its Sequencer goes on. No credit, no grant. -/
def Obligations.EngineIssue : Prop :=
  (∀ (s : State) (n : Fin 64) (k : Nat) (rd rs1 rs2 : BitVec 6) (f : BitVec 2), FetchesFrom s n k →
    let u := addUser s n k
    let op := 0x2800 + f.toNat
    let a := (reg (seqOf s n) rs1).toNat
    let q := (reg (seqOf s n) rs2).toNat
    let h := seqLoad u n op a 8
    let len := hdrLen (bytesWord h.data)
    let r := loadWords h.s n op len a
    let w := if f.getLsbD 1 then drain r.2.2 n else r.2.2
    qExists q = true → unitOffline s (qClass q) (qUnit q) = false → a % 8 = 0 → inT0 a = true → h.ok = true →
    1 ≤ len → len ≤ 16 → inT0 (a + 8 * len - 1) = true → r.1 = true →
      let c : Instr := .eiss n rd rs1 rs2 (f.setWidth 8)
      let old := (queueOf w q).retired + BitVec.ofNat 64 (queueOf w q).entries.length
      (credits w q > 0 → (queueOf w q).stalled = [] → Completes c s (fun t =>
        (queueOf t q).entries = (queueOf w q).entries ++
          [{ words := r.2.1, tenant := (seqOf s n).tenant, issuer := n.val, st := .queued }] ∧
        reg (seqOf t n) rd = (if rd = 0 then 0 else old) ∧ OtherRegs s t n rd ∧ (seqOf t n).pc = (seqOf s n).pc + 4 ∧
        OtherSeqs s t n)) ∧
      (f.getLsbD 0 = true → credits w q > (queueOf w q).stalled.length → (queueOf w q).stalled.Nodup →
        ∀ (rds : Nat → BitVec 6) (x : Nat) (ws : Nat → List Word),
        (∀ m ∈ (queueOf w q).stalled, m < 64 ∧ (seqOf w (Fin.ofNat 64 m)).wait = .credit (rds m) x (ws m)) →
        Completes c s (fun t =>
          (queueOf t q).entries = (queueOf w q).entries ++
            (queueOf w q).stalled.map (fun m => 
              { words := ws m, tenant := (seqOf s (Fin.ofNat 64 m)).tenant, issuer := m, st := .queued }) ++
            [{ words := r.2.1, tenant := (seqOf s n).tenant, issuer := n.val, st := .queued }] ∧
          (queueOf t q).stalled = [] ∧
          reg (seqOf t n) rd = (if rd = 0 then 0 else old + BitVec.ofNat 64 (queueOf w q).stalled.length))) ∧
      (credits w q ≤ (queueOf w q).stalled.length → f.getLsbD 0 = true → Completes c s (fun t =>
        queueOf t q = queueOf w q ∧ reg (seqOf t n) rd = (if rd = 0 then 0 else BitVec.allOnes 64) ∧
        (seqOf t n).pc = (seqOf s n).pc + 4)) ∧
      (credits w q = 0 ∨ (queueOf w q).stalled ≠ [] → f.getLsbD 0 = false → Completes c s (fun t =>
        (queueOf t q).entries = (queueOf w q).entries ∧ (queueOf t q).stalled = (queueOf w q).stalled ++ [n.val] ∧
        (seqOf t n).pc = (seqOf s n).pc ∧ (seqOf t n).wait = .credit rd q r.2.1 ∧ (seqOf t n).g = (seqOf s n).g))) ∧
  (∀ (s : State) (n : Fin 64) (k : Nat) (rd rs1 rs2 : BitVec 6), FetchesFrom s n k →
    let av := reg (seqOf s n) rs1
    let qv := reg (seqOf s n) rs2
    let a := av.toNat
    let q := qv.toNat
    let h := seqLoad (addUser s n k) n 0x2800 a 8
    let traps (code : BitVec 8) (v : Word) : Prop := Completes (.eiss n rd rs1 rs2 0) s (fun t =>
      (seqOf t n).tcause = code ∧ (seqOf t n).tval = v ∧ (seqOf t n).tpc = (seqOf s n).pc ∧ (seqOf t n).g = (seqOf s n).g ∧
      t.queues = s.queues)
    (q ≥ 65536 ∨ qExists q = false → traps 0x08 qv) ∧
    (q < 65536 → qExists q = true → unitOffline s (qClass q) (qUnit q) = true → traps 0x09 qv) ∧
    (q < 65536 → qExists q = true → unitOffline s (qClass q) (qUnit q) = false → (a % 8 ≠ 0 ∨ inT0 a = false) →
      traps 0x0A av) ∧
    (q < 65536 → qExists q = true → unitOffline s (qClass q) (qUnit q) = false → a % 8 = 0 → inT0 a = true → h.ok = true →
      let len := hdrLen (bytesWord h.data)
      (len = 0 ∨ (len > 16 ∧ inT0 (a + 8 * len - 1) = true) → traps 0x0B (bytesWord h.data)) ∧
      (1 ≤ len → inT0 (a + 8 * len - 1) = false → traps 0x0A av))) ∧
  (∀ (s : State) (q : BitVec 16) (n : Fin 64) (rest : List Nat) (rd : BitVec 6) (x : Nat) (words : List Word),
    (queueOf s q.toNat).stalled = n.val :: rest → (seqOf s n).wait = .credit rd x words →
      (credits s q.toNat = 0 → exec (.eissCreditGrant q) s = .next s) ∧
      (credits s q.toNat > 0 → Completes (.eissCreditGrant q) s (fun t =>
        (queueOf t q.toNat).stalled = rest ∧
        (queueOf t q.toNat).entries = (queueOf s q.toNat).entries ++
          [{ words := words, tenant := (seqOf s n).tenant, issuer := n.val, st := .queued }] ∧
        (seqOf t n).wait = .idle ∧ (seqOf t n).pc = (seqOf s n).pc + 4 ∧
        reg (seqOf t n) rd = (if rd = 0 then 0 else
          (queueOf s q.toNat).retired + BitVec.ofNat 64 (queueOf s q.toNat).entries.length) ∧
        OtherRegs s t n rd ∧ OtherSeqs s t n ∧ SameMemory s t)))

/-- SEQ_CTL and SEQ_HANDOVER (R75, R76), written by whoever reaches the registers and has no store outstanding. START runs a
halted Sequencer from SEQ_ENTRY, TH cleared unless SEQ_ENTRY is where it halted; STOP halts it at its boundary with its own
address in SEQ_ENTRY, and wins over START, a FENCE that waits ending first, at whose end the Sequencer halts; a hand-over
request is accepted only for a later version whose entry lies in a valid region of that version, else HO_REFUSED is set; a
request that has outlived TMO_MS clears with HO_TIMEOUT. MODEL'S CHOICE (log 102): a request that is refused still writes
VERSION and TMO_MS. -/
def Obligations.SeqRegisters : Prop :=
  ∀ (s : State) (a : Acc) (n : Fin 64) (v : Word), accOk s a = true → accDrain s a = s →
    let q := seqOf s n
    let ver := v.extractLsb' 16 16
    let hver := v.extractLsb' 48 16
    (v.getLsbD 0 = true → v.getLsbD 1 = false → q.running = false → q.retired = false →
      exec (.seqStart a n v) s = .next (updSeq (updSeq s n (fun q => { q with startVer := ver })) n (fun q => { q with
        running := true, wait := .idle, pc := q.entry, progver := if ver = 0 then q.progver else ver,
        th := q.th && decide (q.entry = q.haltAddr) }))) ∧
    (v.getLsbD 1 = true → (∀ m, q.wait ≠ .fence m ∨ q.running = false) → Completes (.seqStop a n v) s (fun t =>
      (seqOf t n).running = false ∧ (seqOf t n).g = q.g ∧ (seqOf t n).startVer = ver ∧ OtherSeqs s t n ∧
      (q.running = true → (seqOf t n).entry = q.pc ∧ (seqOf t n).haltAddr = q.pc ∧ (seqOf t n).wait = .idle) ∧
      (q.running = false → (seqOf t n).entry = q.entry))) ∧
    (v.getLsbD 1 = true → q.running = true → ∀ m, q.wait = .fence m →
      exec (.seqStop a n v) s =
        .next (updSeq (updSeq s n (fun q => { q with startVer := ver })) n (fun q => { q with stopping := true }))) ∧
    (q.stopping = true → q.running = true → ∀ m, q.wait = .fence m → fenceReady s n m = true →
      Completes (.fenceDone n) s (fun t => (seqOf t n).running = false ∧ (seqOf t n).entry = q.pc + 4 ∧
        (seqOf t n).icount = q.icount + 1 ∧ (seqOf t n).g = q.g ∧ OtherSeqs s t n)) ∧
    (q.hoPending = true → v.getLsbD 0 = false → Completes (.seqHandoverWrite a n v) s (fun t =>
      seqOf t n = { q with hoPending := false } ∧ OtherSeqs s t n)) ∧
    (q.hoPending = true → v.getLsbD 0 = true → exec (.seqHandoverWrite a n v) s = .next s) ∧
    (q.hoPending = false → v.getLsbD 0 = true → Completes (.seqHandoverWrite a n v) s (fun t =>
      let ok := q.progver.toNat < hver.toNat ∧ ∃ k, fetchRegion s q.hoEntry.toNat = some k ∧
        (tget s.sec.regions {} k).version = hver
      (seqOf t n).hoVersion = hver ∧ (seqOf t n).hoTmo = v.extractLsb' 32 16 ∧ OtherSeqs s t n ∧
      (ok → (seqOf t n).hoPending = true ∧ (seqOf t n).sticky = q.sticky) ∧
      (¬ok → (seqOf t n).hoPending = false ∧ bitAt (seqOf t n).sticky 6 = true))) ∧
    (q.hoPending = true → q.hoTmo ≠ 0 → q.hoStart.toNat + q.hoTmo.toNat * 1000000 ≤ s.tb.time.toNat →
      Completes (.hoTimeout n) s (fun t => (seqOf t n).hoPending = false ∧ bitAt (seqOf t n).sticky 5 = true ∧
        (seqOf t n).progver = q.progver ∧ OtherSeqs s t n))

/-! ## Engine queues and engines -/

/-- DESC_AT_HEAD (R83, R84, R87, R94): the checks of steps 1 to 3 at the head of an enabled queue that is not HALTED, in
their order; where all pass, the descriptor is checked and its wait begins. A rejection leaves memory, the Sequencers and
every other queue as they were. -/
def Obligations.HeadChecks : Prop :=
  ∀ (s : State) (q : BitVec 16) (e : Entry),
    let k := q.toNat
    let x := queueOf s k
    let w := hdr e
    qExists k = true → bitAt x.ctl 0 = true → x.halted = false → x.checked = false → headEntry x = some e →
    x.entries.length < 2 ^ 64 → unitOffline s (qClass k) (qUnit k) = false →
      let rejects (code : Nat) : Prop := Completes (.descAtHead q) s (fun t =>
        Rejected s t k (headIndex x) code ∧ OtherQueues s t k ∧ t.seqs = s.seqs ∧ t.mem = s.mem)
      (shapeOf (qClass k) (hdrOp w) = none → rejects 0x01) ∧
      (∀ l, shapeOf (qClass k) (hdrOp w) = some l →
        let badLen := hdrLen w ≠ 1 + bit (hdrWT w) + l.length
        let reserved := fld w 31 24 ≠ 0 ∨ fld w 15 11 ≠ 0 ∨ fld w 7 5 ≠ 0 ∨ (hdrWT w = false ∧ hdrWaitCtr w ≠ 0) ∨
          (hdrSG w = false ∧ hdrSigCtr w ≠ 0) ∨ ∃ j, j < l.length ∧ bodyWord e j &&& l.getD j 0 ≠ 0
        let badWait := hdrWT w = true ∧ ¬(hdrWaitCtr w < 0x9000 ∧ qExists (hdrWaitCtr w) = true) ∧
          ¬(0xFF00 ≤ hdrWaitCtr w ∧ hdrWaitCtr w ≤ 0xFFFF)
        let badSig := hdrSG w = true ∧ ¬(0xFF00 ≤ hdrSigCtr w ∧ hdrSigCtr w ≤ 0xFFFF)
        (badLen → rejects 0x02) ∧ (¬badLen → reserved → rejects 0x03) ∧ (¬badLen → ¬reserved → badWait → rejects 0x0A) ∧
        (¬badLen → ¬reserved → ¬badWait → badSig → rejects 0x0B) ∧
        (¬badLen → ¬reserved → ¬badWait → ¬badSig → exec (.descAtHead q) s =
          .next (updQueue s k (fun x => { x with checked := true, waitStart := s.tb.time }))))

/-- WAIT_TIMEOUT (R101): a head whose wait has lasted WAIT_TMO_US µs is rejected, and Q_STATUS.WAIT_TIMEOUT is set; one whose
counter satisfies its target meanwhile is not.

DESC_RETIRE (R86, R87, R97): a finished descriptor of a class other than the NBU's retires with its code, one that was to
retire OK and whose flush of a host window failed with MEMERR (R261, R262). The retire
counter passes exactly the retired prefix, each passing increments the SIG_CTR of a descriptor with SG, an OK retirement
counts in Q_COMPLETED, and a failure is noted.

FLUSH and RESUME (R97, R98), by a physical function that reaches the registers: FLUSH cancels every descriptor not yet
dispatched, in queue order with code CANCELLED, and leaves those dispatched; it notes nothing in Q_REJECTS, and leaves a
HALTED queue HALTED unless RESUME is written too; RESUME alone ends HALTED. -/
def Obligations.QueueLife : Prop :=
  (∀ (s : State) (q : BitVec 16) (e : Entry),
    let k := q.toNat
    let x := queueOf s k
    let w := hdr e
    let tmo := fld x.ctl 47 32
    qExists k = true → bitAt x.ctl 0 = true → x.halted = false → x.checked = true → headEntry x = some e →
    x.entries.length < 2 ^ 64 → hdrWT w = true →
      let met := ((ctrGet s (hdrWaitCtr w) - targetWord e).toNat < 2 ^ 63)
      (met → exec (.waitTimeout q) s = .next s) ∧ (tmo = 0 → exec (.waitTimeout q) s = .next s) ∧
      (¬met → tmo ≠ 0 → x.waitStart.toNat + tmo * 1000 ≤ s.tb.time.toNat → Completes (.waitTimeout q) s (fun t =>
        Rejected s t k (headIndex x) 0x0D ∧ bitAt (queueOf t k).sticky 2 = true ∧ OtherQueues s t k ∧ t.seqs = s.seqs))) ∧
  (∀ (s : State) (q : BitVec 16) (i : Word) (e : Entry) (code : Nat),
    let k := q.toNat
    let x := queueOf s k
    qExists k = true → qClass k ≠ 8 → entryAt s k i = some e → e.st = .finished code → code < 0x100 → code ≠ 0x23 →
      let last := if code = 0 ∧ (t3Flush s k e).1 = false then 0x20 else code
      let es := lset x.entries (i - x.retired).toNat { e with st := .retired last }
      let passed := es.takeWhile entryDone
      Completes (.descRetire q i) s (fun t =>
        let y := queueOf t k
        y.entries = es.drop passed.length ∧ y.retired = x.retired + BitVec.ofNat 64 passed.length ∧
        (∀ c, 0xFF00 ≤ c → c ≤ 0xFFFF → ctrGet t c = ctrGet s c +
          BitVec.ofNat 64 (passed.countP (fun d => hdrSG (hdr d) && hdrSigCtr (hdr d) = c))) ∧
        (last = 0 → y.completed = x.completed + 1 ∧ y.rejects = x.rejects ∧ y.lastErr = x.lastErr) ∧
        (last ≠ 0 → Rejected s t k i last) ∧ OtherQueues s t k ∧ t.seqs = s.seqs ∧ t.mem = s.mem)) ∧
  (∀ (s : State) (p : HostPort) (q : BitVec 16) (v : Word), accOk s (.pf p) = true → qExists q.toNat = true →
    let x := queueOf s q.toNat
    (v.getLsbD 1 = true → x.entries.length < 2 ^ 64 → Completes (.flush (.pf p) q v) s (fun t =>
      let y := queueOf t q.toNat
      ((∀ e, x.entries.head? = some e → entryDone e = false) →
        let es := x.entries.map (fun e => if e.st = .queued then { e with st := .retired cCancelled } else e)
        let passed := es.takeWhile entryDone
        y.entries = es.drop passed.length ∧ y.retired = x.retired + BitVec.ofNat 64 passed.length) ∧
      (∀ e ∈ y.entries, e.st ≠ .queued) ∧ y.entries.filter inFlight = x.entries.filter inFlight ∧
      y.rejects = x.rejects ∧ y.lastErr = x.lastErr ∧ y.completed = x.completed ∧ y.sticky = x.sticky ∧
      y.halted = (x.halted && !v.getLsbD 3) ∧ OtherQueues s t q.toNat ∧ t.seqs = s.seqs ∧ t.mem = s.mem)) ∧
    (v.getLsbD 3 = true → v.getLsbD 1 = false → exec (.queueResume (.pf p) q v) s =
      .next (updQueue s q.toNat (fun x => { x with ctl := v &&& 0x0000FFFF00000F05#64, halted := false }))))

/-- DESC_DISPATCH (R91, R94): the head that the unit serves next runs where steps 4 to 10 pass, and keeps its words, tenant and
issuer; where a step fails the descriptor is rejected with the first failing step's code and nothing of it runs. A unit with
no execution slot free, a walk engine counting those of its stand-in too (R177), or no dispatchable head, dispatches
nothing.

Steps 4 to 10 of the table for every class (R94): the code of each step is that of the table, and the code of a rejection is
that of the first step that fails.

Steps 7 to 10 for a list of buffers (R94, R95): 7 fails where a buffer that is not empty has a base that is no multiple of
64; 8 where one does not lie in node memory, or in a window where the engine's chapter allows it, within one populated tier
and mapped throughout, not past 2^56; 9 where its items need more than its size; 10 where an output shares a byte with
another buffer.

The weighted round-robin (R91): a queue is served only with a dispatchable head, which is one that has been checked in an
enabled queue that is not HALTED, whose wait is satisfied, and before which, with ORD, every descriptor of the queue has
passed; none is served only where no queue of the unit has such a head. The queue in turn is served until its weight is used
up; then the next queue in cyclic order that has such a head, itself last. -/
def Obligations.Dispatch : Prop :=
  (∀ (s : State) (cls : BitVec 4) (unit : BitVec 10) (spare : Bool),
    let c := cls.toNat
    let u := unit.toNat
    u < unitCount c → serving s c u = some spare →
      (slotsTaken s c u spare ≥ slotLimit s c u → exec (.descDispatch cls unit) s = .next s) ∧
      (pickQueue s c u = none → exec (.descDispatch cls unit) s = .next s) ∧
      (∀ q e, slotsTaken s c u spare < slotLimit s c u → pickQueue s c u = some q → headEntry (queueOf s q) = some e →
        (queueOf s q).entries.length < 2 ^ 64 →
        let i := headIndex (queueOf s q)
        (firstFail (bodyChecks s c u (hdrOp (hdr e)) e) = none → Completes (.descDispatch cls unit) s (fun t =>
          (∃ w, entryAt t q i = some { e with st := .running w, onSpare := spare, since := s.tb.time, acc := if c = 7 then (fleOf s u).accepted else e.acc }) ∧
          OtherQueues s t q ∧
          (queueOf t q).retired = (queueOf s q).retired ∧ t.seqs = s.seqs ∧ t.mem = s.mem)) ∧
        (∀ code, 0 < code → code < 0x20 → firstFail (bodyChecks s c u (hdrOp (hdr e)) e) = some code →
          Completes (.descDispatch cls unit) s (fun t =>
            Rejected s t q i code ∧ OtherQueues s t q ∧ t.seqs = s.seqs ∧ t.mem = s.mem)))) ∧
  (∀ (s : State) (c u op : Nat) (e : Entry), c ≤ 8 →
    let l := bodyChecks s c u op e
    let table : List (Nat × Nat) := [(4, 0x0C), (5, 0x04), (6, 0x05), (7, 0x07), (8, 0x06), (9, 0x08), (10, 0x09)]
    (∀ x ∈ l, (x.1, x.2.2) ∈ table) ∧
    (firstFail l = none ↔ ∀ x ∈ l, x.2.1 = false) ∧
    (∀ code, firstFail l = some code ↔ ∃ k, (k, code) ∈ table ∧ (∃ x ∈ l, x.1 = k ∧ x.2.1 = true) ∧
      ∀ x ∈ l, x.2.1 = true → k ≤ x.1)) ∧
  (∀ (s : State) (t3 : Bool) (l : List Buf),
    let fails (k : Nat) : Prop := ∃ x ∈ bufChecks s t3 l, x.1 = k ∧ x.2.1 = true
    let placed (a n : Nat) : Prop := a + n ≤ 2 ^ 56 ∧ ∃ t, (∀ x, a ≤ x → x < a + n → tierOf x = some t ∧ mapped s x = true) ∧
      (t = 3 → (a < t3BaseB ↔ a + n ≤ t3BaseB))
    (fails 7 ↔ ∃ b ∈ l, b.size ≠ 0 ∧ b.base % 64 ≠ 0) ∧
    (fails 8 ↔ ∃ b ∈ l, b.size ≠ 0 ∧ ¬(placed b.base b.size ∧
      (inNode b.base = true ∨ (t3 = true ∧ tierOf b.base = some 3)))) ∧
    (fails 9 ↔ ∃ b ∈ l, b.size < b.need) ∧
    (fails 10 ↔ ∃ (i j : Nat) (b d : Buf), i < j ∧ l[i]? = some b ∧ l[j]? = some d ∧ (b.out = true ∨ d.out = true) ∧
      b.size ≠ 0 ∧ d.size ≠ 0 ∧ b.base < d.base + d.size ∧ d.base < b.base + b.size)) ∧
  (∀ (s : State) (c u : Nat), c ≤ 8 → u < unitCount c →
    let x := unitOf s c u
    let n := queueCount c
    let at_ (k : Nat) : Nat := mkQ c u ((x.turn + k) % n)
    let weight (q : Nat) : Nat := max 1 (fld (queueOf s q).ctl 11 8)
    (∀ q, headReady s q = true ↔ ∃ e, headEntry (queueOf s q) = some e ∧ bitAt (queueOf s q).ctl 0 = true ∧
      (queueOf s q).halted = false ∧ (queueOf s q).checked = true ∧
      (hdrWT (hdr e) = true → (ctrGet s (hdrWaitCtr (hdr e)) - targetWord e).toNat < 2 ^ 63) ∧
      (hdrORD (hdr e) = true → (queueOf s q).entries.head? = some e ∧ e.st = .queued)) ∧
    (pickQueue s c u = none ↔ ∀ k < n, headReady s (mkQ c u k) = false) ∧
    (headReady s (at_ 0) = true → x.served < weight (at_ 0) → pickQueue s c u = some (at_ 0)) ∧
    (¬(headReady s (at_ 0) = true ∧ x.served < weight (at_ 0)) → ∀ q, pickQueue s c u = some q ↔
      ∃ k, 1 ≤ k ∧ k ≤ n ∧ q = at_ k ∧ headReady s q = true ∧ ∀ j, 1 ≤ j → j < k → headReady s (at_ j) = false))

/-- UNIT_LOSS (R99, R456, R458): the unit is retired, and its dispatched descriptors with UNIT_LOST. With no spare free its
queues are offline, the node is degraded and no descriptor is left queued; with a spare free the spare serves its number for
good, though it dispatches nothing before its tests (R418), and what was queued stays queued, in order; a stand-in that
serves it takes its number and runs on. A unit already retired is left as it is. The loss of a stand-in retires what was
dispatched on it, and what was queued goes back to the unit. -/
def Obligations.UnitLoss : Prop :=
  ∀ (s : State) (cls : BitVec 4) (unit : BitVec 10),
    let c := cls.toNat
    let u := unit.toNat
    c ≤ 8 → QueuesBounded s →
      let lost (t : State) (v : Nat) (spare : Bool) : Prop := ∀ q ∈ unitQueues c v,
        (∀ e ∈ (queueOf t q).entries, ∀ w, e.st = .running w → e.onSpare = !spare) ∧
        (c ≠ 8 → (∃ e ∈ (queueOf s q).entries, e.onSpare = spare ∧ ∃ w, e.st = .running w) →
          (queueOf t q).lastErr.extractLsb' 0 8 = 0x24 ∧ bitAt (queueOf t q).sticky 1 = true ∧
          (queueOf t q).halted = ((queueOf s q).halted || bitAt (queueOf s q).ctl 2))
      let waits (t : State) (v : Nat) : Prop := ∀ q ∈ unitQueues c v,
        (queueOf t q).entries.filter (fun e => e.st = .queued) = (queueOf s q).entries.filter (fun e => e.st = .queued)
      (u < unitCount c →
        ((unitOf s c u).mode = .retired → exec (.unitLoss cls unit) s = .next s) ∧
        ((unitOf s c u).mode ≠ .retired → (unitOf s c u).spare = .none → freeSpare s c = none →
          Completes (.unitLoss cls unit) s (fun t =>
            (unitOf t c u).mode = .retired ∧ unitOffline t c u = true ∧ t.boot.degraded = true ∧ lost t u false ∧
            ∀ q ∈ unitQueues c u, ∀ e ∈ (queueOf t q).entries, e.st ≠ .queued)) ∧
        (∀ k, (unitOf s c u).mode ≠ .retired → (unitOf s c u).spare = .none → freeSpare s c = some k →
          Completes (.unitLoss cls unit) s (fun t =>
            (unitOf t c u).mode = .retired ∧ (unitOf t c u).spare = .mapped k ∧ (unitOf t c u).fresh = true ∧
            exec (.descDispatch cls unit) t = .next t ∧ lost t u false ∧ waits t u)) ∧
        (∀ k, (unitOf s c u).mode ≠ .retired → (unitOf s c u).spare = .standIn k →
          Completes (.unitLoss cls unit) s (fun t =>
            (unitOf t c u).mode = .retired ∧ (unitOf t c u).spare = .mapped k ∧ (unitOf t c u).fresh = false ∧
            t.boot.degraded = s.boot.degraded ∧ serving t c u = some true ∧ lost t u false ∧ waits t u))) ∧
      (∀ k v, k < spareCount c → u = unitCount c + k → spareLost s c k = false → spareOf s c k = some v →
        (unitOf s c v).mode ≠ .retired → Completes (.unitLoss cls unit) s (fun t =>
          (unitOf t c v).mode = (unitOf s c v).mode ∧ (unitOf t c v).spare = .none ∧ spareLost t c k = true ∧
          lost t v true ∧ waits t v))

/-- A dispatched descriptor of an engine does its work in one command (R96, R115, R134 to R142, R180 to R185, R226, R254, R272
to R280, R288 to R298): it ends OK, or with MEMERR or ARITH, and waits to retire; no other descriptor, no other queue and no
Sequencer changes, but that a move over weights in use marks the descriptors that use them (R143). The NBU's three bank
commands run once the NBU holds its banks.

A count of 0 (R95): a descriptor with nothing to do ends OK at once, and changes nothing else.

Residue checking of a descriptor (R404, R406): where a CONVERT's source can be read, a second mismatch fails it with ARITH,
and both mismatches are counted; a first mismatch is counted and the conversion ends as it would have. That DST is not
written after the second is the MODEL'S CHOICE (log 70): the spec does not say it. -/
def Obligations.EngineWork : Prop :=
  (∀ (s : State) (q : BitVec 16) (i : Word) (e : Entry) (mon : Word) (r : List Residue),
    let does (cls op : Nat) (c : Instr) : Prop := Runs s q.toNat i cls op e (.plain mon) →
      Completes c s (fun t => Ended t q.toNat i e ∧ OnlyEntry s t q.toNat i)
    does 0 1 (.matmul q i r) ∧ does 0 2 (.matmulQa q i r) ∧ does 0 3 (.attention q i r) ∧ does 1 1 (.dist q i r) ∧
    does 1 2 (.qbuild q i r) ∧ does 3 1 (.topk q i r) ∧ does 4 1 (.gather q i r) ∧ does 4 2 (.scatter q i r) ∧
    does 5 1 (.convert q i r) ∧ does 5 2 (.quantize q i r) ∧ does 5 3 (.rotate q i r) ∧ does 5 4 (.smooth q i r) ∧
    (Runs s q.toNat i 6 1 e (.plain mon) → Completes (.move q i) s (fun t =>
      Ended t q.toNat i e ∧ OnlyEntryAndMarks s t q.toNat i)) ∧
    (Runs s q.toNat i 6 2 e (.plain mon) → Completes (.movel q i) s (fun t =>
      Ended t q.toNat i e ∧ OnlyEntryAndMarks s t q.toNat i)) ∧
    does 8 1 (.loadx q i) ∧
    (nbuReady s (qUnit q.toNat) = true → does 8 2 (.gemv q i r) ∧ does 8 3 (.attn q i r) ∧ does 8 4 (.scan q i r))) ∧
  (∀ (s : State) (q : BitVec 16) (i : Word) (e : Entry) (mon : Word) (r : List Residue),
    let k := q.toNat
    let none_ (cls op : Nat) (p : Prop) (c : Instr) : Prop :=
      Runs s k i cls op e (.plain mon) → p → exec c s = .next (finish s k i 0)
    none_ 0 1 ((matD e).m = 0) (.matmul q i r) ∧ none_ 0 2 ((matD e).m = 0) (.matmulQa q i r) ∧
    none_ 0 3 ((attD e).sq = 0) (.attention q i r) ∧ none_ 1 1 ((distD e).count = 0) (.dist q i r) ∧
    none_ 4 1 ((gatherD e).nidx = 0 ∨ outRows (gatherD e) = 0) (.gather q i r) ∧
    none_ 4 2 ((scatterD e).nidx = 0) (.scatter q i r) ∧
    none_ 5 1 ((qteD e).rows = 0) (.convert q i r) ∧ none_ 5 2 ((qteD e).rows = 0) (.quantize q i r) ∧
    none_ 5 3 ((qteD e).rows = 0) (.rotate q i r) ∧ none_ 5 4 ((qteD e).rows = 0) (.smooth q i r) ∧
    none_ 6 1 (∀ x ∈ (moveD e).exts, x.size = 0) (.move q i) ∧ none_ 6 2 ((moveD e).next = 0) (.movel q i) ∧
    none_ 8 1 (fld (bodyWord e 1) 39 0 = 0) (.loadx q i) ∧ none_ 8 4 ((scanD e).rows = 0) (.scan q i r)) ∧
  (∀ (s : State) (q : BitVec 16) (i : Word) (e : Entry) (mon : Word) (y z : BitVec 18),
    let d := qteD e
    let a := nodeRead s (descWho q.toNat e) d.src (d.rows * rowBytes d.srcF d.cols)
    Runs s q.toNat i 5 1 e (.plain mon) → d.rows ≠ 0 → d.sblk = 0 → a.ok = true →
      Completes (.convert q i [.second y z]) s (fun t =>
        Finished t q.toNat i e cArith ∧ tget t.ctrs 0 0x9022 = tget a.s.ctrs 0 0x9022 + 1 ∧
        tget t.ctrs 0 0x9023 = tget a.s.ctrs 0 0x9023 + 1 ∧ bitAt t.err.sticky 2 = true ∧
        (logOn a.s = false → t.mem = a.s.mem ∧ t.caches = a.s.caches)) ∧
      Completes (.convert q i [.first y]) s (fun t =>
        (Finished t q.toNat i e 0 ∨ Finished t q.toNat i e cMemerr) ∧ bitAt t.err.sticky 1 = true))

/-- Where an engine writes. Over settled memory, with the log off (whose records would be written too), a descriptor that passes
the checks of its dispatch changes no byte that an observer reads outside the extents of its results (`outExts`): D and its
report for the matrix engines, O and PT, DIST's OUT, QBLK, TOPK's OUT and SPILL, GATHER's OUT, record and riser slots,
SCATTER's rows, slots, stamps and record, DST, its scales and report, the destinations of a move and its record. LOADX and
the NBU's three bank commands write no memory yet: the units of OUT that broadcast commands write later all lie in OUT.

What a quantize/transform engine writes (R111 to R122): where a descriptor that passed its checks ends OK over settled
memory, row `n` of DST is the row of SRC, its scales applied where SDIR puts them there, transformed as the opcode says and
converted to DST_FMT; and where the engine computes scales, those of the row stand at SCALE. -/
def Obligations.EngineOutputs : Prop :=
  (∀ (s : State) (q : BitVec 16) (i : Word) (e : Entry) (mon : Word) (r : List Residue),
    let k := q.toNat
    let can (cls op : Nat) : Prop := Runs s k i cls op e (.plain mon) ∧
      firstFail (bodyChecks s cls (qUnit k) op e) = none ∧ logOn s = false
    let only (cls op : Nat) (c : Instr) : Prop := Settled s → can cls op →
      Completes c s (fun t => OnlyIn s t (outExts s k i e))
    let bank (op : Nat) (c : Instr) : Prop := Settled { s with foot := [] } → can 8 op → (∀ f ∈ s.foot, f.pend = []) →
      Completes c s (fun t => SameMemory s t ∧ ∀ f ∈ t.foot, ∀ u ∈ f.pend, f.q = k ∧ f.i = i ∧
        ∃ x ∈ outExts s k i e, x.1 ≤ chanAddr (qUnit k) u.1 ∧ chanAddr (qUnit k) u.1 + u.2.length ≤ x.1 + x.2)
    only 0 1 (.matmul q i r) ∧ only 0 2 (.matmulQa q i r) ∧ only 0 3 (.attention q i r) ∧ only 1 1 (.dist q i r) ∧
    only 1 2 (.qbuild q i r) ∧ only 3 1 (.topk q i r) ∧ (inNode (gatherD e).idx = true → only 4 1 (.gather q i r)) ∧
    ((∀ x ∈ s.gte.torn, ¬(x.1 = k ∧ x.2.1 = i)) → only 4 2 (.scatter q i r)) ∧
    only 5 1 (.convert q i r) ∧ only 5 2 (.quantize q i r) ∧ only 5 3 (.rotate q i r) ∧ only 5 4 (.smooth q i r) ∧
    only 6 1 (.move q i) ∧ only 6 2 (.movel q i) ∧ only 8 1 (.loadx q i) ∧
    bank 2 (.gemv q i r) ∧ bank 3 (.attn q i r) ∧ bank 4 (.scan q i r)) ∧
  (∀ (s : State) (q : BitVec 16) (i : Word) (e : Entry) (mon : Word) (r : List Residue),
    let k := q.toNat
    let d := qteD e
    let rb := rowBytes d.srcF d.cols
    let db := rowBytes d.dstF d.cols
    let ns := rowScales d.cols (blockLen d.sblk)
    let gives (op : Nat) (c : Instr) : Prop :=
      let scales (n : Nat) := if d.sblk ≠ 0 ∧ qteWritesScale op d = false then seenGet s (d.scale + n * ns) ns else []
      let aux := seenGet s d.aux (if op = 3 then 2 ^ d.log2b / 8 else if op = 4 then 4 * d.cols else 0)
      let row (n : Nat) := convertRow op d (scales n)
        (transformRow op d aux (srcRow d (seenGet s (d.src + n * rb) rb) (scales n)))
      Settled s → logOn s = false → Runs s k i 5 op e (.plain mon) → d.rows ≠ 0 →
      firstFail (bodyChecks s 5 (qUnit k) op e) = none → Completes c s (fun t => Finished t k i e 0 →
        ∀ n, n < d.rows → seenGet t (d.dst + n * db) db = packRow d.dstF ((row n).1.map (·.bits)) ∧
          (qteWritesScale op d = true → seenGet t (d.scale + n * ns) ns = (row n).2))
    gives 1 (.convert q i r) ∧ gives 2 (.quantize q i r) ∧ gives 3 (.rotate q i r) ∧ gives 4 (.smooth q i r))

/-- A MOVE of one extent between buffers that the Ladle can read and write, with no deadline and no record (R254, R255): the
bytes read at SRC are the bytes written at DST, by the same access that the Ladle makes, and the descriptor ends OK.

The deadline of a running move (R256): with ONLATE at 1 the descriptor ends OK, or with MEMERR where memory fails it, and
LATE and ABANDONED are noted; with ONLATE at 0 it is noted late and runs on. Before its deadline nothing happens. -/
def Obligations.Moves : Prop :=
  (∀ (s : State) (q : BitVec 16) (i : Word) (e : Entry) (mon : Word) (x : Extent),
    let d := moveD e
    let w := descWho q.toNat e
    let s1 := tick1 (spoilWeights s [x])
    let r := anyRead s1 w x.src x.size
    Runs s q.toNat i 6 1 e (.plain mon) → d.exts.filter (fun x => x.size != 0) = [x] → x.src ≠ x.dst → d.deadline = 0 →
    d.stat = 0 → waitsMode s1 x.src x.size = false → waitsMode s1 x.dst x.size = false → r.ok = true →
      let y := anyWrite (workTally r.s 6 w.tenant (x.size / 64)) w x.dst r.data
      (y.1 = true → exec (.move q i) s = .next (finish y.2 q.toNat i 0)) ∧
      (y.1 = false → exec (.move q i) s = .next (finish y.2 q.toNat i 0x20))) ∧
  (∀ (s : State) (q : BitVec 16) (i : Word) (e : Entry) (mon : Word) (done started : Nat),
    let d := moveD e
    let k := q.toNat
    Runs s k i 6 1 e (.plain mon) → moveEmpty 1 d = false →
      let n := (d.exts.filter (fun x => x.size != 0)).length
      ((d.deadline = 0 ∨ s.tb.time.toNat < d.deadline) → exec (.ladleDeadline q i done started) s = .next s) ∧
      (d.deadline ≠ 0 → d.deadline ≤ s.tb.time.toNat → d.onlate = 0 → Completes (.ladleDeadline q i done started) s (fun t =>
        entryAt t k i = some e ∧ bitAt (tget t.ldl 0 (qUnit k)) 0 = true ∧ t.mem = s.mem ∧ t.queues = s.queues)) ∧
      (d.deadline ≠ 0 → d.deadline ≤ s.tb.time.toNat → d.onlate ≠ 0 → done < n → done ≤ started → started ≤ n →
        Completes (.ladleDeadline q i done started) s (fun t =>
          (Finished t k i e 0 ∧ bitAt (tget t.ldl 0 (qUnit k)) 0 = true ∧ bitAt (tget t.ldl 0 (qUnit k)) 1 = true ∨
            Finished t k i e cMemerr) ∧ OnlyEntryAndMarks s t k i)))

/-- Walks (R165 to R172): a WALK either goes on in its walker context, with no hops yet, or ends; a level-0 step expands at
least one and at most 2^WIDTH entries, never passes MAX_HOPS, only adds to the visited slots, and keeps the beam and the
results within their sizes; at its deadline the walk ends and DEADLINE is noted. -/
def Obligations.WalkSteps : Prop :=
  ∀ (s : State) (q : BitVec 16) (i : Word) (e : Entry) (mon : Word) (c : WalkCtx) (r : List Residue),
    let d := walkD e
    let k := q.toNat
    (Runs s k i 2 1 e (.plain mon) → Completes (.walk q i r) s (fun t =>
      ((∃ c', RunsOn t k i e (.walk c') ∧ c'.hops = 0 ∧ c'.beam.length ≤ d.beam ∧ c'.results.length ≤ d.nout) ∨
        Ended t k i e) ∧ OnlyEntry s t k i)) ∧
    (Runs s k i 2 1 e (.walk c) → c.beam.length ≤ d.beam → c.results.length ≤ d.nout → Completes (.walkStep q i r) s (fun t =>
      ((∃ c', RunsOn t k i e (.walk c') ∧ c.hops < c'.hops ∧ c'.hops ≤ c.hops + 2 ^ d.width ∧
          (d.maxHops ≠ 0 → c'.hops ≤ d.maxHops) ∧ c.visited <+: c'.visited ∧ c'.beam.length ≤ d.beam ∧
          c'.results.length ≤ d.nout) ∨ Ended t k i e) ∧ OnlyEntry s t k i ∧
      (d.deadline ≠ 0 → d.deadline ≤ s.tb.time.toNat →
        (Finished t k i e 0 ∨ Finished t k i e cMemerr) ∧ bitAt (tget t.gwe {} (qUnit k)).status 3 = true)))

/-- Reranks (R188 to R192). RERANK considers at most NRR entries. A read ends when no earlier read waits at its dies (R329);
till then nothing happens. Data in time give their entry its distance and clear CODE; a distance whose second residue
mismatches fails the descriptor with ARITH and abandons its other reads. A read that fails, or whose data comes late, makes
its entry fall back with its cause; data of an abandoned read is dropped, gives its place back and is counted, saturating.
At the deadline every entry that waits falls back with LATE, and the reads outstanding stay as abandoned. Once every entry
is resolved the output ends the descriptor; before, there is none. -/
def Obligations.RerankEntries : Prop :=
  ∀ (s : State) (q : BitVec 16) (i : Word) (e : Entry) (mon : Word) (c : RerankCtx) (k : Nat) (x : RerankEntry) (r : List Residue),
    let n := q.toNat
    let u := qUnit n
    let d := rrD e
    QueuesBounded s →
    (Runs s n i 1 3 e (.plain mon) → Completes (.rerank q i) s (fun t =>
      ((∃ c', RunsOn t n i e (.rerank c') ∧ c'.entries.length ≤ d.nrr) ∨ Ended t n i e) ∧ t.seqs = s.seqs)) ∧
    (readHeld s n i k = true → exec (.rerankReadData q i k r) s = .next s ∧ exec (.rerankReadError q i k) s = .next s) ∧
    (Runs s n i 1 3 e (.rerank c) → c.entries[k]? = some x → x.st = .outstanding → isAbandoned s n i k = false →
      readHeld s n i k = false →
      let cause := if d.deadline ≠ 0 ∧ d.deadline ≤ s.tb.time.toNat then fLate else fRderr
      Completes (.rerankReadError q i k) s (fun t => ∃ c', RunsOn t n i e (.rerank c') ∧
        c'.entries[k]? = some { x with flags := x.flags ||| fFallback ||| cause, st := .resolved } ∧
        c'.entries.length = c.entries.length)) ∧
    (Runs s n i 1 3 e (.rerank c) → c.entries[k]? = some x → x.st = .outstanding → isAbandoned s n i k = false →
      readHeld s n i k = false → (d.deadline = 0 ∨ s.tb.time.toNat < d.deadline) →
      let p := dparamOf c.dparam
      let place := recordPlace p (vidSlot x.vid)
      unitOffline s 7 place.1 = false → ∀ data, fleData (fleOf s place.1) p.lbs place.2 (recSize p) = some data →
        let dist := f32 (fullDist s.choice p.metric ((List.range p.dims).map (f32At c.qvec))
          ((rowElems p.vfmt p.dims data).map (decodeNum p.vfmt)))
        let scored (t : State) (v : BitVec 32) : Prop := ∃ c', RunsOn t n i e (.rerank c') ∧
          c'.entries.length = c.entries.length ∧
          c'.entries[k]? = some { x with score := v, flags := x.flags &&& 0xFFFE, st := .resolved }
        Completes (.rerankReadData q i k []) s (fun t => scored t dist ∧ (ChannelsQuiet s → t.mem = s.mem) ∧ t.seqs = s.seqs) ∧
        (∀ y, Completes (.rerankReadData q i k [.first y]) s (fun t => (∃ v, scored t v) ∧ t.seqs = s.seqs ∧
          bitAt (dseOf t u).status 3 = true)) ∧
        (∀ y z, Completes (.rerankReadData q i k [.second y z]) s (fun t => Finished t n i e cArith ∧ t.seqs = s.seqs ∧
          (∀ j v, c.entries[j]? = some v → j ≠ k → v.st = .outstanding → isAbandoned t n i j = true)))) ∧
    (Runs s n i 1 3 e (.rerank c) → c.entries[k]? = some x → x.st = .outstanding → isAbandoned s n i k = false →
      readHeld s n i k = false → d.deadline ≠ 0 → d.deadline ≤ s.tb.time.toNat →
      Completes (.rerankReadData q i k r) s (fun t =>
        (∃ c', RunsOn t n i e (.rerank c') ∧
          c'.entries[k]? = some { x with flags := x.flags ||| fFallback ||| fLate, st := .resolved }) ∧
        (dseOf t u).lateData = min 65535 ((dseOf s u).lateData + 1) ∧ bitAt (dseOf t u).status 2 = true)) ∧
    (isAbandoned s n i k = true → readHeld s n i k = false → Completes (.rerankReadData q i k r) s (fun t =>
      isAbandoned t n i k = false ∧ (dseOf t u).lateData = min 65535 ((dseOf s u).lateData + 1) ∧
      (ChannelsQuiet s → t.mem = s.mem) ∧ t.seqs = s.seqs)) ∧
    (Runs s n i 1 3 e (.rerank c) → d.deadline ≠ 0 → d.deadline ≤ s.tb.time.toNat → allResolved c = false →
      Completes (.rerankDeadline q i) s (fun t => (∃ c', RunsOn t n i e (.rerank c') ∧ allResolved c' = true ∧
          ∀ j y, c.entries[j]? = some y → y.st = .outstanding →
            c'.entries[j]? = some { y with flags := y.flags ||| fFallback ||| fLate, st := .abandoned } ∧
            isAbandoned t n i j = true) ∧ bitAt (dseOf t u).status 2 = true)) ∧
    (Runs s n i 1 3 e (.rerank c) → allResolved c = true → Completes (.rerankOutput q i) s (fun t =>
      (Finished t n i e 0 ∨ Finished t n i e cMemerr) ∧ OnlyEntry s t n i)) ∧
    (Runs s n i 1 3 e (.rerank c) → allResolved c = false → exec (.rerankOutput q i) s = .next s)

/-! ## Memory: tiers, channels, flash, coherence -/

/-- The commit unit (R196, R197, R199, R218, R219). TAIL and ring writes that do not fit are ignored with RING_ERR; the horizon
only rises and never passes COMMIT_SEQ. A batch below TAIL is consumed whole: HEAD and UPD_DONE pass its records, and
COMMIT_SEQ advances by one where it is applied and not at all otherwise; as it reaches 2^48 - 2 SEQ_EXHAUSTED is set, and
from then on no batch is applied. Disabled, or with no whole batch, the unit does nothing.

What an update record does (R201, R205, R206, R209), the first of its batch, over settled memory. NOP writes nothing. INSERT
writes the entry at TAIL, with the code, and TAIL + 1. DELETE of a LIVE slot makes it TOMB with a new recent-change entry,
and stamps the Sprue entry of its live merge; of a TOMB slot it changes nothing, of a FREE one it stamps the named entry.
MERGE makes the slot LIVE at its level, with a merge entry, and stamps the Sprue entry. FREE clears the state byte and
raises the generation. VERSION moves CURRENT into the slot.

The codes of update records (R202), in the order of the table, over settled memory without a bad codeword: BAD_OP and
RESERVED_SET first; a context without a version slot is BAD_CTX, a slot beyond the root's BAD_SLOT; then BAD_GEN, BAD_STATE,
SPRUE_FULL and EDGES. A Sprue entry that cannot be located is BAD_CTX, before those.

A batch of one record (R200, R202, R203), over settled memory with the log off. Refused, it writes nothing but its code and
a SEQ of 0 into its record, and COMMIT_SEQ stays. Applied, its writes stand in the order of the rule, COMMIT_SEQ is one
higher, and its record holds its code and that sequence; every other byte is as it was, but HEAD and HZN of the head records
where a RES_SEQ was written. -/
def Obligations.CommitUnit : Prop :=
  (∀ (s : State) (p : HostPort) (v : Word), accOk s (.pf p) = true →
    let c := s.cu
    let seq := ctrGet s 0x9010
    let size := 2 ^ (c.ctl.extractLsb' 60 4).toNat
    let t16 := v.extractLsb' 0 16
    let h := v.extractLsb' 0 48
    ((t16 - c.head).toNat > size → exec (.gweUpdTailWrite (.pf p) v) s = .next { s with cu := { c with sticky := c.sticky ||| 4 } }) ∧
    ((t16 - c.head).toNat ≤ size → exec (.gweUpdTailWrite (.pf p) v) s = .next { s with cu := { c with tail := t16 } }) ∧
    ((h.toNat < c.horizon.toNat ∨ seq.toNat < h.toNat) →
      exec (.gweHorizonWrite (.pf p) v) s = .next { s with cu := { c with sticky := c.sticky ||| 8 } }) ∧
    (c.horizon.toNat ≤ h.toNat → h.toNat ≤ seq.toNat → Completes (.gweHorizonWrite (.pf p) v) s (fun t =>
      t.cu = { c with horizon := h } ∧ t.seqs = s.seqs ∧ t.queues = s.queues ∧ ctrGet t 0x9010 = seq)) ∧
    (c.ctl.getLsbD 0 = false → c.tail = c.head → v.getLsbD 0 = false → exec (.gweUpdCtlWrite (.pf p) v) s =
      .next { s with cu := { c with ctl := v &&& 0xF0FFFFFFFFFFFFC1#64 } }) ∧
    (c.ctl.getLsbD 0 = true → (v &&& 0xF0FFFFFFFFFFFFC0#64) ≠ (c.ctl &&& 0xFFFFFFFFFFFFFFFE#64) →
      exec (.gweUpdCtlWrite (.pf p) v) s = .next { s with cu := { c with sticky := c.sticky ||| 4 } }) ∧
    ((c.ctl.getLsbD 0 = false ∨ c.tail = c.head) → exec .updBatch s = .next s) ∧
    (∀ recs s1, c.ctl.getLsbD 0 = true → c.tail ≠ c.head →
      batchRecs 64 (c.tail - c.head).toNat s c.head.toNat = some (recs, s1) → Completes .updBatch s (fun t =>
        t.cu.head = c.head + BitVec.ofNat 16 recs.length ∧ recs.length ≤ 64 ∧ t.cu.tail = c.tail ∧ t.cu.ctl = c.ctl ∧
        ctrGet t 0x9011 = ctrGet s 0x9011 + BitVec.ofNat 64 recs.length ∧
        (ctrGet t 0x9010 = seq ∨ ctrGet t 0x9010 = seq + 1) ∧
        (2 ^ 48 - 2 ≤ seq.toNat → ctrGet t 0x9010 = seq ∧ bitAt t.cu.sticky 5 = true ∧ bitAt t.cu.sticky 4 = true) ∧
        (seq.toNat = 2 ^ 48 - 3 → ctrGet t 0x9010 = seq + 1 → bitAt t.cu.sticky 5 = true) ∧
        t.seqs = s.seqs ∧ t.queues = s.queues))) ∧
  (∀ (s : State) (w : List Word) (q : Nat) (d : Done) (y : Batch), Settled s → cuRecord { s := s } w q = .ok d y →
    let op := fld (w.getD 0 0) 63 56
    let slot := fld (w.getD 2 0) 31 0
    let gen := fld (w.getD 2 0) 39 32
    let z := ctxOf s (fld (w.getD 0 0) 55 52)
    let word (a : Nat) := bytesWord (seenGet s a 8)
    let cur := fld (word z.vaddr) 55 0
    let root := rootOf (bytesWords (seenGet s cur 64))
    let p := dparamOf (seenGet s root.dparam 64)
    let h := headOf (seenGet s z.haddr 64)
    let sa := root.state + slot
    let ga := root.gen + slot
    let sb := (byteAt s sa).toNat
    let gb := (byteAt s ga).toNat
    let at_ := wordBytes (put q 0)
    let b := bucketAddr root.rct (blog2Of (word root.rct)) slot
    let rct (k : Nat) := rctOf (seenGet s (b + 16 * k) 16)
    let enters (new : List Byte) (rest : List (Nat × Nat × List Byte)) : Prop :=
      ∃ k, k < 4 ∧ rctLive s (rct k) = false ∧ y.w = (2, b, splice (seenGet s b 64) (16 * k) new) :: rest
    (op = 5 → d = { code := 0 } ∧ y.w = []) ∧
    (op = 1 → sb % 4 = 0 ∧ gb = gen ∧ h.tail - h.head < h.cap ∧ d = { code := 0, idx := some (h.tail % h.cap) } ∧
      y.w = [(1, t2Base + leNat (seenGet s (h.chlist + 2 * (h.tail % h.cap % h.nch)) 2) * 2 ^ 32 + h.bodyOff +
          h.tail % h.cap / h.nch * entrySize p, sprueBytes p gen q slot (seenGet s (fld (w.getD 4 0) 55 0) p.cbytes)),
        (6, z.haddr + 32, wordBytes (BitVec.ofNat 64 (h.tail + 1)))]) ∧
    (op = 2 → sb % 4 ≠ 3 ∧ d.idx = none) ∧
    (op = 2 → sb % 4 = 1 → gb = gen ∧ d.code = 0 ∧ ∃ l, enters (rctBytes 0 false 1 slot q)
        ((3, sa, leBytes 1 (sb / 4 % 16 * 4 + 2)) :: l) ∧
      ((∀ k, k < 4 → ¬((rct k).m = true ∧ (rct k).slot = slot ∧ rctLive s (rct k) = true)) → l = []) ∧
      ((∃ k, k < 4 ∧ (rct k).m = true ∧ (rct k).slot = slot ∧ rctLive s (rct k) = true) → ∃ e, l = [(4, e + 8, at_)])) ∧
    (op = 2 → sb % 4 = 2 → gb = gen ∧ d.code = 1 ∧ y.w = []) ∧
    (op = 2 → sb % 4 = 0 → (d.code = 1 ∧ y.w = []) ∨ (d.code = 0 ∧ ∃ e, y.w = [(4, e + 8, at_)])) ∧
    (op = 3 → sb % 4 = 0 ∧ d = { code := 0 } ∧ ∃ e, enters (rctBytes (fld (w.getD 3 0) 23 0) true 2 slot q)
      [(3, sa, leBytes 1 (fld (w.getD 2 0) 43 40 * 4 + 1)), (7, e + 16, at_)]) ∧
    (op = 4 → d = { code := 0 } ∧
      (sb % 4 = 2 ∧ gb = gen ∧ fld (w.getD 5 0) 47 0 ≤ horizon s ∧
          y.w = [(3, sa, leBytes 1 0), (5, ga, leBytes 1 ((gb + 1) % 256))] ∨
        sb % 4 = 0 ∧ ∃ e, y.w = [(3, sa, leBytes 1 0), (5, ga, leBytes 1 ((gb + 1) % 256)), (7, e + 16, at_)])) ∧
    (op = 6 → d = { code := 0 } ∧ y.w = [(8, z.vaddr + 8, wordBytes (put cur 0)), (8, z.vaddr + 16, at_),
      (8, z.vaddr, wordBytes (put (fld (w.getD 4 0) 55 0) 0))])) ∧
  (∀ (s : State) (w : List Word) (q : Nat), Settled s → s.mem.ue = [] → s.mem.lostCh = [] → s.dir.bad = [] →
    let op := fld (w.getD 0 0) 63 56
    let slot := fld (w.getD 2 0) 31 0
    let gen := fld (w.getD 2 0) 39 32
    let c := fld (w.getD 0 0) 55 52
    let gives (l : List Nat) : Prop := ∃ k y, cuRecord { s := s } w q = .bad k y ∧ k ∈ l ∧ y.w = []
    (op = 0 ∨ 6 < op → gives [0x10]) ∧
    (1 ≤ op → op ≤ 6 → recReserved op w = true → gives [0x1D]) ∧
    (1 ≤ op → op ≤ 6 → op ≠ 5 → recReserved op w = false → edgeReserved { s := s } w = false →
      (fld (tget s.cu.vslot 0 c) 55 0 = 0 → gives [0x11]) ∧
      (∀ z x, op ≤ 4 → readCtx { s := s } c true = .ok z x → z.root.slots ≤ slot → gives [0x12]) ∧
      (∀ z x, op ≤ 4 → readCtx { s := s } c true = .ok z x → slot < z.root.slots →
        inT2 s (z.root.state + slot) 1 = true → inT2 s (z.root.gen + slot) 1 = true →
        (op = 1 → inTier s (fld (w.getD 4 0) 55 0) z.p.cbytes = true) →
        let st := (byteAt s (z.root.state + slot)).toNat % 4
        let gb := (byteAt s (z.root.gen + slot)).toNat
        (op = 1 → gen ≠ gb → gives [0x13, 0x11]) ∧
        (op = 1 → gen = gb → st ≠ 0 → gives [0x14, 0x11]) ∧
        (op = 1 → gen = gb → st = 0 → z.h.cap ≤ z.h.tail - z.h.head → gives [0x16, 0x11]) ∧
        (op = 2 → st = 1 → gen ≠ gb → gives [0x13, 0x11]) ∧ (op = 2 → st = 2 → gen ≠ gb → gives [0x13]) ∧
        (op = 2 → st = 3 → gives [0x14]) ∧ (op = 3 → st ≠ 0 → gives [0x14, 0x11]) ∧
        (op = 4 → st = 1 ∨ st = 3 → gives [0x14]) ∧ (op = 4 → st = 2 → gen ≠ gb → gives [0x13]) ∧
        (op = 4 → st = 2 → gen = gb → horizon s < fld (w.getD 5 0) 47 0 → gives [0x19])))) ∧
  (∀ (s : State) (a : Nat) (w : List Word) (s1 : State), Settled s → logOn s = false → s.cu.ctl.getLsbD 0 = true →
    s.cu.tail ≠ s.cu.head → commitSeq s < 2 ^ 48 - 2 →
    batchRecs 64 (s.cu.tail - s.cu.head).toNat s s.cu.head.toNat = some ([(a, some w)], s1) →
    let q := commitSeq s + 1
    let record (t : State) (code seq : Nat) : Prop :=
      seenGet t a 8 = wordBytes (setFld (w.getD 0 0) 47 40 code) ∧ seenGet t (a + 8) 8 = wordBytes (put seq 0)
    (∀ code y, cuRecord { s := s1 } w q = .bad code y → Completes .updBatch s (fun t => record t code 0 ∧
      ctrGet t 0x9010 = ctrGet s 0x9010 ∧ OnlyIn s t [(a, 64)])) ∧
    (∀ d y, cuRecord { s := s1 } w q = .ok d y → Completes .updBatch s (fun t => record t d.code q ∧
      ctrGet t 0x9010 = ctrGet s 0x9010 + 1 ∧
      ∀ b, ¬(a ≤ b ∧ b < a + 64) → ((∃ e ∈ y.w, e.1 = 7) → ∀ c, c < 16 →
          let h := fld (tget s.cu.sprue 0 c) 55 0
          ¬(h + 24 ≤ b ∧ b < h + 48)) →
        byteAt t b = (storedByte (([1, 2, 3, 4, 7, 5, 8, 6].flatMap (fun k => y.w.filter (fun e => e.1 = k))).map Prod.snd)
          b).getD (byteAt s b))))

/-- The tiers and their events (R241, R244, R245, R260 to R262, R289, R293, R373). T1 interleaves its layers by 4,096 bytes. The
host maps and unmaps one segment of its window. When a segment is lost with accesses outstanding, every descriptor that runs
with an extent in it, or has written to it and still has its flush to come, fails with MEMERR; where accesses had no
completion within CTO_MS, the running ones that waited so long fail and CTO is set. The near tier refreshes at 2x above 85
°C and at 4x above 95 °C, with sticky bits; an HBM stack at 2x above 85 °C. A GATHER past its deadline ends; a riser halving
is counted once its interval is over. -/
def Obligations.TierEvents : Prop :=
  ∀ (s : State) (p : HostPort) (seg : BitVec 14) (m : Bool) (layer : Fin 4) (stack : Fin 16) (tq : BitVec 16)
    (q : BitVec 16) (i : Word) (e : Entry) (mon : Word) (arr : List Bool) (r : List Residue),
    (∀ a b, a < 2 ^ 24 → b < 4096 → area (t1Base + 4096 * a + b) = .t1 ∧ t1Layer (t1Base + 4096 * a + b) = a % 4) ∧
    (hostLost s p = true → exec (.windowTableUpdate p seg m) s = .next s) ∧
    (hostLost s p = false → Completes (.windowTableUpdate p seg m) s (fun t =>
      segMapped t p seg.toNat = m ∧ (∀ o k, k < 16384 → (o ≠ p ∨ k ≠ seg.toNat) → segMapped t o k = segMapped s o k) ∧
      t.mem = s.mem ∧ t.queues = s.queues ∧ t.seqs = s.seqs)) ∧
    exec (.t3SegmentLoss p seg 3) s = .next s ∧
    (hostLost s p = false → exec (.t3SegmentLoss p seg 0) s = .next s) ∧
    (QueuesBounded s → Completes (.t3SegmentLoss p seg 2) s (fun t =>
      segMapped t p seg.toNat = false ∧ t.seqs = s.seqs ∧ ∀ k j d w, entryAt s k j = some d → d.st = .running w →
        (∃ x ∈ t3Extents s (qClass k) d, overlaps x.1 x.2 (windowBase p + seg.toNat * 2 ^ 30) (2 ^ 30) = true) →
        Finished t k j d cMemerr)) ∧
    (QueuesBounded s → Completes (.t3SegmentLoss p seg 2) s (fun t => ∀ k j d, entryAt s k j = some d → d.st = .finished 0 →
        (∃ x ∈ t3Dests s (qClass k) d, overlaps x.1 x.2 (windowBase p + seg.toNat * 2 ^ 30) (2 ^ 30) = true) →
        Finished t k j d cMemerr)) ∧
    (lateOn s p (windowBase p + seg.toNat * 2 ^ 30) (2 ^ 30) = [] → exec (.t3SegmentLoss p seg 1) s = .next s) ∧
    (QueuesBounded s → (∃ k j d w, entryAt s k j = some d ∧ d.st = .running w ∧ ctoDue s p d.since = true ∧
        ∃ x ∈ t3Extents s (qClass k) d, overlaps x.1 x.2 (windowBase p + seg.toNat * 2 ^ 30) (2 ^ 30) = true) →
      Completes (.t3SegmentLoss p seg 1) s (fun t => bitAt (tget t.host {} (portNum p)).sticky 3 = true ∧
        t.seqs = s.seqs ∧ ∀ k j d w, entryAt s k j = some d → d.st = .running w → ctoDue s p d.since = true →
          (∃ x ∈ t3Extents s (qClass k) d, overlaps x.1 x.2 (windowBase p + seg.toNat * 2 ^ 30) (2 ^ 30) = true) →
          Finished t k j d cMemerr)) ∧
    Completes (.ntRefreshChange layer tq) s (fun t =>
      tget t.tiers.layerTemp 0 layer.val = tq ∧
      tget t.tiers.layerRate 0 layer.val = (if tq.toInt > 380 then 2 else if tq.toInt > 340 then 1 else 0) ∧
      bitAt t.tiers.ntSticky 0 = (bitAt s.tiers.ntSticky 0 || decide (tq.toInt > 340)) ∧
      bitAt t.tiers.ntSticky 1 = (bitAt s.tiers.ntSticky 1 || decide (tq.toInt > 380)) ∧ t.mem = s.mem) ∧
    Completes (.hbmRefreshChange stack tq) s (fun t => tget t.tiers.stackTemp 0 stack.val = tq ∧
      tget t.tiers.stackRate 0 stack.val = (if tq.toInt > 340 then 1 else 0) ∧ t.mem = s.mem) ∧
    (Runs s q.toNat i 4 1 e (.plain mon) → (gatherD e).deadline ≠ 0 → (gatherD e).deadline ≤ s.tb.time.toNat →
      Completes (.gatherDeadline q i arr r) s (fun t => Ended t q.toNat i e ∧ OnlyEntry s t q.toNat i)) ∧
    (s.tb.time.toNat < (gatherD e).deadline → Runs s q.toNat i 4 1 e (.plain mon) →
      exec (.gatherDeadline q i arr r) s = .next s) ∧
    (let due := s.gte.ctl.getLsbD 0 = true ∧
        s.gte.lastDecay.toNat + max 1 (s.gte.ctl.extractLsb' 32 16).toNat * 1000 ≤ s.tb.time.toNat
     (due → exec .riserDecay s =
        .next { s with gte := { s.gte with halvings := s.gte.halvings + 1, lastDecay := s.tb.time } }) ∧
     (¬due → exec .riserDecay s = .next s))

/-- The channels (R264 to R266, R270, R283). A request joins the queue in order of arrival, or is held upstream where the queue
is full. A decision in MEM serves every request and then gives the banks to a waiting NBU descriptor, or goes home to
processor mode; in PROC a waiting request, HOME at memory or a migration takes the channel back once no command runs. An
expired slice serves what is present, closes the window and gives the banks to the NBU. A broadcast command that ends has
written its part of OUT, all of it where it leaves no work, and gives way to requests that wait. That an ordinary access
which is part of another command finds its channel in memory mode with nothing before it, in no time, is the MODEL'S CHOICE
(log 33). -/
def Obligations.Channels : Prop :=
  ∀ (s : State) (ch : Fin 512) (req : ChanReq) (p : HostPort) (v : Word),
    let c := chanOf s ch.val
    let wait := nbuWaiting s ch.val
    let pin := chanPinned s ch.val
    (chanReqOk ch.val req = true → mapped s req.addr = true → Completes (.channelRequest ch req) s (fun t =>
      (c.queue.length < chanDepth s ∧ c.upstream = [] → chanOf t ch.val = { c with queue := c.queue ++ [(req, s.tb.time)] }) ∧
      (¬(c.queue.length < chanDepth s ∧ c.upstream = []) → chanOf t ch.val =
        { c with upstream := c.upstream ++ [(req, s.tb.time)], held := true }) ∧
      (∀ k, k ≠ ch.val → chanOf t k = chanOf s k) ∧ t.mem = s.mem)) ∧
    (c.mode = .mem → (c.queue = [] → c.upstream = []) → Completes (.channelDecision ch) s (fun t =>
      (chanOf t ch.val).queue = [] ∧ (chanOf t ch.val).upstream = [] ∧
      (chanAnswers t).length = (chanAnswers s).length + c.queue.length + c.upstream.length ∧
      (chanOf t ch.val).mode = (if pin = false ∧ (wait = true ∨ c.home = true) then .toProc else .mem) ∧
      t.seqs = s.seqs ∧ t.queues = s.queues)) ∧
    (c.mode = .proc → (c.bcast ≠ none ∨ wait = true ∧ pin = false) → exec (.channelDecision ch) s = .next s) ∧
    (c.mode = .proc → c.bcast = none → (wait = false ∨ pin = true) → Completes (.channelDecision ch) s (fun t =>
      (chanOf t ch.val).mode = (if c.queue ≠ [] ∨ c.home = false ∨ pin = true then .toMem else .proc) ∧ t.mem = s.mem)) ∧
    (c.mode = .toProc → Completes (.toProcDone ch) s (fun t => (chanOf t ch.val).mode = .proc ∧
      (chanOf t ch.val).bcast = (if c.more then some s.tb.time else none) ∧ (chanOf t ch.val).queue = c.queue)) ∧
    (c.mode = .toMem → Completes (.toMemDone ch) s (fun t => chanOf t ch.val =
      { c with mode := .mem, windowStart := some s.tb.time, winSlice := c.slice })) ∧
    (∀ x y, c.mode = .mem → c.windowStart = some x → c.nbuWait = some y → wait = true → pin = false →
      max x.toNat y.toNat + max 1 c.winSlice * 1000 ≤ s.tb.time.toNat → Completes (.windowSliceExpire ch) s (fun t =>
        (chanOf t ch.val).mode = .toProc ∧ (chanOf t ch.val).windowStart = none ∧
        (chanAnswers t).length = (chanAnswers s).length + c.queue.length ∧ t.seqs = s.seqs)) ∧
    (∀ x, c.mode = .proc → c.bcast = some x → c.queue ≠ [] → Completes (.broadcastEnd ch) s (fun t =>
      (chanOf t ch.val).mode = .toMem ∧ (chanOf t ch.val).bcast = none ∧ (chanOf t ch.val).queue = c.queue)) ∧
    (∀ x, c.mode = .proc → c.bcast = some x → c.queue = [] → s.tb.time.toNat < x.toNat + 19500 →
      Completes (.broadcastEnd ch) s (fun t => (chanOf t ch.val).bcast = none ∧
        (chanOf t ch.val).mode = (if c.home then .proc else .toMem) ∧
        ∀ f ∈ t.foot, f.q = mkQ 8 ch.val 0 → f.pend = [])) ∧
    (∀ a, area a = .t2 ch.val → (c.queue = [] → c.upstream = []) →
      (chanOf (chanOpen s a) ch.val).mode = .mem ∧ (chanOf (chanOpen s a) ch.val).queue = [] ∧
      (chanOf (chanOpen s a) ch.val).upstream = []) ∧
    (accOk s (.pf p) = true → exec (.mchChmodeWrite (.pf p) ch v) s =
      .next (updChan s ch.val (fun c => { c with home := v.getLsbD 0, slice := (v.extractLsb' 8 8).toNat }))) ∧
    (accOk s (.pf p) = true → (queueOf s (0x8000 + ch.val * 4)).entries = [] → Completes (.nbuCtlWrite (.pf p) ch v) s (fun t =>
      (tget t.nbus {} ch.val).compat = v.getLsbD 0 ∧ (tget t.nbus {} ch.val).status = (tget s.nbus {} ch.val).status)) ∧
    (accOk s (.pf p) = true → (queueOf s (0x8000 + ch.val * 4)).entries ≠ [] → Completes (.nbuCtlWrite (.pf p) ch v) s (fun t =>
      (tget t.nbus {} ch.val).compat = (tget s.nbus {} ch.val).compat ∧ bitAt (tget t.nbus {} ch.val).status 6 = true))

/-- READ (R310 to R314). A READ that was dispatched while its engine was not mounted fails with FLASH_ERR; that it writes a
record with STATUS 7 is the MODEL'S CHOICE (log 112). One of a space that does not exist, or was deleted before, ends with
STATUS 3, one beyond its capacity with STATUS 6; past its deadline every sector is late. Otherwise every sector becomes
outstanding at the location the map gives its AU, and memory is as it was.

The sectors of a READ (R305, R313, R314, R329). A sector whose die an earlier read still waits for is not yet served. A
sector that was read reaches BUF, zeros where its AU is not mapped; one that comes past the deadline is late, one that no
means recovers has failed. With its last sector resolved, or at the deadline, when every outstanding sector is late, the
READ ends with its record, DONE and COUNT saying which sectors were written: with FLASH_ERR where one has failed, else OK. A
sector that is not outstanding is left. -/
def Obligations.FlashReads : Prop :=
  (∀ (s : State) (q : BitVec 16) (i : Word) (e : Entry) (acc : Word),
    let d := fleD e
    let k := q.toNat
    let f := fleOf s (qUnit k)
    let n := d.size / 1024
    Runs s k i 7 1 e (.plain acc) → Quiet s → d.size ≠ 0 → d.size % 1024 = 0 →
      (acc.getLsbD 63 = true → Completes (.read q i) s (fun t =>
        Recorded t k i e d.stat (recWords { status := 7 }) cFlashErr ∧ OnlyEntry s t k i)) ∧
      (acc.getLsbD 63 = false → tfind f.spaces d.lbs = none → Completes (.read q i) s (fun t =>
        Recorded t k i e d.stat (recWords { status := 3 }) 0 ∧ OnlyEntry s t k i)) ∧
      (acc.getLsbD 63 = false → deleteBefore s (qUnit k) (accOf acc) d.lbs = true ∨ spaceGone f d.lbs (accOf acc) = true →
        Completes (.read q i) s (fun t => Recorded t k i e d.stat (recWords { status := 3 }) 0 ∧ OnlyEntry s t k i)) ∧
      (∀ cap, acc.getLsbD 63 = false → tfind f.spaces d.lbs = some cap → deleteBefore s (qUnit k) (accOf acc) d.lbs = false →
        spaceGone f d.lbs (accOf acc) = false →
        (cap * 4096 < d.off + d.size → Completes (.read q i) s (fun t =>
          Recorded t k i e d.stat (recWords { status := 6 }) 0 ∧ OnlyEntry s t k i)) ∧
        (d.off + d.size ≤ cap * 4096 → d.deadline ≠ 0 → d.deadline ≤ s.tb.time.toNat → Completes (.read q i) s (fun t =>
          Recorded t k i e d.stat (recWords { late := n, status := 1 }) 0 ∧ OnlyEntry s t k i)) ∧
        (d.off + d.size ≤ cap * 4096 → (d.deadline = 0 ∨ s.tb.time.toNat < d.deadline) → Completes (.read q i) s (fun t =>
          RunsOn t k i e (.flash { acc := (accOf acc), start := s.tb.time, sectors := (List.range n).map (fun j =>
            .outstanding (mapGet f d.lbs ((d.off / 1024 + j) / 4))) }) ∧ t.mem = s.mem ∧ OnlyEntry s t k i)))) ∧
  (∀ (s : State) (q : BitVec 16) (i : Word) (e : Entry) (c : FlashCtx) (sec : Nat) (loc : Option Nat) (o : SectorOutcome),
    let d := fleD e
    let k := q.toNat
    let f := fleOf s (qUnit k)
    let data := secOf (auData f loc) ((d.off / 1024 + sec) % 4)
    let due := d.deadline ≠ 0 ∧ d.deadline ≤ s.tb.time.toNat
    let ends (t : State) (l : List SectorSt) : Prop := Recorded t k i e d.stat
      (recWords ⟨(List.range l.length).foldl (fun a j => if l[j]? = some .written then a + 2 ^ j else a) 0,
        countSt l .written, countSt l .late, countSt l .failed,
        if countSt l .failed > 0 then 7 else if countSt l .late > 0 then 1 else 0⟩)
      (if countSt l .failed > 0 then cFlashErr else 0)
    let with_ (x : SectorSt) := lset c.sectors sec x
    let ok := sectorOk f loc ((d.off / 1024 + sec) % 4) o
    Runs s k i 7 1 e (.flash c) → Quiet s → d.buf % 64 = 0 →
      (c.sectors[sec]? = some (.outstanding loc) → (∃ j x, j ≠ sec ∧ c.sectors[j]? = some (.outstanding x)) →
        let on (t : State) (x : SectorSt) : Prop := RunsOn t k i e (.flash { c with sectors := with_ x })
        (due → Completes (.sectorReadDone q i sec o) s (fun t => on t .late ∧ t.mem = s.mem ∧ OnlyEntry s t k i)) ∧
        (¬due → dieBusy s (qUnit k) c.acc loc = true → exec (.sectorReadDone q i sec o) s = .next s) ∧
        (¬due → dieBusy s (qUnit k) c.acc loc = false → ok = true → inNode (d.buf + sec * 1024) = true → data.length = 1024 →
          Completes (.sectorReadDone q i sec o) s (fun t => OnlyEntry s t k i ∧
            ((on t .written ∧ ∀ j, j < 1024 → byteAt t (d.buf + sec * 1024 + j) = data.getD j 0) ∨ Finished t k i e cMemerr))) ∧
        (¬due → dieBusy s (qUnit k) c.acc loc = false → ok = false → Completes (.sectorReadDone q i sec o) s (fun t =>
          on t .failed ∧ bitAt t.err.sticky 4 = true ∧ OnlyEntry s t k i))) ∧
      (c.sectors[sec]? = some (.outstanding loc) → (∀ j x, j ≠ sec → c.sectors[j]? ≠ some (.outstanding x)) →
        (due → Completes (.sectorReadDone q i sec o) s (fun t => ends t (with_ .late) ∧ OnlyEntry s t k i)) ∧
        (¬due → dieBusy s (qUnit k) c.acc loc = true → exec (.sectorReadDone q i sec o) s = .next s) ∧
        (¬due → dieBusy s (qUnit k) c.acc loc = false → ok = true → inNode (d.buf + sec * 1024) = true → data.length = 1024 →
          Completes (.sectorReadDone q i sec o) s (fun t => OnlyEntry s t k i ∧ (Finished t k i e cMemerr ∨
            (ends t (with_ .written) ∧ (overlaps d.stat 16 (d.buf + sec * 1024) 1024 = false →
              ∀ j, j < 1024 → byteAt t (d.buf + sec * 1024 + j) = data.getD j 0))))) ∧
        (¬due → dieBusy s (qUnit k) c.acc loc = false → ok = false → Completes (.sectorReadDone q i sec o) s (fun t =>
          ends t (with_ .failed) ∧ bitAt t.err.sticky 4 = true ∧ OnlyEntry s t k i))) ∧
      ((∀ x, c.sectors[sec]? ≠ some (.outstanding x)) → exec (.sectorReadDone q i sec o) s = .next s) ∧
      (due → Completes (.fleReadDeadline q i) s (fun t => OnlyEntry s t k i ∧
        ends t (c.sectors.map (fun x => if sectorPending x then .late else x)))) ∧
      (¬due → exec (.fleReadDeadline q i) s = .next s))

/-- WRITE and TRIM (R305, R308, R310, R319). A read-only engine ends a WRITE with STATUS 5. While F is at or below RESERVE a
WRITE waits and nothing is programmed. A WRITE of up to four whole AUs for which a page can be programmed leaves each sector
of the space reading as BUF held it. A TRIM unmaps exactly its AUs, whatever superblocks are free. -/
def Obligations.FlashChange : Prop :=
  ∀ (s : State) (q : BitVec 16) (i : Word) (e : Entry) (acc : Word) (cap : Nat),
    let d := fleD e
    let k := q.toNat
    let u := qUnit k
    let f := fleOf s u
    let f1 := fleOf (fleReq s u) u
    let lau := d.off / 4096
    let n := d.size / 4096
    let r := anyRead (mapTouch (fleReq s u) u (descWho k e).tenant (ausOf d)) (descWho k e) d.buf d.size
    acc.getLsbD 63 = false → Quiet s → d.size ≠ 0 → d.off % 4096 = 0 → d.size % 4096 = 0 → tfind f.spaces d.lbs = some cap →
    deleteBefore s u (accOf acc) d.lbs = false → spaceGone f d.lbs (accOf acc) = false → d.off + d.size ≤ cap * 4096 →
      (Runs s k i 7 2 e (.plain acc) → f.readOnly = true → Completes (.write q i) s (fun t =>
        Recorded t k i e d.stat (recWords { status := 5 }) 0 ∧ (fleOf t u).map = f.map ∧ (fleOf t u).flash = f.flash)) ∧
      (Runs s k i 7 2 e (.plain acc) → f.readOnly = false → f.pool.length ≤ reserve f → Completes (.write q i) s (fun t =>
        entryAt t k i = some e ∧ (fleOf t u).map = f.map ∧ (fleOf t u).flash = f.flash ∧ t.mem = s.mem)) ∧
      (Runs s k i 7 2 e (.plain acc) → f.readOnly = false → reserve f < f.pool.length → fgFree f ≤ f.pool.length → n ≤ 4 →
        changeBefore s u (accOf acc) d.lbs lau ((d.off + d.size - 1) / 4096) = false → r.ok = true → r.data.length = d.size →
        (program f1 false none { seq := 0, kind := 1, slots := [] }).isSome → Completes (.write q i) s (fun t =>
          ∀ x, d.off / 1024 ≤ x → x < (d.off + d.size) / 1024 →
            secOf (auData (fleOf t u) (mapGet (fleOf t u) d.lbs (x / 4))) (x % 4) = secOf r.data (x - d.off / 1024))) ∧
      (Runs s k i 7 3 e (.plain acc) → changeBefore s u (accOf acc) d.lbs lau (lau + n - 1) = false →
        Completes (.trim q i) s (fun t =>
          Recorded t k i e d.stat (recWords { count := n }) 0 ∧
          ∀ a, tfind (fleOf t u).map a =
            if auKey d.lbs lau ≤ a ∧ a < auKey d.lbs lau + n then none else tfind f.map a))

/-- SPACE and SYNC (R305, R310, R311, R321). CREATE ends with STATUS 4 where the space exists, 2 where its capacity does not
fit, 8 where the map region is too small; else the space exists with its capacity. DELETE of a space that does not exist ends
with STATUS 3; it waits while an earlier descriptor of its space has not retired; else the space and its mappings are gone.
SYNC leaves a root that names the map as it stands. -/
def Obligations.FlashSpaces : Prop :=
  ∀ (s : State) (q : BitVec 16) (i : Word) (e : Entry) (acc : Word),
    let d := fleD e
    let k := q.toNat
    let u := qUnit k
    let f := fleOf s u
    let ends (st : Nat) (t : State) : Prop := Recorded t k i e d.stat (recWords { status := st }) 0 ∧
      (fleOf t u).spaces = f.spaces ∧ (fleOf t u).map = f.map
    acc.getLsbD 63 = false → Quiet s →
      (Runs s k i 7 4 e (.plain acc) → d.act = 0 → spaceBefore s u (accOf acc) = false →
        ((tfind f.spaces d.lbs).isSome → Completes (.spaceCreate q i) s (ends 4)) ∧
        (tfind f.spaces d.lbs = none → usableAu f < capSum f + d.cap → Completes (.spaceCreate q i) s (ends 2)) ∧
        (tfind f.spaces d.lbs = none → capSum f + d.cap ≤ usableAu f → f.mapSize.toNat < 8 * (capSum f + d.cap) + 16 * 2 ^ 20 →
          Completes (.spaceCreate q i) s (ends 8)) ∧
        (tfind f.spaces d.lbs = none → capSum f + d.cap ≤ usableAu f → 8 * (capSum f + d.cap) + 16 * 2 ^ 20 ≤ f.mapSize.toNat →
          Completes (.spaceCreate q i) s (fun t =>
            Recorded t k i e d.stat (recWords {}) 0 ∧ tfind (fleOf t u).spaces d.lbs = some d.cap ∧
            (∀ b, b ≠ d.lbs → tfind (fleOf t u).spaces b = tfind f.spaces b) ∧ (fleOf t u).map = f.map))) ∧
      (Runs s k i 7 4 e (.plain acc) → d.act = 1 → spaceBefore s u (accOf acc) = false →
        let waits := unretired s u (accOf acc) (fun op x => op ≤ 3 && x.lbs = d.lbs)
        (waits = true → exec (.spaceDelete q i) s = .next s) ∧
        (waits = false → tfind f.spaces d.lbs = none → Completes (.spaceDelete q i) s (ends 3)) ∧
        (waits = false → (tfind f.spaces d.lbs).isSome →
          Completes (.spaceDelete q i) s (fun t =>
            Recorded t k i e d.stat (recWords {}) 0 ∧ tfind (fleOf t u).spaces d.lbs = none ∧
            ∀ a, tfind (fleOf t u).map a =
              if auKey d.lbs 0 ≤ a ∧ a < auKey d.lbs 0 + 2 ^ 36 then none else tfind f.map a))) ∧
      (Runs s k i 7 5 e (.plain acc) → Completes (.sync q i) s (fun t =>
        Recorded t k i e d.stat (recWords {}) 0 ∧ (fleOf t u).map = f.map ∧
        (∃ r, ((fleOf t u).rootA = some r ∨ (fleOf t u).rootB = some r) ∧ r.map = f.map ∧ r.spaces = f.spaces ∧
          r.pool = f.pool ∧ r.cpSeq = f.seq) ∧
        ∀ r, newestRoot f.rootA f.rootB = some r → (fleOf t u).rootA = some r ∨ (fleOf t u).rootB = some r))

/-- Parity, verify and garbage collection (R316 to R319). Partial parity covers the pages of an open stripe for which a WRITE
has waited 1 ms. A closed superblock of a module that holds its data, read in full, becomes VERIFIED, its weak AUs and those
of retired blocks relocated, and its parity is released. A valid AU of the victim is copied, its bytes as they were, and the
map follows. Background GC starts after BG_IDLE_US without a request while F is below BG_FREE; foreground GC runs while F is
below FG_FREE, with THROTTLED; where GC can free nothing the engine is read-only. Where the rule does not hold nothing
happens.

Erasing, checkpoints and defects (R318, R321, R324, R326). A victim that may be erased loses its pages, gains one erase and
joins the free pool where its module is in service; a failed erase also retires the block, and a failed program retires the
block of its page, where the page may still fail. A checkpoint after 1 GiB or 2 s leaves a root that names the map, and the
newest root before it. -/
def Obligations.FlashUpkeep : Prop :=
  (∀ (s : State) (f : Fin 4) (sb loc : Nat) (b : Sb) (a : FSlot) (weak : List (Nat × Bool)),
    let u := f.val
    let x := fleOf s u
    let late := (fleRunning s u).any (fun r => match r.2.2.1.st with
      | .running (.flash c) => c.start.toNat + 1000000 < s.tb.time.toNat &&
          c.pages.any (fun p => locSb p = sb && !(isCovered x p))
      | _ => false)
    let collects := (x.victim = some (locSb loc) ∧ (x.fgGc = true ∨ x.bgGc = true)) ∨
      (modOf x (sbModule (locSb loc))).st = .evacuating
    let idle := fleIdle s u = true ∧ x.lastReq.toNat + bgIdle x * 1000 ≤ s.tb.time.toNat ∧ x.pool.length < bgFree x
    x.mounted = true → tfind x.sbs sb = some b →
      (b.st = .open_ → b.done ≠ [] → late = true → Completes (.partialParity f sb) s (fun t =>
        (∃ c page, tfind (fleOf t u).sbs sb = some c ∧ tfind c.parity b.stripe = some page ∧
          ∀ j ∈ b.done, pageLoc sb j b.stripe ∈ page.covers) ∧
        (fleOf t u).seq = x.seq + 1 ∧ (fleOf t u).map = x.map ∧ t.seqs = s.seqs)) ∧
      ((b.st ≠ .open_ ∨ b.done = [] ∨ late = false) → exec (.partialParity f sb) s = .next s) ∧
      (b.st = .closed → sbServes x sb = true → (relocate x (weakAus x sb weak)).isSome → Completes (.sbVerify f sb weak) s (fun t =>
        (∃ c, tfind (fleOf t u).sbs sb = some c ∧ c.st = .verified ∧ c.parity = [] ∧ sb ∉ c.holdFor) ∧ t.seqs = s.seqs)) ∧
      (b.st ≠ .closed ∨ sbServes x sb = false → exec (.sbVerify f sb weak) s = .next s) ∧
      (collects → locLost x loc = false → validAt x loc = some a → gcPage x = none → (program x true none { seq := 0, kind := 2 }).isSome →
        Completes (.gcCopy f loc) s (fun t => auData (fleOf t u) (mapGet (fleOf t u) a.lbs a.lau) = a.data ∧
          (∀ k, k ≠ auKey a.lbs a.lau → tfind (fleOf t u).map k = tfind x.map k) ∧ t.seqs = s.seqs)) ∧
      ((¬collects ∨ validAt x loc = none ∨ locLost x loc = true) → exec (.gcCopy f loc) s = .next s) ∧
      (idle → Completes (.bgGcStart f) s (fun t => (fleOf t u).bgGc = true ∧ (fleOf t u).map = x.map ∧ t.queues = s.queues)) ∧
      (¬idle → exec (.bgGcStart f) s = .next s) ∧
      (x.pool.length < fgFree x → Completes (.fgGc f) s (fun t => (fleOf t u).fgGc = true ∧ bitAt (fleOf t u).sticky 6 = true ∧
        (fleOf t u).map = x.map ∧ t.queues = s.queues ∧
        (fleOf t u).readOnly =
          (x.readOnly || (x.pool.isEmpty && !((fleOf t u).sbs.isEmpty) && !(someInvalid (fleOf t u)))))) ∧
      (fgFree x ≤ x.pool.length → exec (.fgGc f) s = .next s)) ∧
  (∀ (s : State) (f : Fin 4) (sb page m : Nat) (b : Sb) (p : FPage),
    let u := f.val
    let x := fleOf s u
    let cut := x.cutBytes ≥ 2 ^ 30 ∨ x.cutAt.toNat + 2000000000 ≤ s.tb.time.toNat
    x.mounted = true →
      (erasable s u sb = true → tfind x.sbs sb = some b → b.members ≠ [] → Completes (.sbErase f sb) s (fun t =>
        (∃ c, tfind (fleOf t u).sbs sb = some c ∧ c.erases = b.erases + 1 ∧ c.members = b.members) ∧
        (healthy x sb = true → sb ∈ (fleOf t u).pool) ∧ (healthy x sb = false → (fleOf t u).pool = x.pool) ∧
        (∀ e ∈ (fleOf t u).flash, locSb e.1 ≠ sb) ∧ (fleOf t u).map = x.map ∧ t.queues = s.queues)) ∧
      (erasable s u sb = true → tfind x.sbs sb = some b → Completes (.eraseFail f sb m) s (fun t =>
        (∃ c, tfind (fleOf t u).sbs sb = some c ∧ c.erases = b.erases + 1 ∧ c.members = b.members.filter (· ≠ m)) ∧
        bitAt (fleOf t u).sticky 3 = true ∧ (∀ e ∈ (fleOf t u).flash, locSb e.1 ≠ sb) ∧ (fleOf t u).map = x.map ∧
        t.queues = s.queues)) ∧
      (erasable s u sb = false → exec (.sbErase f sb) s = .next s ∧ exec (.eraseFail f sb m) s = .next s) ∧
      (tfind x.flash page = some p → tfind x.sbs (locSb page) = some b → unverifiedSb b = true →
        mayFail s u page p = true → copyOpen x p = true → Completes (.programFail f page) s (fun t =>
          (∃ c, tfind (fleOf t u).sbs (locSb page) = some c ∧ c.members = b.members.filter (· ≠ locMember page)) ∧
          bitAt (fleOf t u).sticky 3 = true ∧ t.seqs = s.seqs)) ∧
      (tfind x.flash page = none → exec (.programFail f page) s = .next s) ∧
      (tfind x.flash page = some p → mayFail s u page p = false ∨ copyOpen x p = false →
        exec (.programFail f page) s = .next s) ∧
      (cut → Completes (.checkpoint f) s (fun t =>
        (∃ r, ((fleOf t u).rootA = some r ∨ (fleOf t u).rootB = some r) ∧ r.map = x.map ∧ r.spaces = x.spaces ∧
          r.pool = x.pool ∧ r.cpSeq = x.seq) ∧
        (∀ r, newestRoot x.rootA x.rootB = some r → (fleOf t u).rootA = some r ∨ (fleOf t u).rootB = some r) ∧
        (fleOf t u).map = x.map ∧ t.queues = s.queues ∧ t.seqs = s.seqs)) ∧
      (¬cut → exec (.checkpoint f) s = .next s))

/-- MOUNT, FORMAT and the map and GC registers (R322, R323, R331). MOUNT or FORMAT while mounted or busy, and both at once,
set CFG_ERR; else the work begins. A mount whose roots do not decode sets MOUNT_ERR and leaves the engine unmounted; with no
page after the root the map and the spaces are the root's. A format leaves no page on a module in service, an empty map and
an empty root. MAP_BASE and MAP_SIZE change only while unmounted; GC_CTL only where RESERVE < FG_FREE ≤ BG_FREE. -/
def Obligations.FlashMount : Prop :=
  ∀ (s : State) (p : HostPort) (f : Fin 4) (v : Word) (rep : MountReport) (bad : List (Nat × Nat)) (r : FleRoot),
    accOk s (.pf p) = true →
    let u := f.val
    let x := fleOf s u
    let cfgErr (c : Instr) : Prop := exec c s = .next (setFle s u (x.flag 7))
    let free := x.mounted = false ∧ x.busy = .idle
    let newest := newestRoot (if rep.rootA then x.rootA else none) (if rep.rootB then x.rootB else none)
    let res := fld v 15 0
    let fg := fld v 31 16
    (bitAt v 0 = true → (bitAt v 1 = true ∨ ¬free) → cfgErr (.mount (.pf p) f v)) ∧
    (bitAt v 0 = true → bitAt v 1 = false → free →
      exec (.mount (.pf p) f v) s = .next (setFle s u { x with busy := .mounting })) ∧
    (bitAt v 1 = true → (bitAt v 0 = true ∨ ¬free) → cfgErr (.format (.pf p) f v)) ∧
    (bitAt v 1 = true → bitAt v 0 = false → free →
      exec (.format (.pf p) f v) s = .next (setFle s u { x with busy := .formatting })) ∧
    (x.busy ≠ .mounting → exec (.mountComplete f rep) s = .next s) ∧
    (x.busy = .mounting → newest = none → Completes (.mountComplete f rep) s (fun t =>
      (fleOf t u).mounted = x.mounted ∧ bitAt (fleOf t u).sticky 1 = true ∧ (fleOf t u).busy = .idle ∧
      (fleOf t u).map = x.map ∧ (fleOf t u).flash = x.flash ∧ t.queues = s.queues)) ∧
    (x.busy = .mounting → newest = some r → Completes (.mountComplete f rep) s (fun t =>
      (fleOf t u).mounted = true ∧ (fleOf t u).busy = .idle ∧ t.queues = s.queues ∧ t.seqs = s.seqs ∧
      (rep.lost = [] → (fleOf t u).flash = x.flash) ∧
      ((∀ e ∈ x.flash, e.2.seq ≤ r.cpSeq) → (fleOf t u).map = r.map ∧ (fleOf t u).spaces = r.spaces))) ∧
    (x.busy ≠ .formatting → exec (.formatComplete f bad) s = .next s) ∧
    (x.busy = .formatting → Completes (.formatComplete f bad) s (fun t =>
      (fleOf t u).map = [] ∧ (fleOf t u).spaces = [] ∧ (fleOf t u).mounted = x.mounted ∧ (fleOf t u).busy = .idle ∧
      (∃ root, (fleOf t u).rootA = some root ∧ root.map = [] ∧ root.spaces = [] ∧ (fleOf t u).rootB = none) ∧
      (∀ e ∈ (fleOf t u).flash, healthy (fleOf t u) (locSb e.1) = false) ∧ t.queues = s.queues)) ∧
    (x.mounted = true → cfgErr (.fleMapWrite (.pf p) f true v) ∧ cfgErr (.fleMapWrite (.pf p) f false v)) ∧
    (x.mounted = false →
      exec (.fleMapWrite (.pf p) f true v) s = .next (setFle s u { x with mapSize := v }) ∧
      exec (.fleMapWrite (.pf p) f false v) s = .next (setFle s u { x with mapBase := v &&& 0x00FFFFFFFFFF0000#64 })) ∧
    ((fg ≤ res ∨ fld v 47 32 < fg) → cfgErr (.fleGcCtlWrite (.pf p) f v)) ∧
    (res < fg → fg ≤ fld v 47 32 →
      exec (.fleGcCtlWrite (.pf p) f v) s = .next (setFle s u (gcNorm { x with gcCtl := v })))

/-- The modules (R301, R326, R327). ADMIT of a present module begins, and ADMIT_DONE puts a supported one into service with its
superblocks free; that an unsupported one changes nothing is the MODEL'S CHOICE (log 113). EVACUATE of a module in service
begins where the others can hold its AUs and is refused otherwise; with no AU left and nothing still needed there the module
is EMPTY; POWER_OFF needs EMPTY or FAILED. An action in any other state sets CFG_ERR and changes no state. A module that
appears is PRESENT; one that is pulled out or loses its dies in service has FAILED; one powered off is ABSENT. -/
def Obligations.FlashModules : Prop :=
  ∀ (s : State) (p : HostPort) (f m : Fin 4) (geo : Geometry), accOk s (.pf p) = true →
    let u := f.val
    let x := fleOf s u
    let y := modOf x m.val
    let need := needed s u (fun l => sbModule (locSb l) = m.val)
    let st (t : State) : ModSt := (modOf (fleOf t u) m.val).st
    let keeps (c : Instr) : Prop := Completes c s (fun t =>
      (fleOf t u).mods = x.mods ∧ bitAt (fleOf t u).sticky 7 = true ∧ t.queues = s.queues)
    let fits := validOn x m.val true + validOn x m.val false ≤ healthyAus x (some m.val) * 93 / 100
    (y.st = .present → Completes (.modAdmit (.pf p) f m 1) s (fun t => st t = .admitting ∧ (modOf (fleOf t u) m.val).pwrEn = true ∧
      (fleOf t u).map = x.map ∧ t.queues = s.queues)) ∧
    (y.st ≠ .present → keeps (.modAdmit (.pf p) f m 1)) ∧
    (y.st = .inService → Completes (.evacuate (.pf p) f m 2) s (fun t => t.queues = s.queues ∧ (fleOf t u).map = x.map ∧
      (fits → st t = .evacuating ∧ ∀ k ∈ (fleOf t u).pool, sbModule k ≠ m.val) ∧
      (¬fits → st t = .inService ∧ (modOf (fleOf t u) m.val).evacRefused = true))) ∧
    (y.st ≠ .inService → keeps (.evacuate (.pf p) f m 2)) ∧
    ((y.st = .empty ∨ y.st = .failed) → Completes (.powerOff (.pf p) f m 8) s (fun t => st t = .poweredOff ∧
      (modOf (fleOf t u) m.val).pwrEn = false ∧ t.queues = s.queues)) ∧
    (y.st ≠ .empty → y.st ≠ .failed → keeps (.powerOff (.pf p) f m 8)) ∧
    (y.st = .admitting → geo.wf = true → Completes (.admitDone f m geo) s (fun t => st t = .inService ∧
      (modOf (fleOf t u) m.val).admitted = true ∧ (∀ e ∈ (fleOf t u).flash, sbModule (locSb e.1) ≠ m.val) ∧
      (∀ b ∈ freshSbs m.val geo, b.2.members ≠ [] → b.1 ∈ (fleOf t u).pool) ∧ t.queues = s.queues)) ∧
    ((y.st ≠ .admitting ∨ geo.wf = false) → exec (.admitDone f m geo) s = .next s) ∧
    (y.st = .evacuating → validOn x m.val true = 0 → need = false → Completes (.evacDone f m) s (fun t => st t = .empty ∧
      (∀ e ∈ (fleOf t u).flash, sbModule (locSb e.1) ≠ m.val) ∧ (fleOf t u).map = x.map ∧ t.queues = s.queues)) ∧
    ((y.st ≠ .evacuating ∨ validOn x m.val true ≠ 0 ∨ need = true) → exec (.evacDone f m) s = .next s) ∧
    Completes (.modPrsntFall f m) s (fun t => st t = (if y.st = .absent then .present else y.st) ∧
      (modOf (fleOf t u) m.val).prsnt = true ∧ (fleOf t u).map = x.map ∧ t.queues = s.queues) ∧
    (y.prsnt = true → Completes (.modPrsntRise f m) s (fun t =>
      st t = (if y.st = .poweredOff then .absent else .failed) ∧ (modOf (fleOf t u) m.val).prsnt = false)) ∧
    (y.prsnt = false → exec (.modPrsntRise f m) s = .next s) ∧
    (y.st ≠ .absent → y.st ≠ .poweredOff → Completes (.modDiesLost f m) s (fun t => st t = .failed ∧
      ∀ k, k ≠ m.val → modOf (fleOf t u) k = modOf x k)) ∧
    ((y.st = .absent ∨ y.st = .poweredOff) → exec (.modDiesLost f m) s = .next s)

/-- The rows of a home slice (R336) for a request that meets no hold and no earlier request. GetS leaves the line shared with
the requester added, an owner having written back and kept S; GetM leaves it Modified at the requester and at no other
cache; a non-caching read makes an owner write back; a non-caching write leaves no copy, and changes the bytes written and
no others. The data returned is what an observer reads.

NEAR_ATOMIC (R336, R341 to R344), at a line that no cache holds. One that runs near, as every agent's does but a data
cache's whose mode or counter has it far, returns the old value, and memory receives the new one, its counter one lower;
with a second residue mismatch memory is unchanged and nothing is returned. One that runs far leaves the line Modified at
the data cache, holding the new value. -/
def Obligations.Directory : Prop :=
  (∀ (s : State) (g : BitVec 8) (line addr : BitVec 56) (data : List Byte),
    let l := line.toNat
    let h := g.toNat
    let now64 := (List.range 64).map (fun j => byteAt s (l * 64 + j))
    let gives (t : State) : Prop := t.out.getLast? = some (.lineData h l now64)
    Coherent s → s.dir.bad = [] → lineOk s l = true → Quiet s → heldByOther s h l = false →
    ueIn s (l * 64) 64 = none →
      (cacheLines h ≠ 0 → cacheGet s h l = none → Completes (.gets g line) s (fun t => gives t ∧
        cacheGet t h l = some ⟨false, now64, 0⟩ ∧ t.queues = s.queues ∧ t.seqs = s.seqs ∧
        (dirGet s l = none → dirGet t l = some (.shared [h])) ∧
        (∀ m, dirGet s l = some (.shared m) → dirGet t l = some (.shared (sadd m h))) ∧
        (∀ o, dirGet s l = some (.owned o) → o ≠ h → dirGet t l = some (.shared [o, h]) ∧
          cacheGet t o l = some ⟨false, now64, 0⟩ ∧ ∀ j, j < 64 → byteAt t (l * 64 + j) = byteAt s (l * 64 + j)))) ∧
      (holdsM h = true → cacheGet s h l = none → Completes (.getm g line) s (fun t => gives t ∧
        cacheGet t h l = some ⟨true, now64, s.tb.time.toNat + holdNs s⟩ ∧ dirGet t l = some (.owned h) ∧
        t.queues = s.queues ∧ t.seqs = s.seqs ∧
        (∀ m o, dirGet s l = some (.shared m) → o ∈ m → o ≠ h → cacheGet t o l = none) ∧
        (∀ o, dirGet s l = some (.owned o) → o ≠ h → cacheGet t o l = none))) ∧
      (isAgent h = true → s.mem.ce = [] → Completes (.ncRead g line) s (fun t => gives t ∧ SameMemory s t ∧
        ((∀ o, dirGet s l ≠ some (.owned o)) → t.caches = s.caches ∧ t.dir = s.dir) ∧
        (∀ o, dirGet s l = some (.owned o) → dirGet t l = some (.shared [o]) ∧
          cacheGet t o l = some ⟨false, now64, 0⟩))) ∧
      (isAgent h = true → data ≠ [] → addr.toNat / 64 = l → addr.toNat % 64 + data.length ≤ 64 →
        protected_ s addr.toNat = false → s.mem.ce = [] → Completes (.ncWrite g addr data) s (fun t => dirGet t l = none ∧
          (∀ j, j < data.length → byteAt t (addr.toNat + j) = data.getD j 0) ∧
          (∀ a, (a < addr.toNat ∨ addr.toNat + data.length ≤ a) → byteAt t a = byteAt s a) ∧
          (∀ m o, dirGet s l = some (.shared m) → o ∈ m → cacheGet t o l = none) ∧
          (∀ o, dirGet s l = some (.owned o) → cacheGet t o l = none) ∧ t.queues = s.queues ∧ t.seqs = s.seqs))) ∧
  (∀ (s : State) (g : BitVec 8) (addr : BitVec 56) (op : AmoOp) (dbl : Bool) (src cmp : Word) (y z : BitVec 18),
    let a := addr.toNat
    let n := amoSize dbl
    let old := memGet s a n
    isAgent g.toNat = true → isInsnCache g.toNat = false → a % n = 0 → protected_ s a = false → lineOk s (a / 64) = true →
    let near := 128 ≤ g.toNat ∨ runsNear s a = true
    let new := leBytes n (amoNew op (8 * n) (leNat old) src.toNat cmp.toNat)
    Quiet s → dirGet s (a / 64) = none → s.mem.ce = [] → ueIn s (a / 64 * 64) 64 = none →
      (¬near → cacheGet s g.toNat (a / 64) = none → Completes (.nearAtomic g addr op dbl src cmp .ok) s (fun t =>
        t.out.getLast? = some (.oldValue g.toNat (if dbl then bytesWord old else sext 32 (leNat old))) ∧
        dirGet t (a / 64) = some (.owned g.toNat) ∧ (∃ c, cacheGet t g.toNat (a / 64) = some c ∧ c.modified = true) ∧
        (∀ j, j < n → byteAt t (a + j) = new.getD j 0) ∧ t.queues = s.queues ∧ t.seqs = s.seqs)) ∧
      (near → Completes (.nearAtomic g addr op dbl src cmp .ok) s (fun t =>
        t.out = s.out ++ [.oldValue g.toNat (if dbl then bytesWord old else sext 32 (leNat old))] ∧
        memGet t a n = new ∧ contGet t a = contGet s a - 1 ∧
        (∀ b, (b < a ∨ a + n ≤ b) → byteAt t b = byteAt s b) ∧ dirGet t (a / 64) = none ∧ t.queues = s.queues ∧
        t.seqs = s.seqs)) ∧
      (near → logOn s = false → Completes (.nearAtomic g addr op dbl src cmp (.second y z)) s (fun t =>
        t.out = s.out ∧ SameMemory s t ∧ bitAt t.err.sticky 2 = true ∧ t.queues = s.queues ∧ t.seqs = s.seqs)))

/-- Owners, holds and waiting (R336, R337, R345, R346). PutM and an invalidation of a Modified copy write it back and leave the
line U; a clean copy just goes. Within its hold an owner keeps the line: an invalidation does nothing and a request waits;
once the hold is over the request that waited has its effect. A request older than the age is aged, and its slice says so.
That an access which is part of another command comes to its line after every request that waits there is the MODEL'S CHOICE
(log 34). -/
def Obligations.DirectoryHolds : Prop :=
  ∀ (s : State) (g h : BitVec 8) (line : BitVec 56) (c : CLine) (stamp : Word),
    let l := line.toNat
    let o := g.toNat
    (∀ a, (lineTurn s a l).dir.waiting.filter (fun r => r.line = l) = []) ∧
    (cacheGet s o l = some c → c.data.length = 64 → ChannelsQuiet s → s.dir.bad = [] →
      (c.modified = true → s.dir.waiting = [] → Completes (.putm g line) s (fun t => dirGet t l = none ∧
        cacheGet t o l = none ∧ (∀ j, j < 64 → byteAt t (l * 64 + j) = c.data.getD j 0) ∧ t.queues = s.queues ∧
        t.seqs = s.seqs)) ∧
      (c.modified = false → exec (.putm g line) s = .next s) ∧
      (c.modified = true → s.dir.waiting = [] → c.holdEnd ≤ s.tb.time.toNat → Completes (.invalidate g line) s (fun t =>
        dirGet t l = none ∧ cacheGet t o l = none ∧ ∀ j, j < 64 → byteAt t (l * 64 + j) = c.data.getD j 0)) ∧
      (c.modified = true → s.dir.waiting = [] → s.tb.time.toNat < c.holdEnd → exec (.invalidate g line) s = .next s) ∧
      (∀ m, c.modified = false → dirGet s l = some (.shared m) → Completes (.invalidate g line) s (fun t =>
        cacheGet t o l = none ∧ t.mem = s.mem ∧
        dirGet t l = (if (sdel m o).isEmpty then none else some (.shared (sdel m o))))) ∧
      (dirGet s l = some (.owned o) → h ≠ g → c.modified = true → lineOk s l = true → holdsM h.toNat = true →
        cacheGet s h.toNat l = none →
        (s.dir.waiting = [] → s.tb.time.toNat < c.holdEnd → Completes (.getm h line) s (fun t =>
          t.dir.waiting = [{ agent := h.toNat, line := l, stamp := s.tb.time, cmd := .getm h line }] ∧
          t.caches = s.caches ∧ t.mem = s.mem ∧ t.out = s.out)) ∧
        (s.dir.waiting = [{ agent := h.toNat, line := l, stamp := stamp, cmd := .getm h line }] → c.holdEnd ≤ s.tb.time.toNat →
          Completes (.holdExpire g line) s (fun t => t.dir.waiting = [] ∧ cacheGet t o l = none ∧
            dirGet t l = some (.owned h.toNat) ∧ cacheGet t h.toNat l = some ⟨true, c.data, s.tb.time.toNat + holdNs s⟩ ∧
            t.out.getLast? = some (.lineData h.toNat l c.data))) ∧
        (s.dir.waiting = [{ agent := h.toNat, line := l, stamp := stamp, cmd := .getm h line }] →
          (stamp.toNat + ageNs s < s.tb.time.toNat → Completes (.requestAged h line stamp) s (fun t =>
            bitAt (tget t.dir.status 0 (homeSlice l)) 0 = true ∧ t.dir.waiting = [] ∧ dirGet t l = some (.owned h.toNat) ∧
            cacheGet t o l = none)) ∧
          (s.tb.time.toNat ≤ stamp.toNat + ageNs s → exec (.requestAged h line stamp) s = .next s))) ∧
      (s.tb.time.toNat < c.holdEnd → exec (.holdExpire g line) s = .next s))

/-- The Cleat, the channel and MBX_CFG (R351, R353 to R355, R357). An access that passes the tenant check: a claim on a free
Cleat wins and returns 0, any other returns the owner; an OWNER of 0 from the owner frees it, from a physical function too,
whoever owns it, with FORCED, and any other write sets CLEAT_ERR. A push appends where 16 words are not yet held, and else
sets OVERRUN; a pop returns the oldest word, and 0 with UNDERRUN where there is none. MBX_CFG takes a physical function's
writes alone. No command touches another mailbox.

Doorbells (R351, R356, R357). A ring sets VALUE and PEND unless a ring or an acknowledgement is outstanding, which sets
DB_ERR; an acknowledgement sets CODE and DONE and clears PEND, and without a ring sets DB_ERR; collecting returns DONE and
CODE and clears DONE. An access that fails the tenant check has no effect but TENANT_ERR, and reads 0; one that cannot reach
the window has none. -/
def Obligations.Mailboxes : Prop :=
  (∀ (s : State) (a : Acc) (m : Fin 64) (v : Word),
    mbxReach s a = true → accDrain s a = s → mbxTenant s a m.val = true →
    let k := m.val
    let x := mbxOf s k
    let others (t : State) : Prop := (∀ j, j ≠ k → mbxOf t j = mbxOf s j) ∧ t.mem = s.mem ∧ t.seqs = s.seqs ∧ t.queues = s.queues
    let gives (t : State) (off : Nat) (w : Word) : Prop := t.out.getLast? = some (.csrValue a (mbxAddr k off) w)
    let flagged (t : State) (i : Nat) : Prop := mbxOf t k = { x with sticky := x.sticky ||| BitVec.ofNat 64 (2 ^ i) }
    let counts (t : State) (c : Nat) : Prop :=
      tget t.ctrs 0 (0x9400 + k * 8 + c) = tget s.ctrs 0 (0x9400 + k * 8 + c) + 1
    let quiet (t : State) : Prop := t.ctrs = s.ctrs
    Completes (.cleatClaim a m) s (fun t => others t ∧ gives t 0x08 (BitVec.ofNat 64 x.owner) ∧
      mbxOf t k = { x with owner := if x.owner = 0 then accNumber a else x.owner }) ∧
    Completes (.cleatWrite a m v) s (fun t => others t ∧
      (fld v 7 0 = 0 → x.owner = accNumber a → isPF a = false → mbxOf t k = { x with owner := 0 }) ∧
      (fld v 7 0 = 0 → isPF a = true →
        mbxOf t k = { x with owner := 0, sticky := x.sticky ||| BitVec.ofNat 64 (2 ^ 9) }) ∧
      ((fld v 7 0 ≠ 0 ∨ (x.owner ≠ accNumber a ∧ isPF a = false)) → flagged t 8)) ∧
    Completes (.mbxATx a m v) s (fun t => others t ∧
      (x.ab.length < 16 → mbxOf t k = { x with ab := x.ab ++ [v] } ∧ counts t 0) ∧
      (16 ≤ x.ab.length → flagged t 0 ∧ quiet t)) ∧
    Completes (.mbxBTx a m v) s (fun t => others t ∧
      (x.ba.length < 16 → mbxOf t k = { x with ba := x.ba ++ [v] } ∧ counts t 2) ∧
      (16 ≤ x.ba.length → flagged t 1 ∧ quiet t)) ∧
    Completes (.mbxBRx a m) s (fun t => others t ∧
      (∀ w r, x.ab = w :: r → gives t 0x18 w ∧ mbxOf t k = { x with ab := r } ∧ counts t 1) ∧
      (x.ab = [] → gives t 0x18 0 ∧ flagged t 2 ∧ quiet t)) ∧
    Completes (.mbxARx a m) s (fun t => others t ∧
      (∀ w r, x.ba = w :: r → gives t 0x28 w ∧ mbxOf t k = { x with ba := r } ∧ counts t 3) ∧
      (x.ba = [] → gives t 0x28 0 ∧ flagged t 3 ∧ quiet t)) ∧
    Completes (.mbxCfgWrite a m v) s (fun t => others t ∧
      (isPF a = true → mbxOf t k = { x with cfg := v &&& 0x00000FFF000001FF#64 }) ∧ (isPF a = false → flagged t 6))) ∧
  (∀ (s : State) (a : Acc) (m : Fin 64) (v : Word), accDrain s a = s →
    let k := m.val
    let x := mbxOf s k
    let off (w : Word) (i : Nat) : Word := w ||| BitVec.ofNat 64 (2 ^ i)
    let code := BitVec.ofNat 16 (fld v 47 32)
    let others (t : State) : Prop := (∀ j, j ≠ k → mbxOf t j = mbxOf s j) ∧ t.mem = s.mem ∧ t.seqs = s.seqs ∧ t.queues = s.queues
    let gives (t : State) (o : Nat) (w : Word) : Prop := t.out.getLast? = some (.csrValue a (mbxAddr k o) w)
    let counts (t : State) (c : Nat) : Prop :=
      tget t.ctrs 0 (0x9400 + k * 8 + c) = tget s.ctrs 0 (0x9400 + k * 8 + c) + 1
    let done (d : Bool) (c : BitVec 16) : Word := BitVec.ofNat 64 ((if d then 65536 else 0) + c.toNat)
    (mbxReach s a = true → mbxTenant s a k = true →
      Completes (.mbxDbAb a m v) s (fun t => others t ∧
        (x.pendAB = false → x.doneAB = false →
          mbxOf t k = { x with dbAB := v.setWidth 32, pendAB := true } ∧ counts t 4) ∧
        (x.pendAB = true ∨ x.doneAB = true → mbxOf t k = { x with sticky := off x.sticky 4 } ∧ t.ctrs = s.ctrs)) ∧
      Completes (.mbxDbBa a m v) s (fun t => others t ∧
        (x.pendBA = false → x.doneBA = false →
          mbxOf t k = { x with dbBA := v.setWidth 32, pendBA := true } ∧ counts t 6) ∧
        (x.pendBA = true ∨ x.doneBA = true → mbxOf t k = { x with sticky := off x.sticky 5 } ∧ t.ctrs = s.ctrs)) ∧
      Completes (.ackAbPost a m v) s (fun t => others t ∧
        (x.pendAB = true → mbxOf t k = { x with codeAB := code, doneAB := true, pendAB := false } ∧ counts t 5) ∧
        (x.pendAB = false → mbxOf t k = { x with sticky := off x.sticky 4 } ∧ t.ctrs = s.ctrs)) ∧
      Completes (.ackBaPost a m v) s (fun t => others t ∧
        (x.pendBA = true → mbxOf t k = { x with codeBA := code, doneBA := true, pendBA := false } ∧ counts t 7) ∧
        (x.pendBA = false → mbxOf t k = { x with sticky := off x.sticky 5 } ∧ t.ctrs = s.ctrs)) ∧
      Completes (.ackAbCollect a m) s (fun t => others t ∧ gives t 0x38 (done x.doneAB x.codeAB) ∧
        mbxOf t k = { x with doneAB := false }) ∧
      Completes (.ackBaCollect a m) s (fun t => others t ∧ gives t 0x48 (done x.doneBA x.codeBA) ∧
        mbxOf t k = { x with doneBA := false })) ∧
    (mbxReach s a = true → mbxTenant s a k = false →
      (∀ c ∈ [Instr.cleatWrite a m v, .mbxATx a m v, .mbxBTx a m v, .mbxDbAb a m v, .mbxDbBa a m v, .ackAbPost a m v,
          .ackBaPost a m v], Completes c s (fun t =>
        others t ∧ mbxOf t k = { x with sticky := off x.sticky 7 } ∧ t.out = s.out)) ∧
      (∀ c ∈ [(Instr.cleatClaim a m, 0x08), (.mbxBRx a m, 0x18), (.mbxARx a m, 0x28), (.ackAbCollect a m, 0x38),
          (.ackBaCollect a m, 0x48)], Completes c.1 s (fun t =>
        others t ∧ mbxOf t k = { x with sticky := off x.sticky 7 } ∧ gives t c.2 0))) ∧
    (mbxReach s a = false → ∀ c ∈ [Instr.cleatWrite a m v, .mbxATx a m v, .mbxBTx a m v, .mbxDbAb a m v, .mbxDbBa a m v,
      .ackAbPost a m v, .ackBaPost a m v, .mbxCfgWrite a m v], exec c s = .next s))

/-! ## Host ports, registers, fabric -/

/-- A host's accesses through BAR2 and BAR4 (R343, R361, R363 to R365, R409). A physical function's BAR2 is node memory, a
virtual function's its aperture. A read returns what an observer reads and changes nothing; a write changes the bytes it
names and no others; a write into a code region is dropped with CODE_WRITE. An AtomicOp returns the old value and writes the
new one; a 128-bit CAS is aborted. What is not mapped answers Unsupported Request. The layout of BAR4 (vector control at
16k + 12), and that a vector unmasked there is sent if it was pending, are the MODEL'S CHOICE (log 63). -/
def Obligations.HostMemory : Prop :=
  ∀ (s : State) (a : Acc) (off len addr : Nat) (data : List Byte) (op : HostOp) (dbl : Bool) (src cmp : Word),
    hostServed s a = true →
    (∀ p, a = .pf p → off < 2 ^ 42 → inNode off = true → mapped s off = true → hostAt s a 2 off = .mem off) ∧
    (∀ p v, a = .vf p v → let c := vfCfg s p v
      let x := fld c 55 30 * 2 ^ 30 + off
      off < aperGib c * 2 ^ 30 → inNode x = true → mapped s x = true → hostAt s a 2 off = .mem x) ∧
    exec (.hostAtomic a 2 off .cas128 dbl src cmp .ok) s = .next (emit s (.hostAbort a)) ∧
    (∀ p k, a = .pf p → k < 64 → Completes (.hostMemWrite a 4 (16 * k + 12) [0, 0, 0, 0]) s (fun t =>
      let x := tget (hostOf t p).msix {} (msixKey 0 k)
      x.masked = false ∧ x.data = (tget (hostOf s p).msix {} (msixKey 0 k)).data ∧ t.mem = s.mem ∧
      (msixKey 0 k ∈ (hostOf s p).pba → t.out = s.out ++ [.msix p 0 k] ∧ msixKey 0 k ∉ (hostOf t p).pba) ∧
      (msixKey 0 k ∉ (hostOf s p).pba → t.out = s.out ∧ (hostOf t p).pba = (hostOf s p).pba))) ∧
    (hostAt s a 2 off = .mem addr → Coherent s → Quiet s → s.dir.bad = [] → s.mem.ce = [] →
      (tlpOk off len 4096 = true → ueIn s addr len = none → Completes (.hostMemRead a 2 off len) s (fun t =>
        t.out = s.out ++ [.hostRead a ((List.range len).map (fun j => byteAt s (addr + j)))] ∧ SameMemory s t ∧
        t.queues = s.queues ∧ t.seqs = s.seqs)) ∧
      (tlpOk off data.length 512 = true → ueIn s addr data.length = none → protected_ s addr = false →
        Completes (.hostMemWrite a 2 off data) s (fun t =>
          (∀ j, j < data.length → byteAt t (addr + j) = data.getD j 0) ∧
          (∀ b, (b < addr ∨ addr + data.length ≤ b) → byteAt t b = byteAt s b) ∧ t.out = s.out ∧ t.queues = s.queues ∧
          t.seqs = s.seqs)) ∧
      (tlpOk off data.length 512 = true → protected_ s addr = true →
        exec (.hostMemWrite a 2 off data) s = .next (hostFlag s (accPort a) 2)) ∧
      (let n := amoSize dbl
       let old := (List.range n).map (fun j => byteAt s (addr + j))
       op ≠ .cas128 → off % n = 0 → addr % n = 0 → ueIn s addr n = none → protected_ s addr = false →
        Completes (.hostAtomic a 2 off op dbl src cmp .ok) s (fun t =>
          t.out = s.out ++ [.hostOld a (BitVec.ofNat 64 (leNat old))] ∧
          (∀ j, j < n → byteAt t (addr + j) =
            (leBytes n (amoNew (hostAmo op) (8 * n) (leNat old) src.toNat cmp.toNat)).getD j 0) ∧
          (∀ b, (b < addr ∨ addr + n ≤ b) → byteAt t b = byteAt s b) ∧ t.queues = s.queues ∧ t.seqs = s.seqs))) ∧
    (hostAt s a 2 off = .unmapped → tlpOk off len 4096 = true →
      exec (.hostMemRead a 2 off len) s = .next (emit s (.hostUR a)) ∧
      (tlpOk off data.length 512 = true → exec (.hostMemWrite a 2 off data) s = .next s) ∧
      (op ≠ .cas128 → off % amoSize dbl = 0 → exec (.hostAtomic a 2 off op dbl src cmp .ok) s = .next (emit s (.hostUR a))))

/-- The loss and the return of a port, time-outs, function resets, poisoned TLPs (R361, R372, R373, R375, R377). A port that is
lost says so once, counts a port event, fails the descriptors with an access to its window and stops its ring pairs, which
mirror and post nothing from then on; every Sequencer and every other descriptor, of whatever queue, is as it was. A new
enumeration makes it live again. A read of host memory times out only once CTO_MS, 0 taken as 1, has passed. That a reset of
a function masks its MSI-X vectors is the MODEL'S CHOICE (log 63). -/
def Obligations.PortEvents : Prop :=
  ∀ (s : State) (p : HostPort) (k : Fin 64) (f : Fin 32) (w sp : BitVec 4), QueuesBounded s →
    let h := hostOf s p
    let event (t : State) : Prop := tget t.ctrs 0 (0x9300 + portNum p) = tget s.ctrs 0 (0x9300 + portNum p) + 1
    let rests (t : State) : Prop := t.seqs = s.seqs ∧ t.queues = s.queues
    (hostLost s p = false → ∀ c ∈ [Instr.portLost p, .perstNAssert p], Completes c s (fun t =>
      hostLost t p = true ∧ (hostOf t p).linkUp = false ∧ bitAt (hostOf t p).sticky 5 = true ∧ event t ∧ t.seqs = s.seqs ∧
      (∀ q j d x, entryAt s q j = some d → d.st = .running x →
        (t3Extents s (qClass q) d).any (fun y => overlaps y.1 y.2 (windowBase p) (2 ^ 44)) = true → Finished t q j d cMemerr) ∧
      ((s.queues.map Prod.fst).Nodup → ∀ q, (queueOf t q).retired = (queueOf s q).retired ∧
        ∀ j d, entryAt s q j = some d → meets s q d (windowBase p) (2 ^ 44) = false → entryAt t q j = some d) ∧
      (∀ (o : HostPort) (r : Fin 64) (data : BitVec 512), (ringOf t o r.val).owner = p →
        exec (.sqEntryMirror o r data) t = .next t ∧ exec (.cqPost o r) t = .next t))) ∧
    (hostLost s p = true → ∀ c ∈ [Instr.portLost p, .perstNAssert p, .cto p (some k), .cto p none, .flr p (some f),
      .flr p none, .poisonedTlp p], exec c s = .next s) ∧
    (s.boot.alive = true → h.dead = false → linkWidthOk w.toNat = true → sp ≠ 0 → sp.toNat ≤ 6 →
      Completes (.linkUp p w sp) s (fun t => hostLost t p = false ∧ (hostOf t p).linkUp = true ∧ (hostOf t p).width = w ∧
        (hostOf t p).speed = sp ∧ (h.linkUp = false → event t) ∧ rests t ∧ t.mem = s.mem)) ∧
    (hostLost s p = false →
      (t3Running s p = [] → exec (.cto p none) s = .next s) ∧
      (t3Running s p ≠ [] → Completes (.cto p none) s (fun t => bitAt (hostOf t p).sticky 3 = true ∧ t.seqs = s.seqs ∧
        (logOn s = false → ∃ y ∈ t3Running s p, ∀ d, entryAt s y.1 y.2 = some d → Finished t y.1 y.2 d cMemerr))) ∧
      ((∀ q, fetchLate s p q k.val = false) → exec (.cto p (some k)) s = .next s) ∧
      ((∃ q, fetchLate s p q k.val = true) → Completes (.cto p (some k)) s (fun t =>
        bitAt (hostOf t p).sticky 3 = true ∧ rests t ∧ ∀ q, fetchLate s p q k.val = true →
          ringOn (ringOf t q k.val) = false ∧ (ringOf t q k.val).fetch = (ringOf t q k.val).sqTail)) ∧
      (∀ q, fetchLate s p q k.val = true ↔ (ringOf s q k.val).owner = p ∧ ringOn (ringOf s q k.val) = true ∧
        (ringOf s q k.val).fetch ≠ (ringOf s q k.val).sqTail ∧
        (ringOf s q k.val).fetchAt.toNat + max 1 (fld h.ctl 47 40) * 1000000 ≤ s.tb.time.toNat) ∧
      Completes (.flr p none) s (fun t => bitAt (hostOf t p).sticky 4 = true ∧ event t ∧ rests t ∧ t.mem = s.mem) ∧
      Completes (.flr p (some f)) s (fun t => bitAt (hostOf t p).sticky 4 = true ∧ rests t ∧ t.mem = s.mem ∧
        (∀ j, j < 64 → (tget (hostOf t p).msix {} (msixKey (f.val + 1) j)).masked = true) ∧
        ∀ q i, (ringOf s q i).owner = p → ringFunc (ringOf s q i) = f.val + 1 → ringOn (ringOf t q i) = false) ∧
      exec (.poisonedTlp p) s = .next (hostFlag s p 3))

/-- Ring pairs (R367 to R370). The owner's doorbell within the bounds makes its entries due for the mirror, any other sets the
port's RING_ERR; the next entry goes to its mirror slot and counts; SQ_HEAD and CQ_TAIL move within their bounds and set
RING_ERR outside; an entry is posted with its phase and SQ_HEAD, unless the ring is full, which sets CQ_FULL; the interrupt
covers what was posted, at the count or when its time has passed.

RP_CFG, HST_IRQ_TRIG and HST_TAKEOVER (R371, R374, R377). A pair enters service with its pointers at 0 where its buffers may
be used, and its sizes hold while it is in service; otherwise RING_ERR. A trigger raises its vector on the physical
function: its message leaves, or where the host masks the vector its pending bit is set, which is the MODEL'S CHOICE (log
63), as is that a trigger of value 0 raises vector 0 (log 23). The other port takes a pair whose owner's port is lost, or
that allows it, out of service with no bases; that a bit names the pairs of its number in both windows is the MODEL'S CHOICE
(log 76). -/
def Obligations.RingPairs : Prop :=
  (∀ (s : State) (a : Acc) (p : HostPort) (kk : Fin 64) (v : Word) (data : BitVec 512),
    let k := kk.val
    let r := ringOf s p k
    let t16 := v.extractLsb' 0 16
    let slot := r.mirror.toNat + r.sqTail.toNat % sqLen r * 64
    let rests (t : State) : Prop := t.seqs = s.seqs ∧ t.queues = s.queues
    let n := fld r.cfg 23 16
    let err : State := updRing s p k (fun r => { r with cfg := r.cfg ||| 2 })
    (doorReach s a p = true → accDrain s a = s →
      (ownsRing r a = true → ringOn r = true → (t16 - r.sqHead).toNat ≤ sqLen r → (t16 - r.sqTail).toNat ≤ sqLen r →
        exec (.sqDoorbell a p kk v) s = .next (if (r.fetch - r.sqTail).toNat ≤ (t16 - r.sqTail).toNat
          then updRing s p k (fun r => { r with fetch := t16, fetchAt := if r.fetch = r.sqTail then s.tb.time else r.fetchAt })
          else s)) ∧
      (ownsRing r a = true → ringOn r = true → (t16 - r.cqHead).toNat ≤ cqLen r → (t16 - r.posted).toNat ≤ cqLen r →
        exec (.cqDoorbell a p kk v) s = .next (updRing s p k (fun r => { r with cqHead := t16 }))) ∧
      ((ownsRing r a = false ∨ ringOn r = false ∨ sqLen r < (t16 - r.sqHead).toNat ∨ sqLen r < (t16 - r.sqTail).toNat) →
        exec (.sqDoorbell a p kk v) s = .next (hostFlag s p 0)) ∧
      ((ownsRing r a = false ∨ ringOn r = false ∨ cqLen r < (t16 - r.cqHead).toNat ∨ cqLen r < (t16 - r.posted).toNat) →
        exec (.cqDoorbell a p kk v) s = .next (hostFlag s p 0))) ∧
    (ringOn r = true → hostLost s r.owner = false → r.fetch ≠ r.sqTail → r.mirror.toNat % 64 = 0 → Quiet s →
      s.dir.bad = [] →
      Completes (.sqEntryMirror p kk data) s (fun t => rests t ∧
        ringOf t p k = { r with sqTail := r.sqTail + 1, fetchAt := t.tb.time } ∧
        (∀ j, j < 64 → byteAt t (slot + j) = data.extractLsb' (8 * j) 8) ∧
        tget t.ctrs 0 (0x9200 + portNum p * 0x80 + k) = tget s.ctrs 0 (0x9200 + portNum p * 0x80 + k) + 1)) ∧
    (r.fetch = r.sqTail → exec (.sqEntryMirror p kk data) s = .next s) ∧
    (accOk s (.pf p) = true →
      exec (.sqHeadWrite (.pf p) p kk v) s = .next (if (t16 - r.sqHead).toNat ≤ (r.sqTail - r.sqHead).toNat
        then updRing s p k (fun r => { r with sqHead := t16 }) else err) ∧
      exec (.cqTailWrite (.pf p) p kk v) s = .next (if (t16 - r.posted).toNat ≤ cqLen r
        then updRing s p k (fun r => { r with cqTail := t16 }) else err)) ∧
    (ringOn r = true → hostLost s r.owner = false → r.posted ≠ r.cqTail →
      let i := r.posted.toNat
      let x := nodeRead s (portWho r.owner) (r.stage.toNat + i % cqLen r * 64) 56
      let w7 := BitVec.ofNat 64 (r.sqHead.toNat * 2 ^ 48 + (if i / cqLen r % 2 = 0 then 1 else 0))
      let due := n ≠ 0 ∧ (n ≤ r.uncovered + 1 ∨ fld r.cfg 31 24 = 0)
      (cqLen r ≤ (r.posted - r.cqHead).toNat →
        exec (.cqPost p kk) s = .next (updRing s p k (fun r => { r with cfg := r.cfg ||| 4 }))) ∧
      ((r.posted - r.cqHead).toNat < cqLen r → x.ok = true → Completes (.cqPost p kk) s (fun t => rests t ∧
        (∃ l, t.out = x.s.out ++ .hostPost r.owner (r.cqBase.toNat + i % cqLen r * 64) (x.data ++ wordBytes w7) :: l) ∧
        (ringOf t p k).posted = r.posted + 1 ∧ (ringOf t p k).sqHead = r.sqHead ∧
        (due → (ringOf t p k).uncovered = 0) ∧ (¬due → (ringOf t p k).uncovered = r.uncovered + 1)))) ∧
    (r.posted = r.cqTail → exec (.cqPost p kk) s = .next s) ∧
    (let due := r.uncovered ≠ 0 ∧ n ≠ 0 ∧ r.firstAt.toNat + fld r.cfg 31 24 * 1000 ≤ s.tb.time.toNat
     (due → exec (.coalTimer p kk) s =
       .next (raiseIrq (updRing s p k (fun r => { r with uncovered := 0 })) r.owner (ringFunc r) (fld r.cfg 37 32))) ∧
     (¬due → exec (.coalTimer p kk) s = .next s))) ∧
  (∀ (s : State) (p q : HostPort) (kk : Fin 64) (v : Word), accOk s (.pf p) = true →
    let k := kk.val
    let r := ringOf s q k
    let err : State := updRing s q k (fun r => { r with cfg := r.cfg ||| 2 })
    (ringOn r = true → fld v 15 8 ≠ fld r.cfg 15 8 → exec (.rpCfgWrite (.pf p) q kk v) s = .next err) ∧
    (ringOn r = false → bitAt v 0 = true → ringBufsOk s r v = false → exec (.rpCfgWrite (.pf p) q kk v) s = .next err) ∧
    (ringOn r = false → bitAt v 0 = true → ringBufsOk s r v = true → Completes (.rpCfgWrite (.pf p) q kk v) s (fun t =>
      let x := ringOf t q k
      ringOn x = true ∧ fld x.cfg 15 8 = fld v 15 8 ∧ fld x.cfg 47 40 = fld v 47 40 ∧ x.sqTail = 0 ∧ x.sqHead = 0 ∧
      x.cqTail = 0 ∧ x.cqHead = 0 ∧ x.posted = 0 ∧ x.owner = r.owner ∧ x.sqBase = r.sqBase ∧ x.cqBase = r.cqBase)) ∧
    (bitAt v 0 = false → (ringOn r = true → fld v 15 8 = fld r.cfg 15 8) → Completes (.rpCfgWrite (.pf p) q kk v) s (fun t =>
      ringOn (ringOf t q k) = false ∧ (ringOf t q k).sqTail = r.sqTail ∧ (ringOf t q k).cqHead = r.cqHead)) ∧
    (hostLost s q = false → fld v 15 8 = 0 →
      let key := msixKey 0 (fld v 5 0)
      exec (.hstIrqTrig (.pf p) q v) s = .next (if (tget (hostOf s q).msix {} key).masked
        then updHost s q (fun h => { h with pba := sadd h.pba key }) else emit s (.msix q 0 (fld v 5 0)))) ∧
    (q = otherPort p → v = BitVec.ofNat 64 (2 ^ k) → (ringOf s p k).owner = p →
      (mayTake s p q k = true → Completes (.hstTakeover (.pf p) p v) s (fun t =>
        (ringOf t q k).owner = p ∧ ringOn (ringOf t q k) = false ∧ ringFunc (ringOf t q k) = 0 ∧ (ringOf t q k).sqBase = 0 ∧
        (ringOf t q k).cqBase = 0 ∧ (ringOf t q k).mirror = r.mirror ∧ (ringOf t q k).sqHead = r.sqHead ∧
        ringOf t p k = ringOf s p k ∧ t.mem = s.mem ∧ t.queues = s.queues ∧ t.seqs = s.seqs)) ∧
      (mayTake s p q k = false → exec (.hstTakeover (.pf p) p v) s = .next (hostFlag s p 0))))

/-- Reaching a register by its address (R11, R363, R490, R493, R494). A write that is not aligned, names no listed window, or
comes from a virtual function outside the mailbox window changes nothing; a read-only register keeps its value; writable
bits take the value written and no others, and a read gives them back; W1C bits clear where written 1. A read of a register
with an RC field returns it and clears it; of any other it changes nothing.

Who writes a register (R48, R363, R365, R493): a Sequencer's write of a register that takes no account of its writer acts
once its earlier stores are performed, and then as a physical function's does (a row whose bit the word does not set is no
write of that row); HST_TAKEOVER takes a physical function's writes alone; a virtual function writes none of these. -/
def Obligations.RegisterSpace : Prop :=
  (∀ (s : State) (p : HostPort) (a : Acc) (f : Fin 32) (addr : BitVec 56) (v : Word) (u : Nat),
    accOk s (.pf p) = true →
    let at_ (w o : Nat) : BitVec 56 := BitVec.ofNat 56 (0x100000000 + w * 65536 + o)
    (csrAddr addr.toNat = false → exec (.registerWrite a addr v) s = .next s ∧ exec (.rcFieldRead a addr) s = .next s) ∧
    (csrWin addr.toNat ≠ 8 → exec (.registerWrite (.vf p f) addr v) s = .next s) ∧
    (hasRc (csrWin addr.toNat) (csrOff addr.toNat) = false → exec (.rcFieldRead a addr) s = .next s) ∧
    exec (.registerWrite (.pf p) (at_ 1 0) v) s = .next s ∧
    exec (.registerWrite (.pf p) (at_ 7 0) v) s =
      .next { s with dir := { s.dir with ctl := v &&& 0x0000FFFFFFFF0003#64 } } ∧
    exec (.registerWrite (.pf p) (at_ 9 0) v) s =
      .next (updHost s .a (fun h => { h with ctl := v &&& 0x0000FF0000000001#64 })) ∧
    (let back (w o : Nat) (m : Word) : Prop := Completes (.registerWrite (.pf p) (at_ w o) v) s (fun t =>
        (csrRead t (.pf p) (at_ w o).toNat).1 = v &&& m)
     back 7 0 0x0000FFFFFFFF0003#64 ∧ back 9 0 0x0000FF0000000001#64 ∧ back 9 0x4000 0x0000FF0000000001#64 ∧
     (u < 32 → back 9 (0x100 + u * 16) 0x00FFFFFFC0FF1FFF#64) ∧ (u < 64 → back 9 (0x400 + u * 8) 0xFF3F#64) ∧
     back 0xA 0 0x000007FFFF07FFFF#64 ∧ back 0xA 0x10 0x00FFFFFFFFFFFFC0#64 ∧ back 0xA 0x18 0x00FFFFFFFFFFFFC0#64 ∧ back 0xA 0xF00 0xFFFF#64 ∧
     (u < 512 → back 0xB (u * 16) 0xFF01#64) ∧ (u < 16 → back 0x20 (u * 32) 0x000FFFFF00000003#64) ∧
     (u < 4 → back 0x25 (u * 32) 0x000FFFFF00000001#64) ∧ (u < 16 → back 0x22 (0x4100 + u * 16) 0x00FFFFFFFFFFFFFF#64) ∧
     (u < 16 → back 0x22 (0x4108 + u * 16) 0x00FFFFFFFFFFFFFF#64) ∧ back 0x24 0x1000 0x0000FFFFFFFF0001#64) ∧
    (u < 16 → Completes (.registerWrite (.pf p) (at_ 0x20 (u * 32 + 8)) v) s (fun t =>
      (tget t.mxe mxeReset u).stat = (tget s.mxe mxeReset u).stat &&& ~~~(v &&& 0xF#64) ∧
      (tget t.mxe mxeReset u).mon = (tget s.mxe mxeReset u).mon ∧ t.mem = s.mem ∧ t.queues = s.queues ∧ t.seqs = s.seqs)) ∧
    (u < 32 → Completes (.rcFieldRead (.pf p) (at_ 0x21 (u * 32 + 8))) s (fun t =>
      t.out = s.out ++ [.csrValue (.pf p) (0x100210000 + u * 32 + 8) (rdDseRerank s u)] ∧
      dseOf t u = { dseOf s u with lateData := 0 })) ∧
    (u < 64 → Completes (.rcFieldRead (.pf p) (at_ 0x22 (u * 32 + 8))) s (fun t =>
      t.out = s.out ++ [.csrValue (.pf p) (0x100220000 + u * 32 + 8) (rdGweCtx s u)] ∧
      tget t.gwe {} u = { tget s.gwe {} u with peak := 0 }))) ∧
  (∀ (s : State) (n : Fin 64) (p q : HostPort) (f : Fin 32) (v : Word) (m : Fin 64) (qu : BitVec 16) (ch : Fin 512)
    (fl mo : Fin 4) (size : Bool) (r : Fin 256) (d : Fin 8) (w : Fin 16) (c : Fin 3),
    let u := accDrain s (.seq n)
    let rows : List ((Acc → Instr) × Bool) :=
      [(fun a => .bootRailCtlWrite a v, true), (fun a => .tbsSet a v, true), (fun a => .seqStart a m v, bitAt v 0),
       (fun a => .seqStop a m v, bitAt v 1), (fun a => .seqHandoverWrite a m v, true), (fun a => .flush a qu v, true),
       (fun a => .queueResume a qu v, true), (fun a => .gweUpdTailWrite a v, true),
       (fun a => .gweHorizonWrite a v, true), (fun a => .gweUpdCtlWrite a v, true),
       (fun a => .mchChmodeWrite a ch v, true), (fun a => .nbuCtlWrite a ch v, true),
       (fun a => .mount a fl v, bitAt v 0), (fun a => .format a fl v, bitAt v 1),
       (fun a => .fleMapWrite a fl size v, true), (fun a => .fleGcCtlWrite a fl v, true),
       (fun a => .modAdmit a fl mo v, bitAt v 0), (fun a => .evacuate a fl mo v, bitAt v 1),
       (fun a => .powerOff a fl mo v, bitAt v 3), (fun a => .sqHeadWrite a q m v, true),
       (fun a => .cqTailWrite a q m v, true), (fun a => .hstIrqTrig a q v, true), (fun a => .rpCfgWrite a q m v, true),
       (fun a => .hwsSqTailWrite a m v, true), (fun a => .hwsSqCfgWrite a m v, true),
       (fun a => .hwsRqHeadWrite a r v, true), (fun a => .arm a r v, bitAt v 0), (fun a => .disarm a r v, bitAt v 1),
       (fun a => .cmpEpochWrite a v, true), (fun a => .cmpNodeWrite a v, true), (fun a => .errBarrier a v, true),
       (fun a => .barClear a v, true), (fun a => .errLogBaseWrite a v, true), (fun a => .errPpCtlWrite a v, true),
       (fun a => .bootStageRel a v, true), (fun a => .quiesce a v, true), (fun a => .resume a v, true),
       (fun a => .reload a v, true), (fun a => .retire a v, true), (fun a => .migrate a v, true),
       (fun a => .recalHbm a v, true), (fun a => .recalHws a v, true), (fun a => .laneSpare a v, true),
       (fun a => .recalD2d a v, true), (fun a => .load a v, true), (fun a => .release a v, true),
       (fun a => .attest a v, true), (fun a => .lock a v, true), (fun a => .tstDelay a d v, true),
       (fun a => .tstWithhold a w v, true), (fun a => .tstClamp a c v, true), (fun a => .tstMemlat a mo v, true),
       (fun a => .tstLinkdrop a v, true)]
    (accOk s (.seq n) = true → accOk u (.pf p) = true → ∀ x ∈ rows, x.2 = true →
      exec (x.1 (.seq n)) s = exec (x.1 (.pf p)) u) ∧
    (accOk s (.seq n) = true → exec (.hstTakeover (.seq n) p v) s = .next u) ∧
    (∀ x ∈ rows, exec (x.1 (.vf p f)) s = .next s))

/-- Sending (R386 to R388, R392). HWS_SQ_TAIL and HWS_SQ_CFG take what fits and set CFG_ERR otherwise; a changed size with
entries left discards them, and the counter passes each. A whole entry becomes a message of this node in the queue of its
class on the egress port of its route, stamped when it gets there, and the head and the counter pass it. A port sends the
oldest message of the first class that has one and has credits, with its SENT; the message waits in the replay buffer and
its bytes are counted. -/
def Obligations.HawserSend : Prop :=
  ∀ (s : State) (h : HostPort) (kk : Fin 64) (pp : Fin 16) (v : Word) (credit : BitVec 8) (acked : Nat),
    let k := kk.val
    let x := sendOf s k
    let t16 := v.extractLsb' 0 16
    let c := v &&& 0x00000FFF00000F01#64
    let moves := fld c 11 8 ≠ fld x.cfg 11 8
    let flag : State := { s with hws := { s.hws with sticky := s.hws.sticky ||| 1 } }
    let counts (t : State) (n : Nat) : Prop :=
      tget t.ctrs 0 (0x9800 + k) = tget s.ctrs 0 (0x9800 + k) + BitVec.ofNat 64 n
    (accOk s (.pf h) = true →
      exec (.hwsSqTailWrite (.pf h) kk v) s = .next (if (t16 - x.head).toNat ≤ snLen x
        then updSend s k (fun x => { x with tail := t16 }) else flag) ∧
      (snOn x = true → moves → exec (.hwsSqCfgWrite (.pf h) kk v) s = .next flag) ∧
      (snOn x = false → bitAt v 0 = true → t0Size < x.base.toNat + 64 * 2 ^ fld c 11 8 →
        exec (.hwsSqCfgWrite (.pf h) kk v) s = .next flag) ∧
      (¬moves → (snOn x = true ∨ bitAt v 0 = false ∨ x.base.toNat + 64 * 2 ^ fld c 11 8 ≤ t0Size) →
        exec (.hwsSqCfgWrite (.pf h) kk v) s = .next (updSend s k (fun x => { x with cfg := c }))) ∧
      (moves → snOn x = false → bitAt v 0 = false → x.head ≠ x.tail → Completes (.hwsSqCfgWrite (.pf h) kk v) s (fun t =>
        sendOf t k = { x with cfg := c, head := x.tail } ∧ counts t (x.tail - x.head).toNat))) ∧
    ((snOn x = false ∨ x.head = x.tail ∨ s.boot.ready = false) → exec (.sendEntry kk) s = .next s) ∧
    (let w := hwsWho 0 (fld x.cfg 43 32)
     let r := nodeRead s w (x.base.toNat + x.head.toNat % snLen x * 64) 64
     let e := sendEntry r.data
     let d := nodeRead r.s w e.at_ e.len
     let m : Msg := { e.m with src := nodeNum s, tenant := fld x.cfg 43 32, payload := d.data }
     let out := egressPort (sendPass d.s k) m
     snOn x = true → x.head ≠ x.tail → s.boot.ready = true → r.ok = true →
       (∀ port, e.bad = false → (e.len = 0 ∨ (bufArea e.at_ false = true ∧ withinTier s e.at_ e.len = true)) →
         nodeNum s ≠ 0xFFFF → d.ok = true → out.1 = some port → Completes (.sendEntry kk) s (fun t =>
           tget (portOf t port).egress [] m.cls = tget (portOf s port).egress [] m.cls ++ [⟨m, out.2.tb.time, true⟩] ∧
           sendOf t k = { x with head := x.head + 1 } ∧ counts t 1 ∧ t.queues = s.queues ∧ t.seqs = s.seqs)) ∧
       (e.bad = true → Completes (.sendEntry kk) s (fun t =>
         sendOf t k = { x with head := x.head + 1 } ∧ counts t 1 ∧ t.hws.ports = s.hws.ports))) ∧
    (let p := pp.val
     let y := portOf s p
     (y.up = false → exec (.msgSend pp credit acked) s = .next (ackPort s p acked)) ∧
     (∀ cl q rest, y.up = true → cl < 8 → credit.getLsbD cl = true → tget y.egress [] cl = q :: rest →
       (∀ d, d < cl → credit.getLsbD d = true → tget y.egress [] d = []) → Completes (.msgSend pp credit acked) s (fun t =>
         let m : Msg := if q.fresh then { q.msg with sent := s.tb.time } else q.msg
         t.out = s.out ++ [.message p m] ∧ tget (portOf t p).egress [] cl = rest ∧
         (portOf t p).replay = y.replay.drop acked ++ [m] ∧
         (∀ d, d ≠ cl → tget (portOf t p).egress [] d = tget y.egress [] d) ∧ (∀ j, j ≠ p → portOf t j = portOf s j) ∧
         tget t.ctrs 0 (0x9840 + p * 8 + cl) =
           tget s.ctrs 0 (0x9840 + p * 8 + cl) + BitVec.ofNat 64 (64 + q.msg.payload.length) ∧ t.mem = s.mem)))

/-- Ports, receive rings, zones, composition (R379, R380, R385, R389, R394, R395, R400, R403). A trained link is up, degraded
below four lanes; a link that goes down, or whose partner is absent, leaves no message behind, and an absent partner's ARMED
zones become ORPHANED. A failing lane is spared, then the port halves its width. Each class is sampled. HWS_RQ_HEAD moves up
to the tail; ARM and DISARM set a zone's state. CMP_EPOCH steps by one with grace or is set at once without; CMP_NODE holds
while a send ring is enabled. -/
def Obligations.HawserControl : Prop :=
  ∀ (s : State) (h : HostPort) (pp : Fin 16) (rr zz : Fin 256) (v : Word) (w : BitVec 4) (n : BitVec 16) (acked : Nat),
    let p := pp.val
    let x := portOf s p
    let r := rr.val
    let z := zz.val
    let t16 := v.extractLsb' 0 16
    let flag : State := { s with hws := { s.hws with sticky := s.hws.sticky ||| 1 } }
    let cflag : State := { s with cmp := { s.cmp with sticky := s.cmp.sticky ||| 1 } }
    let trains := (w = 1 ∨ w = 2 ∨ w = 4) ∧ x.up = false ∧ x.dead = false ∧ s.boot.ready = true ∧ tfind s.tst.drops p = none
    let zone (st : ZoneSt) (t : State) : Prop := zoneOf t z = { zoneOf s z with
      src := fld v 63 48, tenant := fld v 43 32, st := st, landed := if st = .armed then 0 else (zoneOf s z).landed } ∧
      (∀ j, j ≠ z → zoneOf t j = zoneOf s j) ∧ t.mem = s.mem
    (trains → exec (.hwsLinkUp pp w n) s = .next (updPort
      (if w = 4 then s else { s with hws := { s.hws with sticky := s.hws.sticky ||| 2 } }) p (fun x => { x with
      up := true, width := w, partner := some n.toNat, sticky := if w = 4 then x.sticky else x.sticky ||| 2 }))) ∧
    (¬trains → exec (.hwsLinkUp pp w n) s = .next s) ∧
    (x.up = false → exec (.hwsLinkDown pp acked) s = .next s ∧ exec (.laneFailing pp) s = .next s) ∧
    (x.up = true → Completes (.hwsLinkDown pp acked) s (fun t => (portOf t p).up = false ∧ (portOf t p).width = 0 ∧
      bitAt (portOf t p).sticky 2 = true ∧ (portOf t p).egress = [] ∧ (portOf t p).replay = [] ∧ t.queues = s.queues ∧
      t.seqs = s.seqs ∧ t.hws.zones = s.hws.zones)) ∧
    (x.up = true → Completes (.laneFailing pp) s (fun t => t.mem = s.mem ∧ t.queues = s.queues ∧
      (x.spare = false → portOf t p = { x with spare := true } ∧ bitAt t.hws.sticky 1 = true) ∧
      (x.spare = true → 1 < x.width.toNat → (portOf t p).width.toNat = x.width.toNat / 2 ∧
        bitAt (portOf t p).sticky 1 = true ∧ bitAt t.hws.sticky 1 = true) ∧
      (x.spare = true → x.width.toNat ≤ 1 → t = s))) ∧
    (x.partner = none → exec (.partnerAbsent pp acked) s = .next s) ∧
    (∀ node, x.partner = some node → Completes (.partnerAbsent pp acked) s (fun t => (portOf t p).up = false ∧
      (portOf t p).partner = none ∧ bitAt (portOf t p).sticky 3 = true ∧ bitAt t.hws.sticky 4 = true ∧
      (x.up = true → bitAt (portOf t p).sticky 2 = true) ∧
      (portOf t p).egress = [] ∧ (∀ j, (zoneOf t j).st =
        (if (zoneOf s j).st = .armed ∧ (zoneOf s j).src = node then .orphaned else (zoneOf s j).st)) ∧
      t.queues = s.queues ∧ t.seqs = s.seqs)) ∧
    (s.tb.time.toNat < x.lastSample.toNat + max 1 (fld s.hws.ctl 15 0) * 1000 → exec (.qsample pp) s = .next s) ∧
    (x.lastSample.toNat + max 1 (fld s.hws.ctl 15 0) * 1000 ≤ s.tb.time.toNat → Completes (.qsample pp) s (fun t =>
      (∀ c, c < 8 → let l := tget x.egress [] c
        let d := match l with | [] => 0 | q :: _ => min 0xFFFF ((s.tb.time - q.at_).toNat / 1000)
        let y := tget t.hws.qsamp 0 (p * 8 + c)
        fld y 47 32 = d ∧ fld y 63 48 = max (fld (tget s.hws.qsamp 0 (p * 8 + c)) 63 48) d ∧
        fld y 31 16 = min 0xFFFF (queueBytes l / 1024)) ∧ (portOf t p).lastSample = s.tb.time ∧ t.mem = s.mem)) ∧
    (accOk s (.pf h) = true →
      exec (.hwsRqHeadWrite (.pf h) rr v) s = .next (if (t16 - (recvOf s r).head).toNat ≤ ((recvOf s r).tail - (recvOf s r).head).toNat
        then updRecv s r (fun x => { x with head := t16 }) else flag) ∧
      (bitAt v 0 = true → bitAt v 1 = true →
        exec (.arm (.pf h) zz v) s = .next flag ∧ exec (.disarm (.pf h) zz v) s = .next flag) ∧
      (bitAt v 0 = true → bitAt v 1 = false → Completes (.arm (.pf h) zz v) s (zone .armed)) ∧
      (bitAt v 1 = true → bitAt v 0 = false → Completes (.disarm (.pf h) zz v) s (zone .idle)) ∧
      (v.getLsbD 16 = true → exec (.cmpEpochWrite (.pf h) v) s = .next { s with cmp := { s.cmp with
        epoch := t16, prev := s.cmp.epoch, changed := s.tb.time, grace := false } }) ∧
      (v.getLsbD 16 = false → t16 = s.cmp.epoch + 1 → exec (.cmpEpochWrite (.pf h) v) s = .next { s with cmp := { s.cmp with
        epoch := t16, prev := s.cmp.epoch, changed := s.tb.time, grace := true } }) ∧
      (v.getLsbD 16 = false → t16 ≠ s.cmp.epoch + 1 → exec (.cmpEpochWrite (.pf h) v) s = .next cflag) ∧
      exec (.cmpNodeWrite (.pf h) v) s = .next (if s.hws.sends.any (fun e => snOn e.2) then cflag
        else { s with cmp := { s.cmp with node := t16 } })) ∧
    exec .graceExpire s = .next (if s.cmp.grace ∧ s.cmp.changed.toNat + 500000 ≤ s.tb.time.toNat
      then { s with cmp := { s.cmp with grace := false } } else s)

/-- Arriving messages (R384, R389 to R391, R393, R396, R400). A message that passes policing and the epoch test lands: DATA in
its ring's next slot, counted; PUT in its ARMED zone, which is COMPLETE when all of it has landed; SCATTER in its table as a
SCATTER descriptor would be applied (R296, R297), its ring's counter passing it (R390); ACK and REFUSE in their ring, or
NOTICE_LOST; ABSENT in EVT_RING, orphaning the zones of its node. What cannot land is refused with the code of the first
test that fails: the REFUSE waits on its route's port. One over its rate is dropped and counted; one of another epoch does
not land and sets its bit; one in transit leaves with one hop less. One that is not for this node, or that comes on a port
that is down, does nothing. MODEL'S CHOICE: residue records of a SCATTER message show its MSGID as their ADDR (log 107); an
ABSENT that EVT_RING refuses orphans nothing but is seen (log 123). -/
def Obligations.HawserReceive : Prop :=
  ∀ (s : State) (pp : Fin 16) (m : Msg) (res : List Residue), m.ring < 256 → m.reply < 256 → Quiet s → s.mem.ue = [] →
    s.mem.ce = [] → s.mem.lostCh = [] → s.dir.bad = [] →
    let p := pp.val
    let k := m.ring
    let x := recvOf s k
    let z := zoneOf s k
    let passes := (police s p m).1 = true ∧ epochCode s m = none
    let slot := x.base.toNat + x.tail.toNat % rqLen x * rqSlot x
    let counts (t : State) (c : Nat) : Prop := tget t.ctrs 0 c = tget s.ctrs 0 c + 1
    let rests (t : State) : Prop := t.queues = s.queues ∧ t.seqs = s.seqs
    let lands (t : State) : Prop := recvOf t k = { x with tail := x.tail + 1 } ∧ counts t (0x9600 + k) ∧ rests t ∧
      ∀ j, j < (msgBytes m).length → byteAt t (slot + j) = (msgBytes m).getD j 0
    let a := (police s p m).2
    let ev := recvOf s (evtRing s)
    let zones (t : State) (b : Bool) : Prop := ∀ j, (zoneOf t j).st =
      (if (zoneOf s j).st = .armed ∧ (zoneOf s j).src = fld m.arg 15 0 ∧ b = false then .orphaned else (zoneOf s j).st)
    let takes := rqOn x = true ∧ rqTenant x m.tenant = true ∧ rqFull x = false
    (∀ c ∈ [(Instr.dataReceive pp m, 1), (.putReceive pp m, 2), (.scatterReceive pp ⟨m, res⟩, 3), (.ackReceive pp m, 8),
        (.refuseReceive pp m, 9), (.absentReceive pp m, 0xA)], arrives s p m c.2 = false → exec c.1 s = .next s) ∧
    (arrives s p m 1 = true → passes → takes → bitAt x.cfg 1 = false → msgLen m ≤ rqSlot x →
      Completes (.dataReceive pp m) s lands) ∧
    (arrives s p m 2 = true → passes → z.tenant = m.tenant → z.st = .armed → z.src = m.src →
      let o := fld m.arg 39 0
      let n := m.payload.length
      let a := z.base.toNat + o
      o + n ≤ z.size → z.landed + n ≤ z.size → n ≠ 0 → bufArea a false = true → withinTier s a n = true →
      Completes (.putReceive pp m) s (fun t => rests t ∧ (zoneOf t k).landed = z.landed + n ∧
        (z.landed + n < z.size → (zoneOf t k).st = .armed ∧ ∀ j, j < n → byteAt t (a + j) = m.payload.getD j 0) ∧
        (z.landed + n = z.size → (zoneOf t k).st = .complete ∧ counts t (0x9700 + k)))) ∧
    (arrives s p m 3 = true → passes → (rqOn x = false ∨ bitAt x.cfg 1 = false) → m.src ≠ nodeNum s →
      Completes (.scatterReceive pp ⟨m, res⟩) s (fun t => rests t ∧ recvOf t k = x ∧
        tget t.ctrs 0 (0x9600 + k) = tget s.ctrs 0 (0x9600 + k))) ∧
    (arrives s p m 3 = true → (police s p m).1 = true → epochCode s m = none → rqOn x = true → bitAt x.cfg 1 = true →
      rqTenant x m.tenant = true → m.src ≠ nodeNum s → Completes (.scatterReceive pp ⟨m, res⟩) s (fun t => rests t ∧ recvOf t k = x ∧
        (counts t (0x9600 + k) ∨ tget t.ctrs 0 (0x9600 + k) = tget s.ctrs 0 (0x9600 + k)))) ∧
    (arrives s p m 3 = true → passes → rqOn x = true → bitAt x.cfg 1 = true → rqTenant x m.tenant = true →
      let h := scatHead m.payload
      let u := scatGte s
      let w : Who := { cls := 4, unit := u, op := 2, tenant := m.tenant, agent := engineAgent 4 u }
      let b := nodeRead (police s p m).2 w h.table 64
      let tab := tableOf b.data
      let how : ScatterHow := { mode := h.mode, sF := h.sF, round := h.round, sat := h.sat, addr := m.msgid, stamp :=
        m.epoch * 2 ^ 48 + h.seq * 2 ^ 16 + m.src }
      let idx := words32 ((m.payload.drop 64).take (4 * h.nidx))
      let rows := slices h.nidx (rowStride h.sF h.dim) (m.payload.drop (64 + up64 (4 * h.nidx)))
      let g := scatterAll b.s w tab how res (List.zipWith Prod.mk idx rows)
      scatOk s h m.payload.length = true → tableBad b.s tab = false → tab.dim = h.dim → (h.mode = 1 → tab.stamps ≠ 0) →
      tierOf tab.base ≠ some 3 → (∀ y z, .second y z ∉ res) → Completes (.scatterReceive pp ⟨m, res⟩) s (fun t =>
        t = scatPass (scatterNote g u m.tenant) k ∧ counts t (0x9600 + k) ∧ recvOf t k = x ∧ rests t ∧
        t.hws.ports = s.hws.ports ∧ (g.stale ≠ 0 → bitAt (tget t.gte.status 0 u) 3 = true))) ∧
    (∀ c ∈ [(Instr.ackReceive pp m, 8), (.refuseReceive pp m, 9)], arrives s p m c.2 = true →
      (takes → Completes c.1 s lands) ∧ (¬takes → exec c.1 s = .next { s with hws := { s.hws with
        noticesLost := s.hws.noticesLost + 1, sticky := s.hws.sticky ||| 8 } })) ∧
    (arrives s p m 0xA = true →
      let code := firstCode [(!(rqOn ev) || bitAt ev.cfg 1, 5), (!(rqTenant ev m.tenant), 6), (rqFull ev, 7)]
      (∀ c, code = some c → exec (.absentReceive pp m) s = .next (refuse (hwsFlag s 4) m c)) ∧
      Completes (.absentReceive pp m) s (fun t => rests t ∧ bitAt t.hws.sticky 4 = true ∧ zones t code.isSome)) ∧
    (arrives s p m 1 = true → passes → ∀ c, firstCode [(!(rqOn x) || bitAt x.cfg 1, 5), (!(rqTenant x m.tenant), 6),
      (rqFull x, 7), (decide (rqSlot x < msgLen m), 8)] = some c → exec (.dataReceive pp m) s = .next (refuse a m c)) ∧
    (arrives s p m 2 = true → passes →
      let o := fld m.arg 39 0
      let n := m.payload.length
      (z.tenant ≠ m.tenant → exec (.putReceive pp m) s = .next (refuse a m 6)) ∧
      (z.tenant = m.tenant → (z.st ≠ .armed ∨ z.src ≠ m.src ∨ z.size < o + n ∨ z.size < z.landed + n) →
        exec (.putReceive pp m) s = .next (refuse a m 9))) ∧
    (arrives s p m 3 = true → passes →
      (rqOn x = false ∨ bitAt x.cfg 1 = false → exec (.scatterReceive pp ⟨m, res⟩) s = .next (refuse a m 5)) ∧
      (rqOn x = true → bitAt x.cfg 1 = true → rqTenant x m.tenant = false →
        exec (.scatterReceive pp ⟨m, res⟩) s = .next (refuse a m 6)) ∧
      (rqOn x = true → bitAt x.cfg 1 = true → rqTenant x m.tenant = true →
        scatOk a (scatHead m.payload) m.payload.length = false →
        exec (.scatterReceive pp ⟨m, res⟩) s = .next (refuse a m 0xA))) ∧
    (∀ (b : State) (c : Nat), c < 16 → m.kind < 16 → isNotice m = false → m.src ≠ nodeNum b →
      let r := refusal b m c
      let e := egressPort (tick1 b) r
      (r.kind = 9 ∧ r.dst = m.src ∧ r.src = nodeNum b ∧ r.msgid = m.msgid ∧ r.tenant = m.tenant ∧ r.ring = m.reply ∧
        fld r.arg 7 0 = c ∧ fld r.arg 11 8 = m.kind) ∧
      ∀ q, e.1 = some q → tget (portOf (refuse b m c) q).egress [] 0 = tget (portOf b q).egress [] 0 ++
        [⟨r, e.2.tb.time, true⟩]) ∧
    ((police s p m).1 = false → ∀ c ∈ [(Instr.dataReceive pp m, 1), (.putReceive pp m, 2), (.scatterReceive pp ⟨m, res⟩, 3)],
      arrives s p m c.2 = true → Completes c.1 s (fun t => rests t ∧ t.mem = s.mem ∧ t.out = s.out ∧
        counts t (0x98C0 + p) ∧ bitAt t.hws.sticky 2 = true)) ∧
    (∀ code, (police s p m).1 = true → epochCode s m = some code → m.src ≠ nodeNum s →
      ∀ c ∈ [(Instr.dataReceive pp m, 1), (.putReceive pp m, 2), (.scatterReceive pp ⟨m, res⟩, 3)], arrives s p m c.2 = true →
        Completes c.1 s (fun t => t = refuse (epochNote a code) m code ∧ rests t ∧ recvOf t k = x ∧ zoneOf t k = z ∧
          bitAt t.cmp.sticky (if code = 2 then 2 else 1) = true)) ∧
    ((portOf s p).up = true → m.dst ≠ nodeNum s → m.payload.length ≤ 16384 → (police s p m).1 = true → m.hops ≠ 0 →
      let f : Msg := { m with hops := m.hops - 1 }
      let e := egressPort (police s p m).2 f
      ∀ q, e.1 = some q → Completes (.msgForward pp m) s (fun t => rests t ∧
        tget (portOf t q).egress [] m.cls = tget (portOf s q).egress [] m.cls ++ [⟨f, e.2.tb.time, false⟩] ∧
        t.hws.recvs = s.hws.recvs)) ∧
    (((portOf s p).up = false ∨ m.dst = nodeNum s) → exec (.msgForward pp m) s = .next s)

/-! ## Errors, metering, power-up, service, security, Shake-out -/

/-- Scrubbing and the log's own records (R410 to R413, R419). A scrub corrects a codeword that needs it and counts it, records
one it cannot correct, and leaves a good one; its bytes are tenant 0's (R426); after drops LOG_LOST says how many were lost;
a belay record carries its id, and ERR_BELAY_SEQ is its SEQ. MODEL'S CHOICE: an ERR_LOG_BASE whose ring would lie outside T0
is ignored with CFG_ERR (log 55), and a belay id of 0 does nothing (log 79). -/
def Obligations.ErrorRecords : Prop :=
  ∀ (s : State) (addr : BitVec 56) (a : Acc) (v : Word),
    let c := cwBase addr.toNat
    let read := tierTouch s 0 ((tierOf c).getD 0) (cwSize c)
    let runs := bitAt s.err.ctl 0 = true ∧ s.boot.ready = true ∧ scrubOk s addr.toNat = true
    let n := s.err.queue.length
    let holds (t : State) (kind : Nat) (syn : Word) : Prop :=
      ∃ r, (r ∈ t.err.queue ∨ r ∈ t.err.recs) ∧ r.kind = kind ∧ r.syndrome = syn
    (¬runs → exec (.scrubRead addr) s = .next s) ∧
    (runs → cwBad s c = false → c ∉ s.mem.ce → exec (.scrubRead addr) s = .next read) ∧
    (runs → cwBad s c = false → c ∈ s.mem.ce → Completes (.scrubRead addr) s (fun t => c ∉ t.mem.ce ∧
      tget t.ctrs 0 0x9024 = tget s.ctrs 0 0x9024 + 1 ∧ bitAt t.err.sticky 3 = true ∧
      (logOn s = false → t.mem.cells = s.mem.cells) ∧ t.queues = s.queues ∧ t.seqs = s.seqs)) ∧
    (runs → cwBad s c = true → Completes (.scrubRead addr) s (fun t =>
      tget t.ctrs 0 0x9025 = tget s.ctrs 0 0x9025 + 1 ∧ bitAt t.err.sticky 4 = true ∧
      (logOn s = false → t.mem = s.mem) ∧ t.queues = s.queues ∧ t.seqs = s.seqs)) ∧
    (s.err.lost ≠ 0 → n < 224 → logOn s = true → Completes .logLostWrite s (fun t => t.err.lost = 0 ∧
      holds t 0x0F (BitVec.ofNat 64 s.err.lost) ∧ t.queues = s.queues ∧ t.seqs = s.seqs)) ∧
    ((s.err.lost = 0 ∨ 224 ≤ n ∨ logOn s = false) → exec .logLostWrite s = .next s) ∧
    (accOk s a = true → accDrain s a = s →
      (fld v 31 0 = 0 → exec (.errBelay a v) s = .next s) ∧
      (fld v 31 0 ≠ 0 → logOn s = true → n < 224 → Completes (.errBelay a v) s (fun t =>
        t.err.belaySeq = s.err.written + n + 1 ∧ holds t 0x0E (BitVec.ofNat 64 (fld v 31 0)) ∧ t.queues = s.queues ∧
        t.seqs = s.seqs)) ∧
      ((logOn s = true ∨ t0Size < fld v 55 18 * 2 ^ 18 + 2 ^ 18) →
        exec (.errLogBaseWrite a v) s = .next (errFlag s 10)) ∧
      (logOn s = false → fld v 55 18 * 2 ^ 18 + 2 ^ 18 ≤ t0Size → exec (.errLogBaseWrite a v) s =
        .next { s with err := { s.err with base := v &&& 0x00FFFFFFFFFC0000#64, ringFrom := s.err.written + 1 } }))

/-- Pattern tests and barrier statistics (R416, R417, R420 to R422). A test takes the next unit of the walk out of service;
a test's checks are judged on its outputs (R408);
when it ends the unit serves again, marked in ERR_UNIT_FAIL where a check failed or its time was over, and retired where
AUTO_RETIRE says so. A barrier counts the octant of its last rank; one that names no rank sets CFG_ERR. -/
def Obligations.PatternTests : Prop :=
  ∀ (s : State) (k : Nat) (checks : List CheckResult) (p : HostPort) (v : Word),
    let cls := s.err.curClass
    let u := s.err.curUnit
    let ready := bitAt s.err.ppCtl 0 = true ∧ s.err.packVer ≠ 0 ∧ s.err.testing = false ∧ s.boot.ready = true ∧
      (∀ t, s.err.lastTest = some t → t.toNat + periodNs s ≤ s.tb.time.toNat)
    let ends := s.err.testing = true ∧ (unitOf s cls u).check = true
    let good := checksPass checks = true ∧ s.tb.time.toNat ≤ s.err.testStart.toNat + testNs s
    let ranks := fld v 47 32
    let last := fld v 15 0
    let bad := ranks ≤ last ∨ ranks < 2
    ((¬ready ∨ nextUnit s = none) → exec .patternTestStart s = .next s) ∧
    (ready → nextUnit s = some k → Completes .patternTestStart s (fun t => t.err.testing = true ∧
      t.err.curClass = k / 1024 ∧ t.err.curUnit = k % 1024 ∧ t.err.testPack = s.err.packVer ∧ (unitOf t (k / 1024) (k % 1024)).mode = .testing ∧
      t.err.walkAt = k + 1 ∧ t.err.lastTest = some s.tb.time ∧ t.queues = s.queues ∧ t.seqs = s.seqs ∧ t.mem = s.mem)) ∧
    (¬ends → exec (.patternTestEnd checks) s = .next s) ∧
    (ends → good → Completes (.patternTestEnd checks) s (fun t => t.err.testing = false ∧
      (unitOf t cls u).mode = .inService ∧ (unitOf t cls u).check = false ∧ t.err.unitFail = s.err.unitFail ∧
      t.seqs = s.seqs)) ∧
    (ends → ¬good → Completes (.patternTestEnd checks) s (fun t => t.err.testing = false ∧ unitKey cls u ∈ t.err.unitFail ∧
      bitAt t.err.sticky 6 = true ∧ (unitOf t cls u).check = false ∧ t.seqs = s.seqs ∧
      (autoRetire s cls u = false → (unitOf t cls u).mode = .inService) ∧
      (autoRetire s cls u = true → (unitOf t cls u).mode = .retired ∧ bitAt t.err.sticky 7 = true))) ∧
    (accOk s (.pf p) = true →
      (bad → exec (.errBarrier (.pf p) v) s = .next (errFlag s 10)) ∧
      (¬bad → Completes (.errBarrier (.pf p) v) s (fun t =>
        t.err.barrier = (decide (8 * last / ranks = 7) :: s.err.barrier).take (barLen s) ∧
        (∀ o, tget t.err.barHist 0 o =
          tget s.err.barHist 0 o + (if o = 8 * last / ranks then 1 else 0)) ∧ t.queues = s.queues ∧ t.seqs = s.seqs)) ∧
      (bitAt v 0 = true → Completes (.barClear (.pf p) v) s (fun t => t.err.barHist = [] ∧ t.err.barrier = [] ∧
        t.err.barThresh = fld v 23 16 ∧ t.err.barWlog2 = fld v 11 8 ∧ t.mem = s.mem)) ∧
      (bitAt v 0 = false → exec (.barClear (.pf p) v) s = .next s) ∧
      (bitAt v 0 = true → s.err.packVer = 0 → exec (.errPpCtlWrite (.pf p) v) s = .next (errFlag s 10)) ∧
      ((bitAt v 0 = false ∨ s.err.packVer ≠ 0) → exec (.errPpCtlWrite (.pf p) v) s =
        .next { s with err := { s.err with ppCtl := v &&& 0xFFFFFFFF0003FE03#64 } }))

/-- The feed (R425, R428, R429, R432). A frame is due every 100 µs or with 62 entries waiting; it goes out twice, with the
next SEQ, and what it carries and what stays in the tally cache are together what was there. The final sequence sends every
delta that remains, FINAL last. ASY_TALLY counts for its writer's tenant. -/
def Obligations.MeteringFeed : Prop :=
  ∀ (s : State) (a : Acc) (v : Word),
    let f := s.feed
    let due := f.lastSend.toNat + 100000 ≤ s.tb.time.toNat ∨ 62 ≤ f.cache.length
    let total (l : List (Nat × Nat)) (k : Nat) : Nat := ((l.filter (fun e => e.1 = k)).map Prod.snd).sum
    let r := fld v 57 56
    let closes := s.boot.entered = true ∧ f.linkUp = true ∧ ∃ sc c, s.boot.scope = some (sc, c) ∧ sc ≠ .power ∧ c ≠ 4
    (f.linkUp = true → due → Completes .tallySend s (fun t =>
      ∃ fr : Frame, t.out = s.out ++ [.frame 2 fr, .frame 2 fr] ∧ fr.seq = f.lastSeq + 1 ∧ fr.time = s.tb.time.toNat ∧
        fr.pert = pertActive s ∧ fr.ents.length ≤ 62 ∧ t.feed.lastSeq = f.lastSeq + 1 ∧
        (∀ e ∈ fr.ents, e.2.1 < 32 ∧ e.2.2 < 2 ^ 44) ∧
        (∀ k, total (fr.ents.map (fun e => (e.1 * 32 + e.2.1, e.2.2))) k + total t.feed.cache k = total f.cache k) ∧
        t.mem = s.mem ∧ t.ctrs = s.ctrs)) ∧
    ((f.linkUp = false ∨ ¬due) → exec .tallySend s = .next s) ∧
    (closes → Completes .finalSequence s (fun t => t.feed.cache = [] ∧ t.feed.linkUp = false ∧
      (∃ fr, t.out.getLast? = some (.frame 3 fr) ∧ fr.seq = t.feed.lastSeq) ∧ f.lastSeq < t.feed.lastSeq ∧ t.mem = s.mem)) ∧
    (¬closes → exec .finalSequence s = .next s) ∧
    (accOk s a = true →
      let u := accDrain s a
      let tenant := (accTenant u a).getD 0
      (2 ≤ r → exec (.asyTally a v) s = .next { u with feed := { u.feed with sticky := u.feed.sticky ||| 2 } }) ∧
      (r < 2 → Completes (.asyTally a v) s (fun t =>
        tget t.ctrs 0 (0x912A + r) = tget u.ctrs 0 (0x912A + r) + BitVec.ofNat 64 (fld v 39 0) ∧
        (∀ k, total t.feed.cache k = total u.feed.cache k + (if k = tenant * 32 + 0x16 + r then fld v 39 0 else 0)) ∧
        t.mem = u.mem)))

/-- What the island accepts (R430 to R432). START under the nonce presented opens a session, and a new nonce is drawn. In a
session a frame whose MAC is right and whose SEQ is the next counts every entry exactly once; a copy of the last changes
nothing; an older one is a replay; a later one is accepted and what is missing is noted; a wrong MAC is noted and nothing
else. FINAL ends the session cleanly; 10 ms of silence set FEED_DOWN and end it, uncleanly unless its last frame was FINAL.
An island without power does nothing. MODEL'S CHOICE (log 56): a good frame after the session's end, later than the last, is
dropped and counts nowhere, and the 10 ms run on after FINAL. -/
def Obligations.IslandFrames : Prop :=
  ∀ (s : State) (fr : Frame),
    let x := s.island
    let mac (key kind : Nat) : Prop := fr.mac = Config.feedMac key (frameWords kind fr)
    let counted (t : State) : Prop := ∀ k, tget t.island.kept.counters 0 k = tget x.kept.counters 0 k +
      ((fr.ents.filter (fun e => e.1 * 32 + e.2.1 = k)).map (fun e => e.2.2)).sum
    let same (t : State) : Prop := t.island.kept.counters = x.kept.counters ∧ t.island.kept.charges = x.kept.charges ∧
      t.island.last = x.last
    let frames : List (Instr × Nat) := [(.startFrame fr, 1), (.tallyFrame fr, 2), (.finalFrame fr, 3)]
    (x.up = false → ∀ c ∈ frames, exec c.1 s = .next s) ∧
    (x.up = true → x.presented = true → fr.seq = 1 → mac x.nonce 1 → Completes (.startFrame fr) s (fun t =>
      t.island.openS = true ∧ t.island.key = x.nonce ∧ t.island.last = 1 ∧ t.island.presented = true ∧
      t.island.nonce = (Config.freeWord s.choice).toNat ∧ t.choice = s.choice + 1 ∧ t.island.fed = true ∧
      t.island.sMacFails = 0 ∧ t.island.sReplays = 0 ∧ t.island.sGaps = 0 ∧ t.island.sMissing = 0 ∧ counted t)) ∧
    (x.up = true → ∀ c ∈ frames, (c.2 = 1 → ¬(x.presented = true ∧ fr.seq = 1 ∧ mac x.nonce 1)) →
      (¬mac x.key c.2 → Completes c.1 s (fun t => same t ∧ t.island.kept.macFails = x.kept.macFails + 1 ∧
        bitAt t.island.sticky 3 = true)) ∧
      (mac x.key c.2 → fr.seq = x.last → exec c.1 s = .next s) ∧
      (mac x.key c.2 → fr.seq < x.last → Completes c.1 s (fun t => same t ∧
        t.island.kept.replays = x.kept.replays + 1 ∧ bitAt t.island.sticky 2 = true)) ∧
      (mac x.key c.2 → x.last < fr.seq → x.openS = false → exec c.1 s = .next s) ∧
      (mac x.key c.2 → x.last < fr.seq → x.openS = true → Completes c.1 s (fun t => counted t ∧
        t.island.last = fr.seq ∧ t.island.lastAt = x.kept.clock ∧ t.island.openS = decide (c.2 ≠ 3) ∧
        t.island.kept.missing = x.kept.missing + (fr.seq - x.last - 1) ∧
        t.island.kept.gaps = x.kept.gaps + (if fr.seq = x.last + 1 then 0 else 1) ∧
        (fr.pert = true → t.island.pertLife = x.pertLife + 1 ∧ bitAt t.island.sticky 6 = true)))) ∧
    (let quiet := x.up = true ∧ x.fed = true ∧ x.lastAt + 10000 ≤ x.kept.clock
     (quiet → Completes .feedDown s (fun t => t.island.openS = false ∧ t.island.fed = false ∧
       t.island.sessClean = x.lastFinal ∧ bitAt t.island.sticky 5 = true ∧ t.island.kept = x.kept)) ∧
     (¬quiet → exec .feedDown s = .next s))

/-- What the island keeps (R430, R433, R435, R436, R442, R503). Once a millisecond of its clock an interval closes: a rail's
counter takes what is left of its reading. Each tenant's share of an interval's energy is its weight's, rounded down, and
tenant 0 takes the remainder, so the rails' energy is counted whole; the weights begin again. A commit a second; the final
one, where it completes, loses nothing; a start goes on from the last commit, UNCLEAN where the final one did not complete.
Opening the seal counts and is logged, closing it is logged. MODEL'S CHOICE: the events of the seal log have kinds 1 and 2
and an empty detail (log 57); the seal log and the tariff stand over a start that follows an incomplete commit (log 89). -/
def Obligations.IslandKeeps : Prop :=
  ∀ (s : State) (rails : List Nat) (complete : Bool),
    let x := s.island
    let due := x.up = true ∧ x.energyAt + 1000 ≤ x.kept.clock
    let e := ((closeRails x rails).energyOpen.map Prod.snd).sum
    let counts (t : State) : Prop := t.island.kept.counters = x.kept.counters ∧ t.island.kept.charges = x.kept.charges ∧
      t.island.kept.clock = x.kept.clock ∧ ∀ i, tget x.kept.energy 0 i ≤ tget t.island.kept.energy 0 i
    let w := (x.weights.map Prod.snd).sum
    let share (l : List (Nat × Nat)) : Nat := (l.map (fun y => e * y.2 / w)).sum
    let energy (y : Island) (t : Nat) : Nat := tget y.kept.counters 0 (t * 32 + 0x18)
    let full := 1024 ≤ x.sealLog.length
    let opens := min (2 ^ 32 - 1) (x.sealCount + 1)
    let entry (n k : Nat) : SealEntry := { clock := x.kept.clock, count := n, kind := k, detail := [] }
    (x.up = false → exec (.energyInterval rails) s = .next s ∧ exec .islandCommit s = .next s ∧
      exec (.islandRailFall complete) s = .next s ∧ exec .sealOpen s = .next s ∧ exec .sealClose s = .next s ∧
      exec .islandNonce s = .next s) ∧
    (x.up = true → x.kept.clock < x.energyAt + 1000 → exec (.energyInterval rails) s = .next s) ∧
    (x.energyOpen = [] → e = (rails.take 16).sum) ∧
    (due → Completes (.energyInterval rails) s (fun t => t.island.weights = [] ∧ t.island.energyOpen = [] ∧
      t.island.energyAt = x.kept.clock ∧
      (∀ i, i < 16 → tget t.island.kept.energy 0 i =
        tget x.kept.energy 0 i + (rails.getD i 0 - tget x.energyOpen 0 i)) ∧
      (∀ n, n ≠ 0 → energy t.island n = energy x n + share (x.weights.filter (fun y => y.1 = n))) ∧
      energy t.island 0 = energy x 0 + (e - share (x.weights.filter (fun y => y.1 ≠ 0))) ∧
      share (x.weights.filter (fun y => y.1 ≠ 0)) ≤ e)) ∧
    (x.up = true → x.committed.clock + 1000000 ≤ x.kept.clock →
      Completes .islandCommit s (fun t => t.island.committed = t.island.kept ∧ counts t ∧ t.island.up = true)) ∧
    (x.kept.clock < x.committed.clock + 1000000 → exec .islandCommit s = .next s) ∧
    (x.up = true → Completes (.islandRailFall complete) s (fun t => t.island.up = false ∧ t.island.openS = false ∧ counts t ∧
      t.island.committed = (if complete then t.island.kept else x.committed) ∧ t.island.commitOk = complete)) ∧
    (x.up = false → Completes .islandStart s (fun t => t.island.up = true ∧ t.island.kept = x.committed ∧
      t.island.sticky = (if x.commitOk then 0 else 0x80) ∧ t.boot.asyGood = true ∧ t.island.sealLog = x.sealLog ∧
      t.island.tariff = x.tariff)) ∧
    (x.up = true → exec .islandStart s = .next s) ∧
    (x.up = true → x.presented = false → Completes .islandNonce s (fun t => t.island.presented = true ∧
      t.island.kept = x.kept ∧ t.choice = s.choice + 1)) ∧
    (x.presented = true → exec .islandNonce s = .next s) ∧
    (x.up = true → x.inService = false → Completes .sealOpen s (fun t => t.island.inService = true ∧
      t.island.sealCount = opens ∧ t.island.logFull = (x.logFull || decide full) ∧
      t.island.sealLog = (if full then x.sealLog else x.sealLog ++ [entry opens 1]))) ∧
    (x.inService = true → exec .sealOpen s = .next s) ∧
    (x.up = true → x.inService = true → Completes .sealClose s (fun t => t.island.inService = false ∧
      t.island.sealCount = x.sealCount ∧
      t.island.sealLog = (if full then x.sealLog else x.sealLog ++ [entry x.sealCount 2]))) ∧
    (x.inService = false → exec .sealClose s = .next s)

/-- The sideband (R435, R437 to R440). Each command answers once; STATUS_CLR clears what it names; a snapshot is taken at most
once in 100 ms, for 1 to 256 tenants, and begins with the nonce, and pages of it read back; a whole tariff table applies
with its last page, any other is refused; a bundle needs open service and room in the log, and one that is not signed
changes nothing but the log. An island without power answers nothing. MODEL'S CHOICE: the layouts of the replies, the tariff
table of 289 words, the event kind 4, and the refusal of a whole bundle at a full log (log 57); the NACK of a range of
tenants outside 4,096 and of a table that is not whole (log 91). -/
def Obligations.Sideband : Prop :=
  ∀ (s : State) (v : Word) (nonce : BitVec 128) (first count : BitVec 16) (page idx : Nat) (words : List Word)
    (bytes : List Byte) (last : Bool),
    let x := s.island
    let n := count.toNat
    let soon := match x.snapAt with | some a => decide (x.kept.clock < a + 100000) | none => false
    let refused := soon = true ∨ n = 0 ∨ 256 < n ∨ 4096 < first.toNat + n
    let table := x.tariffBuf ++ words
    let bundle := bundleOf (x.bundleBuf ++ bytes)
    let answers (code : Nat) (l : List Byte) : Host.Outcome State Fault Refusal := .next { s with out := s.out ++ [.sideband code l] }
    let nack (t : State) (code : Nat) : Prop := t.out = s.out ++ [.sidebandNack code]
    (x.up = false → ∀ c ∈ [Instr.id, .status, .statusClr v, .snapshot nonce first count, .readPage page, .anomalies,
      .sealLog idx, .tariff words last, .sealBundle bytes last], exec c s = .next s) ∧
    (x.up = true →
      exec .id s = answers 0x01 ([0x60, 0x91] ++ leBytes 1 Config.stepping.toNat ++ leBytes 32 Config.islandHash.toNat) ∧
      exec .status s = answers 0x02 (wordBytes (rdAsyStatus x)) ∧
      exec (.statusClr v) s = .next { s with island := { x with sticky := x.sticky &&& ~~~(v &&& 0xFE#64) } } ∧
      (refused → Completes (.snapshot nonce first count) s (fun t => nack t 0x10 ∧ t.island = x)) ∧
      (¬refused → Completes (.snapshot nonce first count) s (fun t => t.out = s.out ∧
        t.island.kept.counters = x.kept.counters ∧ t.island.kept.charges = x.kept.charges ∧
        (∀ i, tget x.kept.energy 0 i ≤ tget t.island.kept.energy 0 i) ∧ t.island.snapAt = some x.kept.clock ∧ ∃ l, t.island.snap = some l ∧ l.take 16 = leBytes 16 nonce.toNat ∧
          (l.drop 16).take 8 = leBytes 8 x.kept.clock)) ∧
      (∀ l, x.snap = some l → exec (.readPage page) s = answers 0x11 ((l.drop (page * 255)).take 255)) ∧
      (x.snap = none → exec (.readPage page) s = answers 0x11 []) ∧
      Completes .anomalies s (fun t => ∃ l, t = { s with out := s.out ++ [.sideband 0x18 l] } ∧
        l.length = 24 * x.ring.length) ∧
      Completes (.sealLog idx) s (fun t => ∃ l, t = { s with out := s.out ++ [.sideband 0x19 l] } ∧
        l.length = 32 * min 8 (x.sealLog.length - idx)) ∧
      exec (.tariff words false) s = .next { s with island := { x with tariffBuf := table } } ∧
      (table.length ≠ 289 → Completes (.tariff words true) s (fun t => nack t 0x20 ∧ t.island = { x with tariffBuf := [] })) ∧
      (table.length = 289 → Completes (.tariff words true) s (fun t => t.out = s.out ∧ t.island.tariffBuf = [] ∧
        (∀ k, k < 288 → tget t.island.tariff 0 k = (table.getD k 0).toNat) ∧
        t.island.tariffVer = (table.getD 288 0).toNat % 2 ^ 32 ∧ bitAt t.island.sticky 1 = true ∧
        t.island.kept = x.kept)) ∧
      exec (.sealBundle bytes false) s = .next { s with island := { x with bundleBuf := x.bundleBuf ++ bytes } } ∧
      ((x.inService = false ∨ 1024 ≤ x.sealLog.length) → Completes (.sealBundle bytes true) s (fun t =>
        nack t 0x30 ∧ t.island = { x with bundleBuf := [] })) ∧
      (x.inService = true → x.sealLog.length < 1024 → sealedOk bundle = false → Completes (.sealBundle bytes true) s (fun t =>
        t.out = s.out ∧ t.island = { x with bundleBuf := [], sealLog := x.sealLog ++
          [{ clock := x.kept.clock, count := x.sealCount, kind := 4, detail := [] }] })) ∧
      (x.inService = true → x.sealLog.length < 1024 → sealedOk bundle = true → Completes (.sealBundle bytes true) s (fun t =>
        t.out = s.out ∧ t.island.kept = x.kept ∧ t.island.bundleBuf = [] ∧
        (∀ k a, sealedPairs bundle.payload = [(k, a)] → sealedGet t.island k = a))))

/-- The core rail controller (R31 to R34). A reading below 660 mV or above 105 °C, or a droop of more than 30 mV below the
setpoint, leaves its sticky bit, and moves nothing. A decision of the started controller takes the setpoint to VMIN in FIXED
mode and otherwise to a limit it lies outside of, or by one 5 mV step, down when the power average or the temperature is
over its limit, and never out of the limits; a setpoint that moves leaves the node as a VOUT_COMMAND (R497). A write of
BOOT_RAIL_CTL whose clamped limits cross is ignored and sets CFG_ERR. A STALL longer than 10 ms is recorded while the log is
on. -/
def Obligations.RailController : Prop :=
  ∀ (s : State) (mv : BitVec 10) (tj pw : BitVec 16) (a : Acc) (v : Word) (cls : BitVec 4) (unit : BitVec 12)
    (stage held : Word),
    let lim (w : Word) : Nat := max 660 (min 800 w.toNat)
    let lo := lim ((s.rail.ctl.extractLsb' 12 10).zeroExtend 64)
    let hi := lim ((s.rail.ctl.extractLsb' 22 10).zeroExtend 64)
    let sp := s.rail.setpoint.toNat
    let hot := s.rail.tjQc.toInt > 4 * (min 105 (s.rail.ctl.extractLsb' 4 8).toNat : Nat)
    let due := ∀ x, s.rail.lastStep = some x → x.toNat + 50000 ≤ s.tb.time.toNat
    Completes (.railReading mv tj pw) s (fun t =>
      t.rail.railMv = mv ∧ t.rail.tjQc = tj ∧ t.rail.setpoint = s.rail.setpoint ∧ t.rail.ctl = s.rail.ctl ∧
      bitAt t.rail.sticky 3 = (bitAt s.rail.sticky 3 || decide (mv.toNat < 660 ∨ tj.toInt > 420)) ∧
      bitAt t.rail.sticky 0 = (bitAt s.rail.sticky 0 || decide (mv.toNat + 30 < sp)) ∧ t.seqs = s.seqs ∧ t.tb = s.tb) ∧
    (s.rail.on = false → exec .railStepDecision s = .next s) ∧
    (s.rail.on = true → lo ≤ hi → Completes .railStepDecision s (fun t =>
      let sp' := t.rail.setpoint.toNat
      lo ≤ sp' ∧ sp' ≤ hi ∧ t.rail.ctl = s.rail.ctl ∧ t.tb = s.tb ∧
      t.out = (if sp' = sp then s.out else s.out ++ [.vout sp']) ∧
      (s.rail.ctl.extractLsb' 0 2 = 1 → sp' = lo) ∧
      (s.rail.ctl.extractLsb' 0 2 ≠ 1 → sp < lo → sp' = lo) ∧ (s.rail.ctl.extractLsb' 0 2 ≠ 1 → sp > hi → sp' = hi) ∧
      (s.rail.ctl.extractLsb' 0 2 ≠ 1 → lo ≤ sp → sp ≤ hi → sp' = sp ∨ sp' = sp + 5 ∨ sp' + 5 = sp) ∧
      (s.rail.ctl.extractLsb' 0 2 ≠ 1 → lo + 5 ≤ sp → sp ≤ hi → hot → due → sp' + 5 = sp) ∧
      (s.rail.ctl.extractLsb' 0 2 ≠ 1 → lo ≤ sp → sp ≤ hi → ¬due → sp' = sp))) ∧
    (accOk s a true = true →
      let u := accDrain s a
      let bad := lim ((v.extractLsb' 12 10).zeroExtend 64) > lim ((v.extractLsb' 22 10).zeroExtend 64)
      (bad → Completes (.bootRailCtlWrite a v) s (fun t =>
        t.rail.ctl = u.rail.ctl ∧ bitAt t.rail.sticky 4 = true ∧ t.rail.setpoint = u.rail.setpoint)) ∧
      (¬bad → exec (.bootRailCtlWrite a v) s = .next { u with rail := { u.rail with ctl := v &&& 0x7FFFFFFFFF3#64 } })) ∧
    ((held.toNat ≤ 10000 ∨ logOn s = false) → exec (.stall cls unit stage held) s = .next s) ∧
    (held.toNat > 10000 → logOn s = true → s.err.queue.length < 224 → Completes (.stall cls unit stage held) s (fun t =>
      bitAt t.err.sticky 5 = true ∧ t.seqs = s.seqs ∧ t.queues = s.queues ∧
      ∃ r ∈ t.err.recs ++ t.err.queue, r.kind = 6 ∧ r.time = s.tb.time ∧ r.seq = s.err.written + s.err.queue.length + 1))

/-- The timebase (R38 to R42). Losing the reference sets REF_LOSS and clears LOCKED without a step. TBS_SET steps it in FREE and
MASTER and is ignored in ACQUIRE and TRACK. In ACQUIRE the fourth offset that agrees, of the nearest upstream node heard,
steps it once to the upstream value and begins TRACK; a nearer node begins the run again and a farther one is not used; in
TRACK it never steps, the sixteenth offset in a row within ±10 ns sets LOCKED, and one beyond, or a third missed message,
clears LOCKED and sets LOST_LOCK. A write of TBS_CTL that changes MODE or DOMAIN begins the measurements anew. A master
sends a SYNC of class 0 to the neighbour on each port of PORT_MASK that is up. MODEL'S CHOICE: an offset is own time minus
upstream time (log 19); outside TRACK RATE_PPB returns to 0, and a master that has sent none sends at once (log 99); what a
SYNC holds beside its type and class (log 114). -/
def Obligations.TimebaseAlignment : Prop :=
  ∀ (s : State) (p : HostPort) (v : Word) (dom : BitVec 8) (o : Int) (up : BitVec 4),
    let mode := (s.tb.ctl.extractLsb' 0 3).toNat
    let dom' := s.tb.ctl.extractLsb' 56 8
    let hops := min 15 (up.toNat + 1)
    Completes .refLoss s (fun t => t.tb.refOk = false ∧ t.tb.locked = false ∧ bitAt t.tb.sticky 2 = true ∧
      t.tb.time = s.tb.time ∧ t.tb.steps = s.tb.steps) ∧
    exec .refReturn s = .next { s with tb := { s.tb with refOk := true } } ∧
    (accOk s (.pf p) = true → (mode = 2 ∨ mode = 3) → exec (.tbsSet (.pf p) v) s = .next s) ∧
    (accOk s (.pf p) = true → (mode = 0 ∨ mode = 1) → v ≠ 0 → exec (.tbsSet (.pf p) v) s =
      .next { s with tb := { s.tb with time := v, steps := s.tb.steps + 1 } }) ∧
    (dom = dom' → mode = 2 → hops = s.tb.hops.toNat → ∀ x y z, s.tb.agree = [x, y, z] →
      (∀ i ∈ [x, y, z, o], ∀ j ∈ [x, y, z, o], i - j ≤ 100) →
      Completes (.syncReceive dom o up) s (fun t => t.tb.time = s.tb.time - BitVec.ofInt 64 o ∧
        t.tb.steps = s.tb.steps + 1 ∧ t.tb.ctl.extractLsb' 0 3 = 3 ∧ t.tb.agree = [])) ∧
    (dom = dom' → mode = 2 → hops < s.tb.hops.toNat → Completes (.syncReceive dom o up) s (fun t =>
      t.tb.agree = [o] ∧ t.tb.hops.toNat = hops ∧ t.tb.time = s.tb.time ∧ t.tb.ctl = s.tb.ctl)) ∧
    (dom = dom' → mode = 2 → s.tb.hops.toNat < hops → exec (.syncReceive dom o up) s = .next s) ∧
    (dom = dom' → mode = 3 → -10 ≤ o → o ≤ 10 → Completes (.syncReceive dom o up) s (fun t =>
      t.tb.time = s.tb.time ∧ t.tb.steps = s.tb.steps ∧ t.tb.missed = 0 ∧ t.tb.inLock = s.tb.inLock + 1 ∧
      t.tb.locked = (s.tb.locked || decide (15 ≤ s.tb.inLock)) ∧ t.tb.sticky = s.tb.sticky)) ∧
    (dom = dom' → mode = 3 → (o < -10 ∨ 10 < o) → Completes (.syncReceive dom o up) s (fun t =>
      t.tb.time = s.tb.time ∧ t.tb.locked = false ∧ t.tb.inLock = 0 ∧
      bitAt t.tb.sticky 1 = (bitAt s.tb.sticky 1 || s.tb.locked))) ∧
    (accOk s (.pf p) = true → Completes (.registerWrite (.pf p) 0x100010008 v) s (fun t =>
      let mode' := (v.extractLsb' 0 3).toNat
      t.tb.ctl = v &&& 0xFFFFFFFFFF000007#64 ∧ t.tb.time = s.tb.time ∧ t.tb.steps = s.tb.steps ∧
      (mode' ≠ 3 → t.tb.ratePpb = 0) ∧
      ((mode' ≠ mode ∨ v.extractLsb' 56 8 ≠ dom') → t.tb.agree = [] ∧ t.tb.inLock = 0 ∧ t.tb.missed = 0 ∧
        t.tb.hops = (if mode' = 1 then 0 else 0xF)) ∧
      (mode' = mode → v.extractLsb' 56 8 = dom' → t.tb.agree = s.tb.agree ∧ t.tb.hops = s.tb.hops))) ∧
    (mode = 3 → s.tb.missed = 2 → s.tb.locked = true → Completes .syncMissed s (fun t =>
      t.tb.locked = false ∧ bitAt t.tb.sticky 1 = true ∧ t.tb.time = s.tb.time)) ∧
    (mode = 1 → s.tb.released = true → s.tb.lastSync = none → Completes .syncSend s (fun t =>
      (∀ k < 16, ∀ n, (s.tb.ctl.extractLsb' 40 16).getLsbD k = true → (portOf s k).up = true →
        (portOf s k).partner = some n → ∃ m : Msg, m.kind = 0xB ∧ m.cls = 0 ∧ m.dst = n ∧ m.src = s.cmp.node.toNat ∧
          tget (portOf t k).egress [] 0 = tget (portOf s k).egress [] 0 ++ [⟨m, s.tb.time, true⟩]) ∧
      (∀ k, ((s.tb.ctl.extractLsb' 40 16).getLsbD k = false ∨ (portOf s k).up = false) → portOf t k = portOf s k) ∧
      t.tb.lastSync = some s.tb.time ∧ t.tb.time = s.tb.time ∧ t.out = s.out))

/-- Rails and reset causes (R444, R445, R448, R451, R452, R498, R502). A rail is enabled once every enabled one is good; one that
is not good in time stops the sequence in FAIL. A rail that leaves its range resets the node in the POWER scope, unless
an orderly power-down removes it (its 100 µs are the island's, MODEL'S CHOICE, log 59); VDD_AON is the board's own; the reset
pin, the island's supply while the other rails are up and a thermal trip in COLD; BOOT_RESET in COLD or WARM, from a physical
function with its key. Of two scopes the wider wins, and a POWER scope that the board's rails or the reset pin still hold is
the widest. MODEL'S CHOICE (log 84): the loss of VDD_AON and its return are RAIL_PG_LOSS and RAIL_GOOD of the board's rail. -/
def Obligations.ResetCauses : Prop :=
  ∀ (s : State) (x : Rail) (p : HostPort) (n : Fin 64) (v : Word) (src : ThermSource) (tq : BitVec 16),
    let b := s.boot
    let due := x ≠ .aon ∧ b.state = 1 ∧ x ∈ b.railsEn ∧ x ∉ b.railsGood
    let down := b.rstN = false ∧ b.entered = true ∧ (∃ c, b.scope = some (.cold, c)) ∧
      b.rstLowAt + 100 ≤ s.island.kept.clock ∧ b.railsGood.getLast? = some x
    let good := b.railsGood ++ [x]
    let held := b.state = 1 ∧ (b.aonGood = false ∨ b.asyGood = false ∨ b.rstN = false)
    let enters (t : State) (sc : ResetScope) (cause : Nat) : Prop :=
      (b.scope = none → (¬held ∨ sc = .power) → t.boot.scope = some (sc, cause) ∧ t.boot.entered = false) ∧
      (b.scope = none → held → sc ≠ .power → t.boot.scope = none) ∧
      (∀ old c, b.scope = some (old, c) → scopeRank old < scopeRank sc →
        t.boot.scope = some (sc, cause) ∧ t.boot.entered = false) ∧
      (∀ old c, b.scope = some (old, c) → scopeRank sc ≤ scopeRank old → t.boot.scope = b.scope ∧ t.boot.entered = b.entered)
    let rests (t : State) : Prop := t.mem = s.mem ∧ t.queues = s.queues ∧ t.seqs = s.seqs ∧ t.tb = s.tb
    let trip := match src with
      | .compute => 480 ≤ tq.toInt | .nearTier => 440 < tq.toInt | .hub => 460 ≤ tq.toInt | .hbm => 420 ≤ tq.toInt
    let keyed := fld v 63 48 = 0xB007
    (due → Completes (.railGood x) s (fun t => t.boot.railsGood = good ∧ rests t ∧
      ((∀ y ∈ b.railsEn, y ∈ good) → ∀ y, railOrder.find? (fun z => !(b.railsEn.contains z)) = some y →
        t.boot.railsEn = b.railsEn ++ [y]) ∧
      ((∃ y ∈ b.railsEn, y ∉ good) → t.boot.railsEn = b.railsEn))) ∧
    (x ≠ .aon → ¬due → exec (.railGood x) s = .next s) ∧
    exec (.railGood .aon) s = .next { s with boot := { b with aonGood := true } } ∧
    (b.state = 1 → b.railsEn.find? (fun y => !(b.railsGood.contains y)) = some x → Completes .railTimeout s (fun t =>
      t.boot.state = 0xF ∧ t.boot.fail = true ∧ t.boot.failStep = 1 ∧ t.boot.failCause = 1 ∧
      t.boot.failDetail = railNum x ∧ rests t)) ∧
    (b.state ≠ 1 → exec .railTimeout s = .next s) ∧
    (x ≠ .aon → x ∈ b.railsGood → ¬down → Completes (.railPgLoss x) s (fun t => enters t .power 0 ∧ x ∉ t.boot.railsGood ∧
      rests t)) ∧
    (x ≠ .aon → down → Completes (.railPgLoss x) s (fun t => t.boot.scope = b.scope ∧ t.boot.entered = true ∧
      t.boot.state = 1 ∧ x ∉ t.boot.railsGood ∧ rests t)) ∧
    (x ≠ .aon → x ∉ b.railsGood → exec (.railPgLoss x) s = .next s) ∧
    (b.aonGood = true → Completes (.railPgLoss .aon) s (fun t => enters t .power 0 ∧ t.boot.aonGood = false ∧
      t.boot.tripHold = false ∧ rests t)) ∧
    (b.aonGood = false → exec (.railPgLoss .aon) s = .next s) ∧
    Completes .nodeRstNLow s (fun t => enters t .cold 1 ∧ t.boot.rstN = false ∧ rests t) ∧
    (b.rstN = true → exec .nodeRstNHigh s = .next s) ∧
    (b.rstN = false → exec .nodeRstNHigh s =
      .next { s with boot := { b with rstN := true, tripHold := false, tripN := true } }) ∧
    ((∀ y ∈ railOrder, y ∈ b.railsGood) → Completes .vddAsyLoss s (fun t => enters t .cold 4 ∧ t.boot.asyGood = false ∧
      rests t)) ∧
    ((∃ y ∈ railOrder, y ∉ b.railsGood) → exec .vddAsyLoss s = .next { s with boot := { b with asyGood := false } }) ∧
    (trip → Completes (.thermalTrip src tq) s (fun t => enters t .cold 3 ∧ t.boot.tripHold = true ∧ t.boot.tripN = false ∧
      rests t)) ∧
    (¬trip → exec (.thermalTrip src tq) s = .next s) ∧
    (accOk s (.pf p) true = true →
      (keyed → fld v 1 0 = 1 → Completes (.bootReset (.pf p) v) s (fun t => enters t .cold 2 ∧ rests t)) ∧
      (keyed → fld v 1 0 = 2 → Completes (.bootReset (.pf p) v) s (fun t => enters t .warm 2 ∧ rests t)) ∧
      ((¬keyed ∨ fld v 1 0 = 0 ∨ fld v 1 0 = 3) → exec (.bootReset (.pf p) v) s =
        .next { s with boot := { b with sticky := b.sticky ||| 16 } })) ∧
    (accOk s (.seq n) = true → let u := accDrain s (.seq n)
      exec (.bootReset (.seq n) v) s = .next { u with boot := { u.boot with sticky := u.boot.sticky ||| 16 } })

/-- Entering and leaving a scope (R446, R448, R450, R453, R454). The entry puts every block at its reset values; WARM keeps
the timebase and T1 and T2 but for what abandoned work left half written, with T0 and released code regions zero; floors, the
island and what leaves the node stay, and fuses but for a write that a loss of power cuts. The sequence runs when
nothing holds the node, stops in FAIL where the fuses, T0 or every Sequencer fail, and otherwise the node is ready; the rail
controller begins with VOUT_COMMAND for 0.72 V (R497). MODEL'S CHOICE: steps 3 to 8 are one command, and a T0 failure after
WARM shows step 4 (log 84); every counter is 0 after the entry (log 85); code regions are released, and so are zero (log 86). -/
def Obligations.ResetAndPowerUp : Prop :=
  ∀ (s : State) (rep : PowerReport) (sc : ResetScope) (cause : Nat) (p : HostPort) (v : Word),
    let b := s.boot
    let fails (t : State) (step c : Nat) : Prop := t.boot.state = 0xF ∧ t.boot.fail = true ∧ t.boot.failStep = step ∧
      t.boot.failCause = c ∧ t.boot.ready = b.ready
    let ready (t : State) : Prop := t.boot.ready = true ∧ t.boot.state = 7 ∧ t.boot.scope = none ∧ t.boot.alive = true ∧
      t.boot.readyTime = s.tb.time ∧ t.feed.linkUp = true ∧ t.feed.lastSeq = 1
    let drives (t : State) : Prop := t.rail.on = true ∧ t.rail.setpoint = 720 ∧ ∃ l, t.out = s.out ++ .vout 0x2D0 :: l
    (b.scope = some (sc, cause) → b.entered = false → Completes .scopeEntry s (fun t =>
      t.caches = [] ∧ t.dir = {} ∧ t.queues = [] ∧ t.ctrs = [] ∧ t.rail = {} ∧ t.tiers = {} ∧ t.chans = [] ∧ t.nbus = [] ∧
      t.mbx = [] ∧ t.cmp = {} ∧ t.cu = {} ∧ t.boot.ready = false ∧ t.boot.entered = true ∧ t.boot.causeLast = cause ∧
      (∀ k, (seqOf t k).running = false) ∧ (sc ≠ .power → t.sec.slots = s.sec.slots) ∧ t.sec.floors = s.sec.floors ∧
      t.sec.topLeaf = s.sec.topLeaf ∧ t.sec.regions = [] ∧ t.island = s.island ∧ t.out = s.out ∧ t.pending = s.pending ∧
      (sc ≠ .warm → t.mem = {} ∧ t.tb = {}) ∧
      (sc = .warm → t.tb.time = s.tb.time ∧ (∀ a, inT0 a = true → cellGet t.mem.cells a = 0) ∧
        (∀ e ∈ s.sec.regions, ∀ a, inRegion e.2 a = true → cellGet t.mem.cells a = 0) ∧
        (strayLines s = [] → abandonedExts s = [] → ∀ a, inT0 a = false → (∀ e ∈ s.sec.regions, inRegion e.2 a = false) →
          cellGet t.mem.cells a = cellGet s.mem.cells a)))) ∧
    ((b.scope = none ∨ b.entered = true) → exec .scopeEntry s = .next s) ∧
    (mayRun s = false → exec (.powerupSequence rep) s = .next s ∧ exec (.warmExit rep) s = .next s) ∧
    (mayRun s = true → b.scope = none → b.state = 1 → railsUp s = false →
      (∀ y ∈ b.railsEn, y ∈ b.railsGood) → ∀ x, railOrder.find? (fun z => !(b.railsEn.contains z)) = some x →
      exec (.powerupSequence rep) s = .next { s with boot := { b with railsEn := b.railsEn ++ [x] } }) ∧
    (mayRun s = true → (b.scope = none ∨ (b.scope = some (.cold, cause) ∧ b.entered = true)) →
      ((b.state = 1 ∧ railsUp s = true) ∨ b.state = 2) →
        (rep.fuseOk = false → Completes (.powerupSequence rep) s (fun t => fails t 2 2)) ∧
        (rep.fuseOk = true → rep.t0Ok = false → Completes (.powerupSequence rep) s (fun t => fails t 4 3)) ∧
        (rep.fuseOk = true → rep.t0Ok = true → rep.t0Test = false → Completes (.powerupSequence rep) s (fun t =>
          fails t 5 3 ∧ t.boot.failDetail = rep.t0Unit)) ∧
        (rep.fuseOk = true → rep.t0Ok = true → rep.t0Test = true → Completes (.powerupSequence rep) s (fun t =>
          t.tb.released = true ∧ drives t ∧ (ready t ∨ fails t 5 4)))) ∧
    (mayRun s = true → b.scope = some (.warm, cause) → b.entered = true →
      (rep.t0Ok = false → Completes (.warmExit rep) s (fun t => fails t 4 3)) ∧
      (rep.t0Ok = true → rep.t0Test = false → Completes (.warmExit rep) s (fun t => fails t 5 3)) ∧
      (rep.t0Ok = true → rep.t0Test = true → Completes (.warmExit rep) s (fun t => t.tb = s.tb ∧ drives t ∧
        (ready t ∨ fails t 5 4)))) ∧
    (b.scope = none → exec (.warmExit rep) s = .next s) ∧
    (accOk s (.pf p) true = true → exec (.bootStageRel (.pf p) v) s =
      .next (if bitAt v 0 then { s with boot := { b with staged := false } } else s))

/-- Service commands (R456 to R463, R465). While a command runs another sets BUSY_ERR. A command ends with its RESULT, and
counter 0x9030 passes it: BAD_TARGET for what does not exist, REFUSED_STATE where the unit's state does not allow it.
QUIESCE stops dispatch and ends when the unit's slots are empty; RESUME brings it back; RELOAD tests it, and it serves again
where it passed; RETIRE removes it; MIGRATE moves a channel to its stack's spare, whose NBU first runs its tests; links are
recalibrated and lanes spared. A channel that fails is replaced with every codeword uncorrectable, or retired. MODEL'S
CHOICE: a unit quiesced again before its stand-in has finished keeps it (log 80); a spare's NBU runs its tests (log 81); a
channel without a spare is retired (log 61). -/
def Obligations.ServiceCommands : Prop :=
  ∀ (s : State) (p : HostPort) (v : Word) (cls u : Nat) (ch : Fin 512) (checks : List CheckResult),
    let t0 := fld v 55 46
    let c0 := fld v 59 56
    let b := s.boot
    let ended (t : State) (r : Nat) : Prop := t.boot.svcResult = r ∧ t.boot.svc = .idle ∧
      tget t.ctrs 0 0x9030 = tget s.ctrs 0 0x9030 + 1
    let rests (t : State) : Prop := t.mem = s.mem ∧ t.seqs = s.seqs
    let mode (t : State) : UnitMode := (unitOf t c0 t0).mode
    let rows : List (Instr × Nat) := [(.quiesce (.pf p) v, 1), (.resume (.pf p) v, 2), (.reload (.pf p) v, 3),
      (.retire (.pf p) v, 4), (.migrate (.pf p) v, 5), (.recalHbm (.pf p) v, 6), (.recalHws (.pf p) v, 7),
      (.laneSpare (.pf p) v, 8), (.recalD2d (.pf p) v, 9)]
    let act (k : Nat) : Prop := accOk s (.pf p) true = true ∧ fld v 63 60 = k ∧ b.svc = .idle
    let named := unitNamed c0 t0 = true ∧ underPattern s c0 t0 = false
    (∀ r ∈ rows, fld v 63 60 ≠ r.2 → exec r.1 s = .next s) ∧
    (∀ r ∈ rows, accOk s (.pf p) true = true → fld v 63 60 = r.2 → b.svc ≠ .idle →
      exec r.1 s = .next { s with boot := { b with sticky := b.sticky ||| 2 } }) ∧
    (∀ r ∈ rows, r.2 ≤ 4 → act r.2 → unitNamed c0 t0 = false → Completes r.1 s (fun t => ended t 4 ∧ rests t)) ∧
    (act 1 → named → mode s ≠ .inService → Completes (.quiesce (.pf p) v) s (fun t => ended t 1 ∧ mode t = mode s ∧ rests t)) ∧
    (act 1 → named → mode s = .inService → Completes (.quiesce (.pf p) v) s (fun t => mode t = .quiescing ∧
      t.boot.svc = .quiesce c0 t0 ∧ rests t ∧ t.queues = s.queues ∧ (unitOf t c0 t0).check = false ∧
      (∀ k, (unitOf s c0 t0).spare = .none → freeSpare s c0 = some k → (unitOf t c0 t0).spare = .standIn k))) ∧
    (b.svc = .quiesce cls u → slotsUsed s cls u false = 0 → Completes .quiesceDone s (fun t => ended t 0 ∧
      (unitOf t cls u).mode = .quiesced ∧ rests t ∧ t.queues = s.queues)) ∧
    (b.svc = .quiesce cls u → slotsUsed s cls u false ≠ 0 → exec .quiesceDone s = .next s) ∧
    (act 2 → unitNamed c0 t0 = true → mode s = .quiesced → Completes (.resume (.pf p) v) s (fun t => mode t = .inService ∧ rests t ∧
      (slotsUsed s c0 t0 true = 0 → ended t 0) ∧ (slotsUsed s c0 t0 true ≠ 0 → t.boot.svc = .resume c0 t0))) ∧
    (act 3 → named → mode s = .quiesced → Completes (.reload (.pf p) v) s (fun t => mode t = .testing ∧
      (unitOf t c0 t0).check = true ∧ t.boot.svc = .reload c0 t0 ∧ rests t ∧ t.queues = s.queues)) ∧
    (b.svc = .reload cls u → checksPass checks = true → Completes (.reloadTestsDone checks) s (fun t =>
      (unitOf t cls u).mode = .inService ∧ (unitOf t cls u).check = false ∧ t.seqs = s.seqs ∧
      (s.err.ppBase = 0 → t.mem = s.mem))) ∧
    (b.svc = .reload cls u → checksPass checks = false → Completes (.reloadTestsDone checks) s (fun t =>
      ended t 5 ∧ unitKey cls u ∈ t.err.unitFail ∧ (unitOf t cls u).check = false ∧ t.seqs = s.seqs ∧
      ((unitOf t cls u).mode = .quiesced ∨ (unitOf t cls u).mode = .retired))) ∧
    (act 4 → named → mode s = .quiesced → Completes (.retire (.pf p) v) s (fun t => ended t 0 ∧ mode t = .retired ∧
      t.seqs = s.seqs)) ∧
    (act 5 → t0 < 512 → (unitOf s 8 t0).mode ≠ .quiesced → Completes (.migrate (.pf p) v) s (fun t => ended t 1 ∧ rests t)) ∧
    (act 5 → t0 < 512 → (unitOf s 8 t0).mode = .quiesced → chSpareFree s (t0 / 32) = false →
      Completes (.migrate (.pf p) v) s (fun t => ended t 2 ∧ rests t)) ∧
    (act 5 → t0 < 512 → (unitOf s 8 t0).mode = .quiesced → chSpareFree s (t0 / 32) = true →
      Completes (.migrate (.pf p) v) s (fun t => t.boot.svc = .migrate t0 ∧ rests t)) ∧
    (b.svc = .migrate u → Completes .migrateDone s (fun t => ended t 0 ∧ tfind t.boot.chSpares (u / 32) = some u ∧
      (unitOf t 8 u).mode = .inService ∧ (unitOf t 8 u).fresh = true ∧ rests t)) ∧
    (act 6 → t0 < 16 → Completes (.recalHbm (.pf p) v) s (fun t => t.boot.svc = .link 6 t0 0 ∧ rests t)) ∧
    (act 7 → t0 < 16 → Completes (.recalHws (.pf p) v) s (fun t => t.boot.svc = .link 7 t0 0 ∧
      (portOf t t0).away = true ∧ (portOf t t0).egress = [] ∧ t.queues = s.queues)) ∧
    (act 8 → t0 < 16 → fld v 39 32 ≤ 3 → (portOf s t0).spare = false → Completes (.laneSpare (.pf p) v) s (fun t =>
      t.boot.svc = .link 8 t0 (fld v 39 32) ∧ rests t)) ∧
    (act 9 → t0 < 4 → Completes (.recalD2d (.pf p) v) s (fun t => t.boot.svc = .link 9 t0 0 ∧ rests t)) ∧
    (∀ a l, b.svc = .link a u l → Completes .svcDone s (fun t => ended t 0 ∧ rests t ∧
      (a = 7 → (portOf t u).away = false) ∧ (a = 8 → (portOf t u).spare = true))) ∧
    (b.svc = .idle → exec .quiesceDone s = .next s ∧ exec (.reloadTestsDone checks) s = .next s ∧
      exec .migrateDone s = .next s ∧ exec .svcDone s = .next s) ∧
    ((s.mem.retiredCh.contains ch.val = true ∨ b.ready = false) → exec (.channelFail ch) s = .next s) ∧
    (s.mem.retiredCh.contains ch.val = false → b.ready = true →
      (chSpareFree s (ch.val / 32) = true → Completes (.channelFail ch) s (fun t =>
        tfind t.boot.chSpares (ch.val / 32) = some ch.val ∧ ∀ c, area c = .t2 ch.val → cwBad t c = true)) ∧
      (chSpareFree s (ch.val / 32) = false → Completes (.channelFail ch) s (fun t =>
        t.mem.retiredCh.contains ch.val = true ∧ (unitOf t 8 ch.val).mode = .retired)))

/-- The loader and attestation (R471, R472, R473, R475 to R477, R479). One command at a time, CMD_ERR for another; a command
ends with its RESULT and counter 0x9040 passes it. A program's range is reserved when LOAD begins, the Sequencers' earlier
stores performed first (R72), and at its end holds a valid region, whose bundle passed every check against the slots and
floors, or is free. RELEASE needs a region that no Sequencer uses, and leaves zeros. A report takes the next leaf. The first
enrolment needs a node that never had an owner, and leaves the slot's revocation fuse as it was. MODEL'S CHOICE: those
stores become visible when the range is reserved (log 103); the header is looked at as the command begins (log 58), and a
slot is programmed once (log 62). -/
def Obligations.SecurityCommands : Prop :=
  ∀ (s : State) (p : HostPort) (n : Fin 64) (v : Word) (i src dst : Nat) (held : Bool),
    let w := s.sec.work
    let act (k : Nat) : Prop := accOk s (.pf p) = true ∧ fld v 63 60 = k
    let rows : List (Instr × Nat) :=
      [(.load (.pf p) v, 1), (.release (.pf p) v, 2), (.attest (.pf p) v, 3), (.enrollFirst (.pf p) v, 4)]
    let err : State := { s with sec := { s.sec with sticky := s.sec.sticky ||| 2 } }
    let turn : Prop := s.tst.check = none ∨ s.tst.checkFirst = false
    let idx := fld v 59 56
    let at_ := fld v 55 0
    let ended (t : State) (r : Nat) : Prop := t.sec.result = r ∧ t.sec.work = .idle ∧
      tget t.ctrs 0 0x9040 = tget s.ctrs 0 0x9040 + 1
    (∀ r ∈ rows, fld v 63 60 ≠ r.2 → exec r.1 s = .next s) ∧
    (∀ r ∈ rows, act r.2 → w ≠ .idle → exec r.1 s = .next err) ∧
    (fld v 63 60 = 4 → accOk s (.seq n) = true → (seqOf s n).stores = [] → exec (.enrollFirst (.seq n) v) s = .next err) ∧
    (act 1 → w = .idle →
      (∀ h, peekHead s at_ = some h → h.kind = 1 → regionRefuse s idx s.sec.dst.toNat h.psize = 0 →
        Completes (.load (.pf p) v) s (fun t => t.sec.work = .load idx at_ s.sec.dst.toNat true ∧
          regionOf t idx = { base := s.sec.dst.toNat, units := unitsFor h.psize } ∧ (∀ k, (seqOf t k).stores = []) ∧
          t.mem = (drainAll s).mem)) ∧
      ((peekHead s at_ = none ∨ ∃ h, peekHead s at_ = some h ∧ regionRefuse s idx s.sec.dst.toNat h.psize ≠ 0) → Completes (.load (.pf p) v) s (fun t =>
        t.sec.work = .load idx at_ s.sec.dst.toNat false ∧ t.sec.regions = s.sec.regions ∧ t.mem = s.mem))) ∧
    (act 2 → w = .idle → exec (.release (.pf p) v) s = .next { s with sec := { s.sec with work := .release idx } }) ∧
    (act 3 → w = .idle → exec (.attest (.pf p) v) s = .next { s with sec := { s.sec with work := .attest at_ } }) ∧
    (act 4 → w = .idle → exec (.enrollFirst (.pf p) v) s = .next { s with sec := { s.sec with work := .enrollFirst at_ } }) ∧
    (w = .idle → exec .secDone s = .next s) ∧
    (¬turn → exec .secDone s = .next s) ∧
    (turn → w ≠ .idle → Completes .secDone s (fun t => ended t t.sec.result)) ∧
    (turn → w = .load i src dst held → Completes .secDone s (fun t => ended t t.sec.result ∧ t.seqs = s.seqs ∧ t.queues = s.queues ∧
      (held = true → regionOf t i = {} ∨ ((regionOf t i).valid = true ∧ t.sec.result = 0 ∧ (regionOf t i).users = [] ∧
        ∃ x : State, ∃ b, x.sec.slots = s.sec.slots ∧ x.sec.floors = s.sec.floors ∧
          checkBundle x b = (0, (regionOf t i).slot) ∧ (regionOf t i).hash = Config.sha384 b.head ∧
          (regionOf t i).version = b.h.version)) ∧
      (∀ k, k ≠ i → regionOf t k = regionOf s k))) ∧
    (turn → w = .release i →
      ((regionOf s i).units = 0 → Completes .secDone s (fun t => ended t 8 ∧ t.mem = s.mem)) ∧
      ((regionOf s i).units ≠ 0 → (regionOf s i).users ≠ [] → Completes .secDone s (fun t => ended t 9 ∧ t.mem = s.mem ∧
        t.sec.regions = s.sec.regions)) ∧
      ((regionOf s i).units ≠ 0 → (regionOf s i).users = [] → Completes .secDone s (fun t => ended t 0 ∧ regionOf t i = {} ∧
        (Quiet s → ∀ a, inRegion (regionOf s i) a = true → byteAt t a = 0)))) ∧
    (turn → w = .attest dst →
      let ok := dst % 64 = 0 ∧ (inT0 dst = true ∨ area dst = .t1) ∧ withinTier s dst 8896 = true
      (¬ok → Completes .secDone s (fun t => ended t 0x0B ∧ t.mem = s.mem ∧ t.sec.topLeaf = s.sec.topLeaf)) ∧
      (ok → refill s.sec = none → Completes .secDone s (fun t => ended t 0x0A ∧ t.mem = s.mem)) ∧
      (ok → s.sec.bottomLive = true → s.sec.bottomLeaf < 1024 → Completes .secDone s (fun t => ended t 0 ∧
        t.sec.bottomLeaf = s.sec.bottomLeaf + 1 ∧ t.sec.topLeaf = s.sec.topLeaf)) ∧
      (ok → s.sec.bottomLive = false → s.sec.topLeaf < 1048576 → Completes .secDone s (fun t => ended t 0 ∧
        t.sec.bottomLeaf = 1 ∧ t.sec.topLeaf = s.sec.topLeaf + 1))) ∧
    (turn → w = .enrollFirst src → srcOk s src 64 = true →
      (s.sec.everOwner = true → Completes .secDone s (fun t => ended t 6 ∧ t.sec.slots = s.sec.slots)) ∧
      (let x := anyRead s loaderWho src 64
       s.sec.everOwner = false → x.ok = true → enrolSlot x.data < 8 → (slotOf s (enrolSlot x.data)).programmed = false →
        Completes .secDone s (fun t => ended t 0 ∧ t.sec.everOwner = true ∧
          slotOf t (enrolSlot x.data) = { enrolKey x.data with revoked := (slotOf s (enrolSlot x.data)).revoked } ∧ ∀ k, k ≠ enrolSlot x.data → slotOf t k = slotOf s k)))

/-- Shake-out (R480 to R487). A physical function's token is checked while the registers are locked; only one that passes
opens them, for its duration; the nonce is drawn anew each time. LOCK, or the end of the time, clears every perturbation
(requests that a clamp held upstream go on). A
perturbation register takes a value while it is unlocked and allowed, PERTURBED tells of it, and otherwise LOCK_ERR; a link
drop takes the links of its mask down. MODEL'S CHOICE: a token is judged by its format, its signatures, then SERIAL and NONCE
(log 58); a check that began while a loader command ran ends after it (log 95). -/
def Obligations.ShakeOut : Prop :=
  ∀ (s : State) (p : HostPort) (n : Fin 64) (v : Word) (d : Fin 8) (w : Fin 16) (c : Fin 3) (m : Fin 4) (addr : Nat),
    accOk s (.pf p) = true →
    let x := s.tst
    let err : Host.Outcome State Fault Refusal := .next { s with tst := { x with sticky := x.sticky ||| 2 } }
    let free := ∃ e, x.unlockEnd = some e ∧ s.tb.time.toNat < e.toNat
    let open_ (k : Nat) : Prop := free ∧ x.allow.testBit k = true
    let marked (t : State) : Prop := bitAt t.tst.sticky 2 = (bitAt x.sticky 2 || (!(pertActive s) && pertActive t))
    let us := fld v 31 0
    let ports := (List.range 16).filter (fun q => (fld v 63 48).testBit q)
    ((free ∨ x.check ≠ none) → exec (.tstUnlock (.pf p) v) s = err) ∧
    (¬free → x.check = none → exec (.tstUnlock (.pf p) v) s = .next (if fld v 55 6 = 0 then s
      else { s with tst := { x with check := some (fld v 55 6 * 64), checkFirst := decide (s.sec.work = .idle) } })) ∧
    ((seqOf s n).stores = [] → exec (.tstUnlock (.seq n) v) s = err) ∧
    (x.check = none → exec .tokenCheckDone s = .next s) ∧
    (x.check ≠ none → s.sec.work ≠ .idle → x.checkFirst = false → exec .tokenCheckDone s = .next s) ∧
    (x.check = some addr → (s.sec.work = .idle ∨ x.checkFirst = true) →
      let r := tokenRead s addr
      let t := tokenOf (r.data.take 128)
      let res := if r.ok then tokenResult r.s r.data else 1
      Completes .tokenCheckDone s (fun u => u.tst.check = none ∧ u.tst.result = res ∧ u.choice = r.s.choice + 4 ∧
        (res = 0 → u.tst.unlockEnd = some (r.s.tb.time + BitVec.ofNat 64 (t.duration * 1000000)) ∧ u.tst.allow = t.allow ∧
          t.serial = Config.serial ∧ t.nonce = x.nonce ∧ tget u.ctrs 0 0x9050 = tget s.ctrs 0 0x9050 + 1) ∧
        (res ≠ 0 → u.tst.unlockEnd = x.unlockEnd ∧ u.tst.allow = x.allow))) ∧
    (let cleared : State := chansFill { s with tst := { x with
        unlockEnd := none, allow := 0, delay := [], withhold := [], clamp := [], memlat := [], latCount := [] } }
     (bitAt v 0 = true → exec (.lock (.pf p) v) s = .next cleared) ∧
     (bitAt v 0 = false → exec (.lock (.pf p) v) s = .next s) ∧
     (∀ e, x.unlockEnd = some e → e.toNat ≤ s.tb.time.toNat → exec .unlockExpire s = .next cleared) ∧
     (∀ e, x.unlockEnd = some e → s.tb.time.toNat < e.toNat → exec .unlockExpire s = .next s)) ∧
    (¬open_ 0 → exec (.tstDelay (.pf p) d v) s = err) ∧
    (open_ 0 → Completes (.tstDelay (.pf p) d v) s (fun t => tget t.tst.delay 0 d.val = v &&& 0x3FF#64 ∧ marked t ∧
      t.mem = s.mem ∧ t.queues = s.queues)) ∧
    (¬open_ 1 → exec (.tstWithhold (.pf p) w v) s = err) ∧
    (open_ 1 → Completes (.tstWithhold (.pf p) w v) s (fun t =>
      tget t.tst.withhold 0 w.val = v &&& 0x8000FFFF0000FFFF#64 ∧ marked t ∧ t.mem = s.mem)) ∧
    (¬open_ 2 → exec (.tstClamp (.pf p) c v) s = err) ∧
    (open_ 2 → Completes (.tstClamp (.pf p) c v) s (fun t => tget t.tst.clamp 0 c.val = v &&& 0xFFFF#64 ∧ marked t ∧
      t.mem = s.mem)) ∧
    (¬open_ 3 → exec (.tstMemlat (.pf p) m v) s = err) ∧
    (open_ 3 → Completes (.tstMemlat (.pf p) m v) s (fun t => tget t.tst.memlat 0 m.val = v &&& 0x0000000F000FFFFF#64 ∧
      marked t ∧ t.mem = s.mem)) ∧
    (¬open_ 4 → exec (.tstLinkdrop (.pf p) v) s = err) ∧
    (open_ 4 → us = 0 → exec (.tstLinkdrop (.pf p) v) s = .next s) ∧
    (open_ 4 → us ≠ 0 → Completes (.tstLinkdrop (.pf p) v) s (fun t => marked t ∧
      (∀ q ∈ ports, (portOf t q).up = false ∧ ∃ z, tfind t.tst.drops q = some (z + BitVec.ofNat 64 (us * 1000)) ∧
        ((∀ j, (portOf s j).egress = [] ∧ (portOf s j).replay = []) → z = s.tb.time)) ∧
      tget t.ctrs 0 0x9052 = tget s.ctrs 0 0x9052 + BitVec.ofNat 64 ports.length)) ∧
    (∀ e, tfind x.drops w.val = some e → e.toNat ≤ s.tb.time.toNat → Completes (.linkdropEnd w) s (fun t =>
      tfind t.tst.drops w.val = none ∧ (∀ k, k ≠ w.val → tfind t.tst.drops k = tfind x.drops k) ∧ t.mem = s.mem)) ∧
    (∀ e, tfind x.drops w.val = some e → s.tb.time.toNat < e.toNat → exec (.linkdropEnd w) s = .next s) ∧
    (tfind x.drops w.val = none → exec (.linkdropEnd w) s = .next s)
end

