-- ==== Sys2Proof/Laws/Cells.lean ====
section
/-!
SUPPORT. Cells of memory: the canonical form is kept, and what a read finds after a write.
-/
namespace Sys2Proof.Machine
open Sys2Proof

/-! ## The canonical form -/

theorem cellsWf_iff (m : List Host.Cell) :
    cellsWf m = true ↔ m.Pairwise (fun x y => x.1 < y.1) ∧ ∀ e ∈ m, e.2 ≠ 0 := by
  induction m with
  | nil => simp [cellsWf]
  | cons e r ih =>
    obtain ⟨a, v⟩ := e
    cases r with
    | nil => simp [cellsWf]
    | cons f t =>
      obtain ⟨b, w⟩ := f
      simp only [cellsWf, Bool.and_eq_true, bne_iff_ne, decide_eq_true_eq, ih, List.pairwise_cons, List.mem_cons,
        forall_eq_or_imp]
      constructor
      · rintro ⟨⟨hv, hab⟩, ⟨ht, hp⟩, hw, hn⟩
        exact ⟨⟨⟨hab, fun x hx => Nat.lt_trans hab (ht x hx)⟩, ht, hp⟩, hv, hw, hn⟩
      · rintro ⟨⟨⟨hab, -⟩, ht, hp⟩, hv, hw, hn⟩
        exact ⟨⟨hv, hab⟩, ⟨ht, hp⟩, hw, hn⟩

theorem cellsWf_filter {m : List Host.Cell} (p : Host.Cell → Bool) (h : cellsWf m = true) : cellsWf (m.filter p) = true := by
  rw [cellsWf_iff] at *
  exact ⟨h.1.filter p, fun e he => h.2 e (List.mem_filter.1 he).1⟩

theorem mem_cellPut {m : List Host.Cell} {a : Nat} {v : Byte} {e : Host.Cell} (h : e ∈ cellPut m a v) :
    e = (a, v) ∨ e ∈ m := by
  induction m with
  | nil => simpa [cellPut] using h
  | cons x r ih =>
    obtain ⟨b, w⟩ := x
    simp only [cellPut] at h
    split at h
    · exact (List.mem_cons.1 h).imp_right (List.mem_cons_of_mem _)
    · split at h
      · exact List.mem_cons.1 h
      · rcases List.mem_cons.1 h with rfl | h
        · exact .inr (List.mem_cons_self)
        · exact (ih h).imp_right (List.mem_cons_of_mem _)

theorem cellsWf_cellPut {m : List Host.Cell} (a : Nat) {v : Byte} (hv : v ≠ 0) (h : cellsWf m = true) :
    cellsWf (cellPut m a v) = true := by
  rw [cellsWf_iff] at *
  refine ⟨?_, fun e he => ?_⟩
  · induction m with
    | nil => simp [cellPut]
    | cons x r ih =>
      obtain ⟨b, w⟩ := x
      have hr := List.pairwise_cons.1 h.1
      simp only [cellPut]
      split
      · subst_vars; exact List.pairwise_cons.2 hr
      · split
        · rename_i _ hab
          refine List.pairwise_cons.2 ⟨fun y hy => ?_, h.1⟩
          rcases List.mem_cons.1 hy with rfl | hy
          · exact hab
          · exact Nat.lt_trans hab (hr.1 y hy)
        · rename_i hne hab
          refine List.pairwise_cons.2 ⟨fun y hy => ?_, ih ⟨hr.2, fun e he => h.2 e (List.mem_cons_of_mem _ he)⟩⟩
          rcases mem_cellPut hy with rfl | hy
          · change b < a; omega
          · exact hr.1 y hy
  · rcases mem_cellPut he with rfl | he
    · exact hv
    · exact h.2 e he

theorem cellsWf_cellSet {m : List Host.Cell} (a : Nat) (v : Byte) (h : cellsWf m = true) : cellsWf (cellSet m a v) = true := by
  unfold cellSet
  split
  · exact cellsWf_filter _ h
  · rename_i hv; exact cellsWf_cellPut a hv h

theorem cellsWf_cellsSet {m : List Host.Cell} (a : Nat) (l : List Byte) (h : cellsWf m = true) :
    cellsWf (cellsSet m a l) = true := by
  induction l generalizing m a with
  | nil => exact h
  | cons b r ih => exact ih _ (cellsWf_cellSet a b h)

/-! ## Reading after a write -/

theorem cellGet_filter_ne (m : List Host.Cell) (a b : Nat) :
    cellGet (m.filter (fun e => e.1 != a)) b = if b = a then 0 else cellGet m b := by
  induction m with
  | nil => simp [cellGet]
  | cons x r ih =>
    obtain ⟨c, w⟩ := x
    by_cases h : c = a
    · subst h
      simp only [List.filter_cons, bne_self_eq_false, Bool.false_eq_true, if_false, ih, cellGet]
      split
      · rfl
      · rename_i h; simp [Ne.symm h]
    · have hc : ((c, w).1 != a) = true := by simpa using h
      simp only [List.filter_cons, hc, if_true, cellGet, ih]
      by_cases hcb : c = b
      · subst hcb; simp [h]
      · simp [hcb]

theorem cellGet_cellPut (m : List Host.Cell) (a b : Nat) (v : Byte) :
    cellGet (cellPut m a v) b = if b = a then v else cellGet m b := by
  induction m with
  | nil => simp [cellPut, cellGet, eq_comm]
  | cons x r ih =>
    obtain ⟨c, w⟩ := x
    simp only [cellPut]
    split
    · subst_vars; simp only [cellGet, eq_comm]; split <;> simp_all
    · split
      · simp only [cellGet, eq_comm]
      · simp only [cellGet, ih]
        by_cases hcb : c = b
        · subst hcb; rename_i hca _; simp [hca]
        · simp [hcb]

/-- A read after a write of one byte. -/
theorem cellGet_cellSet (m : List Host.Cell) (a b : Nat) (v : Byte) :
    cellGet (cellSet m a v) b = if b = a then v else cellGet m b := by
  unfold cellSet
  split
  · subst_vars; exact cellGet_filter_ne m a b
  · exact cellGet_cellPut m a b v

/-- A read outside the bytes written. -/
theorem cellGet_cellsSet_out (m : List Host.Cell) (a : Nat) (l : List Byte) (b : Nat) (h : b < a ∨ a + l.length ≤ b) :
    cellGet (cellsSet m a l) b = cellGet m b := by
  induction l generalizing m a with
  | nil => rfl
  | cons x r ih =>
    simp only [List.length_cons] at h
    rw [cellsSet, ih _ _ (by omega), cellGet_cellSet, if_neg (by omega)]

/-- A read of a byte written. -/
theorem cellGet_cellsSet_in (m : List Host.Cell) (a : Nat) (l : List Byte) (k : Nat) (h : k < l.length) :
    cellGet (cellsSet m a l) (a + k) = l.getD k 0 := by
  induction l generalizing m a k with
  | nil => simp at h
  | cons x r ih =>
    cases k with
    | zero => rw [cellsSet, cellGet_cellsSet_out _ _ _ _ (by omega), cellGet_cellSet, if_pos (Nat.add_zero a)]; rfl
    | succ j =>
      have := ih (cellSet m a x) (a + 1) j (by simpa using h)
      rw [cellsSet, show a + (j + 1) = a + 1 + j by omega, this]; rfl

/-- Bytes read back where they were written. -/
theorem cellsGet_cellsSet (m : List Host.Cell) (a : Nat) (l : List Byte) : cellsGet (cellsSet m a l) a l.length = l := by
  apply List.ext_getElem
  · simp [cellsGet]
  · intro k h1 h2
    simp [cellsGet, cellGet_cellsSet_in m a l k h2, h2]

end Sys2Proof.Machine
end

