-- ==== Sys2Proof/Laws/Memory.lean ====
section
/-!
SUPPORT. What an access of memory can do: it keeps the canonical form, and changes nothing but memory, caches, the directory
and its waiting requests, the channels and what their near-bank units leave, the log, the tallies and counters, a host port's
events and pending vectors, the clocks (it may wait for the end of a hold), the choice counter and the outbox.
-/
namespace Sys2Proof.Machine
open Sys2Proof

/-- A host port without what an access may leave in it: a raised event and a pending vector. -/
def HostSt.apart (h : HostSt) : HostSt := { h with sticky := 0, pba := [] }

/-- The node without what an access of memory may change. -/
def State.apart (s : State) : State :=
  { s with
    choice := 0, out := [], caches := [], ctrs := [], chans := [], nbus := [], host := [],
    mem := { retiredCh := s.mem.retiredCh, lostCh := s.mem.lostCh },
    dir := { ctl := s.dir.ctl, cont := s.dir.cont },
    tb := { s.tb with time := 0 },
    island := { s.island with subNs := 0, kept := { s.island.kept with clock := 0 } },
    feed := { s.feed with cache := [] },
    tst := { s.tst with latCount := [] },
    err := { s.err with queue := [], recs := [], stale := [], written := 0, lost := 0, sticky := 0, writerAt := 0 },
    foot := s.foot.map (fun f => { f with dirty := false, pend := [], failed := false }) }

/-- `t` follows from `s` by accesses of memory. -/
structure Access (s t : State) : Prop where
  apart : t.apart = s.apart
  wf : cellsWf s.mem.cells = true → cellsWf t.mem.cells = true
  host : ∀ p, (tget t.host {} p).apart = (tget s.host {} p).apart

theorem Access.refl (s : State) : Access s s := ⟨rfl, id, fun _ => rfl⟩

theorem Access.trans {s t u : State} (h : Access s t) (k : Access t u) : Access s u :=
  ⟨k.apart.trans h.apart, fun w => k.wf (h.wf w), fun p => (k.host p).trans (h.host p)⟩

theorem Access.foldl {α : Type} (f : State → α → State) (h : ∀ s x, Access s (f s x)) (l : List α) (s : State) :
    Access s (l.foldl f s) := by
  induction l generalizing s with
  | nil => exact .refl s
  | cons x r ih => exact (h s x).trans (ih _)

/-- A loop that stops at its first failure. -/
theorem Access.foldlRd {α : Type} (f : Rd → α → Rd) (h : ∀ r x, Access r.s (f r x).s) (l : List α) (r : Rd) :
    Access r.s (l.foldl f r).s := by
  induction l generalizing r with
  | nil => exact .refl r.s
  | cons x l ih => exact (h r x).trans (ih _)

theorem Access.foldlWr {α : Type} (f : Bool × State → α → Bool × State) (h : ∀ r x, Access r.2 (f r x).2) (l : List α)
    (r : Bool × State) : Access r.2 (l.foldl f r).2 := by
  induction l generalizing r with
  | nil => exact .refl r.2
  | cons x l ih => exact (h r x).trans (ih _)

/-! ## Fields that an access leaves -/

theorem Access.pending {s t : State} (h : Access s t) : t.pending = s.pending := by
  have := congrArg State.pending h.apart
  exact this
theorem Access.seqs {s t : State} (h : Access s t) : t.seqs = s.seqs := by
  have := congrArg State.seqs h.apart
  exact this
theorem Access.queues {s t : State} (h : Access s t) : t.queues = s.queues := by
  have := congrArg State.queues h.apart
  exact this
theorem Access.units {s t : State} (h : Access s t) : t.units = s.units := by
  have := congrArg State.units h.apart
  exact this
/-- The clock may pass while an access waits for a hold's end; nothing else of the timebase changes. -/
theorem Access.tb {s t : State} (h : Access s t) : { t.tb with time := 0 } = { s.tb with time := 0 } := by
  have := congrArg State.tb h.apart
  exact this
theorem Access.rail {s t : State} (h : Access s t) : t.rail = s.rail := by
  have := congrArg State.rail h.apart
  exact this
theorem Access.mxe {s t : State} (h : Access s t) : t.mxe = s.mxe := by
  have := congrArg State.mxe h.apart
  exact this
theorem Access.qte {s t : State} (h : Access s t) : t.qte = s.qte := by
  have := congrArg State.qte h.apart
  exact this
theorem Access.gwe {s t : State} (h : Access s t) : t.gwe = s.gwe := by
  have := congrArg State.gwe h.apart
  exact this
theorem Access.dse {s t : State} (h : Access s t) : t.dse = s.dse := by
  have := congrArg State.dse h.apart
  exact this
theorem Access.cu {s t : State} (h : Access s t) : t.cu = s.cu := by
  have := congrArg State.cu h.apart
  exact this
theorem Access.sle {s t : State} (h : Access s t) : t.sle = s.sle := by
  have := congrArg State.sle h.apart
  exact this
theorem Access.ldl {s t : State} (h : Access s t) : t.ldl = s.ldl := by
  have := congrArg State.ldl h.apart
  exact this
theorem Access.tiers {s t : State} (h : Access s t) : t.tiers = s.tiers := by
  have := congrArg State.tiers h.apart
  exact this
theorem Access.gte {s t : State} (h : Access s t) : t.gte = s.gte := by
  have := congrArg State.gte h.apart
  exact this
theorem Access.fle {s t : State} (h : Access s t) : t.fle = s.fle := by
  have := congrArg State.fle h.apart
  exact this
theorem Access.mbx {s t : State} (h : Access s t) : t.mbx = s.mbx := by
  have := congrArg State.mbx h.apart
  exact this
theorem Access.hws {s t : State} (h : Access s t) : t.hws = s.hws := by
  have := congrArg State.hws h.apart
  exact this
theorem Access.cmp {s t : State} (h : Access s t) : t.cmp = s.cmp := by
  have := congrArg State.cmp h.apart
  exact this
theorem Access.boot {s t : State} (h : Access s t) : t.boot = s.boot := by
  have := congrArg State.boot h.apart
  exact this
theorem Access.sec {s t : State} (h : Access s t) : t.sec = s.sec := by
  have := congrArg State.sec h.apart
  exact this
theorem Access.island {s t : State} (h : Access s t) :
    { t.island with subNs := 0, kept := { t.island.kept with clock := 0 } } =
      { s.island with subNs := 0, kept := { s.island.kept with clock := 0 } } := by
  have := congrArg State.island h.apart
  exact this
theorem Access.seqOf {s t : State} (h : Access s t) (n : Fin 64) : seqOf t n = seqOf s n := by
  simp only [Machine.seqOf, h.seqs]
theorem Access.queueOf {s t : State} (h : Access s t) (q : Nat) : queueOf t q = queueOf s q := by
  simp only [Machine.queueOf, h.queues]
theorem Access.unitOf {s t : State} (h : Access s t) (c u : Nat) : unitOf t c u = unitOf s c u := by
  simp only [Machine.unitOf, h.units]

/-- A host that is lost stays lost, and no other becomes so. -/
theorem Access.hostLost {s t : State} (h : Access s t) (p : HostPort) : hostLost t p = hostLost s p := by
  have h1 := congrArg HostSt.lost (h.host (portNum p))
  have h2 := congrArg HostSt.linkUp (h.host (portNum p))
  simp only [HostSt.apart] at h1 h2
  simp only [Machine.hostLost, h1, h2]

/-! ## The tiers -/

theorem tick1_access (s : State) : Access s (tick1 s) := ⟨rfl, id, fun _ => rfl⟩
theorem emit_access (s : State) (o : Output) : Access s (emit s o) := ⟨rfl, id, fun _ => rfl⟩
theorem ctrAdd_access (s : State) (k n : Nat) : Access s (ctrAdd s k n) := ⟨rfl, id, fun _ => rfl⟩
theorem errFlag_access (s : State) (i : Nat) : Access s (errFlag s i) := ⟨rfl, id, fun _ => rfl⟩
theorem dirFlag_access (s : State) (k i : Nat) : Access s (dirFlag s k i) := ⟨rfl, id, fun _ => rfl⟩
theorem cachePut_access (s : State) (g l : Nat) (c : CLine) : Access s (cachePut s g l c) := ⟨rfl, id, fun _ => rfl⟩
theorem dirDel_access (s : State) (l : Nat) : Access s (dirDel s l) := ⟨rfl, id, fun _ => rfl⟩
theorem nbuFlag_access (s : State) (u i : Nat) : Access s (nbuFlag s u i) := ⟨rfl, id, fun _ => rfl⟩
theorem updChan_access (s : State) (c : Nat) (f : Chan → Chan) : Access s (updChan s c f) := ⟨rfl, id, fun _ => rfl⟩

theorem memSet_access (s : State) (a : Nat) (l : List Byte) : Access s (memSet s a l) :=
  ⟨rfl, fun h => cellsWf_cellsSet a l h, fun _ => rfl⟩

theorem tierWrite_access (s : State) (a : Nat) (l : List Byte) : Access s (tierWrite s a l) :=
  ⟨rfl, fun h => cellsWf_cellsSet a l h, fun _ => rfl⟩

theorem tally_access (s : State) (t r n : Nat) : Access s (tally s t r n) := by
  unfold tally; split
  · exact .refl s
  · exact ⟨rfl, id, fun _ => rfl⟩

theorem tierTouch_access (s : State) (t r n : Nat) : Access s (tierTouch s t r n) := by
  refine ((ctrAdd_access s (0x9120 + r) n).trans (tally_access _ t (0x10 + r) n)).trans ?_
  unfold tierTouch
  dsimp only
  split
  · exact .refl _
  · split <;> exact ⟨rfl, id, fun _ => rfl⟩

/-! ## Caches and the directory -/

theorem cacheDrop_access (s : State) (g l : Nat) : Access s (cacheDrop s g l) := by
  unfold cacheDrop; split
  · exact .refl s
  · exact ⟨rfl, id, fun _ => rfl⟩

theorem spoilWords_access (s : State) (l : List Nat) : Access s (spoilWords s l) := ⟨rfl, id, fun _ => rfl⟩

theorem backRaw_access (s : State) (g l : Nat) : Access s (backRaw s g l) := by
  unfold backRaw; split
  · split
    · exact ((tierTouch_access _ _ _ _).trans (tierWrite_access _ _ _)).trans (spoilWords_access _ _)
    · exact .refl s
  · exact .refl s

/-- Copies leave the caches by accesses, where the way back to memory is one. -/
theorem recallBy_access (back : State → Nat → Nat → State) (h : ∀ s g l, Access s (back s g l)) (s : State) (l : Nat) :
    Access s (recallBy back s l) := by
  unfold recallBy; split
  · exact .refl s
  · exact (h _ _ _).trans (cacheDrop_access _ _ _)
  · exact Access.foldl _ (fun s g => cacheDrop_access s g l) _ s

theorem lineWrite_access (s : State) (l : Nat) (d : List Byte) : Access s (lineWrite s l d) :=
  (((recallBy_access _ backRaw_access _ _).trans (dirDel_access _ _)).trans (tierTouch_access _ _ _ _)).trans
    (tierWrite_access _ _ _)

/-! ## Holds -/

theorem passNs_access (s : State) (n : Nat) : Access s (passNs s n) := by
  unfold passNs; split
  · exact .refl s
  · refine ⟨?_, id, fun _ => rfl⟩
    cases h : s.tb.released <;> cases k : s.island.up <;>
      simp only [State.apart, h, k, if_true, Bool.false_eq_true, if_false]

theorem waitHold_access (s : State) (g l : Nat) : Access s (waitHold s g l) := passNs_access _ _

/-! ## The log -/

/-- A log that differs in what it has recorded. -/
theorem err_access (s : State) (e : ErrLog)
    (h : ({ e with queue := [], recs := [], stale := [], written := 0, lost := 0, sticky := 0, writerAt := 0 } : ErrLog)
      = { s.err with queue := [], recs := [], stale := [], written := 0, lost := 0, sticky := 0, writerAt := 0 }) :
    Access s { s with err := e } := by
  refine ⟨?_, id, fun _ => rfl⟩
  simp only [State.apart, h]

theorem ce_access (s : State) (l : List Nat) : Access s { s with mem := { s.mem with ce := l } } := ⟨rfl, id, fun _ => rfl⟩

/-- A port that gains an event or a pending vector. -/
theorem host_access (s : State) (k : Nat) (f : HostSt → HostSt) (h : ∀ x, (f x).apart = x.apart) :
    Access s { s with host := tmod s.host {} k f } := by
  refine ⟨rfl, id, fun p => ?_⟩
  dsimp only
  by_cases e : p = k
  · subst e; rw [tget_tmod_same]; exact h _
  · rw [tget_tmod_other _ _ _ e]

theorem raiseIrq_access (s : State) (p : HostPort) (f v : Nat) : Access s (raiseIrq s p f v) := by
  unfold raiseIrq; split
  · exact .refl s
  · split
    · exact host_access s _ _ (fun _ => rfl)
    · exact emit_access _ _

theorem hostFlag_access (s : State) (p : HostPort) (i : Nat) : Access s (hostFlag s p i) := host_access s _ _ (fun _ => rfl)

theorem recWrite_access (s : State) (r : LogRec) : Access s (recWrite s r) := by
  unfold recWrite
  extract_lets x u v t
  have hv : Access s t := (lineWrite_access s _ _).trans (err_access u t.err rfl)
  split
  · exact hv.trans (raiseIrq_access _ _ _ _)
  · exact hv

theorem writeNext_access (s : State) : Access s (writeNext s) := by
  unfold writeNext; split
  · exact .refl s
  · refine (err_access s _ ?_).trans (recWrite_access _ _); rfl

theorem logPump_access (s : State) : Access s (logPump s) := by
  unfold logPump; split
  · exact .refl s
  · split
    · exact writeNext_access s
    · exact .refl s

theorem logAgain_access (s : State) : Access s (logAgain s) := by
  unfold logAgain; split
  · exact .refl s
  · dsimp only; split
    · refine (err_access s _ ?_).trans (lineWrite_access _ _ _); rfl
    · refine err_access s _ ?_; rfl

theorem logRoom_access (s : State) : Access s (logRoom s) := by
  unfold logRoom; split
  · exact .refl s
  · split
    · exact .refl s
    · refine Access.trans ?_ ((waitHold_access _ _ _).trans (writeNext_access _))
      split
      · exact .refl s
      · exact passNs_access _ _

theorem recQueue_access (s : State) (r : LogRec) : Access s (recQueue s r) := by
  unfold recQueue; dsimp only; split
  · refine (logRoom_access s).trans (err_access _ _ ?_); rfl
  · refine (err_access s _ ?_).trans ((ctrAdd_access _ _ _).trans (errFlag_access _ _)); rfl

theorem noteKind_access (s : State) (k : Nat) : Access s (noteKind s k) := by
  unfold noteKind
  cases kindCtr k <;> cases kindFlag k <;> dsimp only <;> (try split) <;>
    first
    | exact .refl s
    | exact ctrAdd_access _ _ _
    | exact errFlag_access _ _
    | exact (ctrAdd_access _ _ _).trans (errFlag_access _ _)

theorem logRec_access (s : State) (w : Who) (k : Nat) (a y d : Word) : Access s (logRec s w k a y d) := by
  refine (noteKind_access s k).trans ?_
  unfold logRec
  generalize noteKind s k = v
  dsimp only
  split
  · split
    · refine err_access v _ ?_; rfl
    · exact recQueue_access _ _
  · exact .refl v

theorem memErr_access (s : State) (w : Who) (k c d : Nat) : Access s (memErr s w k c d) :=
  (tick1_access s).trans (logRec_access _ _ _ _ _ _)

theorem correct_access (s : State) (w : Who) (d : Nat) (b : Bool) (l : List Nat) : Access s (correct s w d b l) := by
  refine Access.foldl _ (fun s c => ?_) l s
  dsimp only
  split
  · split
    · exact ((ce_access s _).trans (tierTouch_access _ _ _ _)).trans (memErr_access _ _ _ _ _)
    · exact memErr_access _ _ _ _ _
  · exact .refl s

theorem residue_access (s : State) (w : Who) (a d : Word) (r : Residue) : Access s (residue s w a d r).2 := by
  unfold residue; split
  · exact .refl s
  · exact logRec_access _ _ _ _ _ _
  · exact (logRec_access _ _ _ _ _ _).trans (logRec_access _ _ _ _ _ _)

theorem residues_access (s : State) (w : Who) (a d : Word) (l : List Residue) : Access s (residues s w a d l).2 := by
  induction l generalizing s with
  | nil => exact .refl s
  | cons r l ih =>
    unfold residues; dsimp only; split
    · exact (residue_access _ _ _ _ _).trans (ih _)
    · exact residue_access _ _ _ _ _

theorem ctlRead_access (s : State) (w : Who) (a n : Nat) : Access s (ctlRead s w a n).s := by
  refine (tierTouch_access s w.tenant ((tierOf a).getD 0) n).trans ?_
  unfold ctlRead; dsimp only
  split
  · exact memErr_access _ _ _ _ _
  · exact correct_access _ _ _ _ _

/-! ## Footprints and the channel queue -/

/-- Footprints that differ in what observers and broadcast commands have left. -/
theorem foot_access (s : State) (g : Foot → Foot)
    (h : ∀ f, ({ g f with dirty := false, pend := [], failed := false } : Foot) = { f with dirty := false, pend := [], failed := false }) :
    Access s { s with foot := s.foot.map g } := by
  refine ⟨?_, id, fun _ => rfl⟩
  simp only [State.apart, List.map_map]
  congr 1
  exact List.map_congr_left (fun f _ => h f)

theorem footBytes_access (s : State) (w : Who) (a : Nat) (l : List Byte) : Access s (footBytes s w a l).2 := by
  unfold footBytes; split
  · exact .refl s
  · exact (foot_access s (fun f => { f with dirty := f.dirty || inFoot w f a l.length }) (fun _ => rfl)).trans (tick1_access _)

theorem updFoot_access (s : State) (q : Nat) (i : Word) (f : Foot → Foot)
    (h : ∀ x, ({ f x with dirty := false, pend := [], failed := false } : Foot) = { x with dirty := false, pend := [], failed := false }) :
    Access s (updFoot s q i f) := by
  refine foot_access s _ (fun x => ?_)
  dsimp only; split
  · exact h x
  · rfl

theorem bankWrite_access (s : State) (w : Who) (o : Nat) (l : List Byte) : Access s (bankWrite s w o l).2 := by
  unfold bankWrite; dsimp only; split
  · exact memErr_access _ _ _ _ _
  · refine Access.trans ?_ (((correct_access _ _ _ _ _).trans (tierTouch_access _ _ _ _)).trans (tierWrite_access _ _ _))
    split
    · exact nbuFlag_access _ _ _
    · exact .refl s

theorem writePend_access (s : State) (f : Foot) (pick : Nat → Bool) : Access s (writePend s f pick) := by
  refine (updFoot_access s f.q f.i (fun x => { x with pend := x.pend.filter (fun e => !(pick e.1)) }) (fun _ => rfl)).trans ?_
  refine Access.foldl _ (fun s e => ?_) _ _
  dsimp only; split
  · exact bankWrite_access _ _ _ _
  · exact (bankWrite_access _ _ _ _).trans (updFoot_access _ _ _ (fun x => { x with failed := true }) (fun _ => rfl))

theorem bcastEnd_access (s : State) (ch : Nat) (more : Bool) : Access s (bcastEnd s ch more) := by
  refine (tick1_access s).trans ?_
  unfold bcastEnd; dsimp only
  exact (Access.foldl _ (fun s f => writePend_access s f _) _ _).trans (updChan_access _ _ _)

theorem ctlWrite_access (s : State) (w : Who) (a : Nat) (l : List Byte) : Access s (ctlWrite s w a l).2 := by
  unfold ctlWrite; split
  · exact memErr_access _ _ _ _ _
  · exact ((correct_access _ _ _ _ _).trans (tierTouch_access _ _ _ _)).trans (tierWrite_access _ _ _)

theorem chanServe_access (s : State) (ch : Nat) (r : ChanReq) : Access s (chanServe s ch r) := by
  unfold chanServe; split
  · exact (ctlRead_access _ _ _ _).trans (emit_access _ _)
  · exact ((footBytes_access _ _ _ _).trans (ctlWrite_access _ _ _ _)).trans (emit_access _ _)

theorem chanFill_access (s : State) (ch : Nat) : Access s (chanFill s ch) := updChan_access _ _ _

theorem chanServeOne_access (s : State) (ch : Nat) : Access s (chanServeOne s ch) := by
  unfold chanServeOne; split
  · exact .refl s
  · exact ((updChan_access _ _ _).trans (chanFill_access _ _)).trans (chanServe_access _ _ _)

theorem chanServeN_access (k : Nat) (s : State) (ch : Nat) : Access s (chanServeN k s ch) := by
  induction k generalizing s with
  | zero => exact .refl s
  | succ k ih => exact (chanServeOne_access s ch).trans (ih _)

theorem bcastStop_access (s : State) (ch : Nat) : Access s (bcastStop s ch) := by
  unfold bcastStop; dsimp only; split
  · exact bcastEnd_access _ _ _
  · exact tick1_access _

theorem chanToMem_access (s : State) (ch : Nat) : Access s (chanToMem s ch) :=
  (bcastStop_access s ch).trans (updChan_access _ _ _)

theorem chanTurn_access (s : State) (ch : Nat) : Access s (chanTurn s ch) := by
  unfold chanTurn; dsimp only; split
  · exact .refl s
  · refine Access.trans ?_ (chanServeN_access _ _ _)
    split
    · exact updChan_access _ _ _
    · exact (updChan_access s ch _).trans (chanToMem_access _ _)

theorem chanOpen_access (s : State) (a : Nat) : Access s (chanOpen s a) := by
  unfold chanOpen; split
  · exact chanTurn_access _ _
  · exact .refl s

theorem tierRead_access (s : State) (w : Who) (a n : Nat) : Access s (tierRead s w a n).s :=
  (chanOpen_access _ _).trans (ctlRead_access _ _ _ _)

theorem tierPut_access (s : State) (w : Who) (a : Nat) (l : List Byte) : Access s (tierPut s w a l).2 :=
  (chanOpen_access _ _).trans (ctlWrite_access _ _ _ _)

/-! ## Coherent accesses -/

theorem backNoted_access (s : State) (g l : Nat) : Access s (backNoted s g l) :=
  (Access.foldl _ (fun _ _ => memErr_access _ _ _ _ _) _ s).trans (backRaw_access _ _ _)

theorem writeBack_access (s : State) (g l : Nat) : Access s (writeBack s g l) := by
  unfold writeBack; split
  · split
    · exact (chanOpen_access _ _).trans (backNoted_access _ _ _)
    · exact .refl s
  · exact .refl s

theorem shed_access (s : State) (l : Nat) : Access s (shed s l) := by
  unfold shed; split
  · split
    · exact .refl s
    · exact (((chanOpen_access _ _).trans (backNoted_access _ _ _)).trans (cacheDrop_access _ _ _)).trans (dirDel_access _ _)
  · exact .refl s

theorem recallLine_access (s : State) (l : Nat) : Access s (recallLine s l) := recallBy_access _ writeBack_access _ _

theorem dirRoom_access (s : State) (l : Nat) : Access s (dirRoom s l) := by
  unfold dirRoom; dsimp only; split
  · exact .refl s
  · split
    · exact .refl s
    · exact (((waitHold_access _ _ _).trans (recallLine_access _ _)).trans (dirDel_access _ _)).trans (dirFlag_access _ _ _)

theorem dirPut_access (s : State) (l : Nat) (e : DirEntry) : Access s (dirPut s l e) := by
  unfold dirPut; dsimp only; split
  · exact (dirDel_access s l).trans ⟨rfl, id, fun _ => rfl⟩
  · exact (dirRoom_access s l).trans ⟨rfl, id, fun _ => rfl⟩

theorem cacheRoom_access (s : State) (g : Nat) : Access s (cacheRoom s g) := by
  unfold cacheRoom; dsimp only; split
  · exact .refl s
  · split
    · exact .refl s
    · refine (tick1_access s).trans ?_
      split
      · exact ((writeBack_access _ _ _).trans (dirDel_access _ _)).trans (cacheDrop_access _ _ _)
      · exact cacheDrop_access _ _ _

theorem install_access (s : State) (g l : Nat) (m : Bool) (d : List Byte) (h : Nat) : Access s (install s g l m d h) := by
  unfold install; dsimp only; split
  · exact cachePut_access _ _ _ _
  · exact (cacheRoom_access _ _).trans (cachePut_access _ _ _ _)

theorem fill_access (s : State) (g l : Nat) (m : Bool) (d : List Byte) (h : Nat) (e : DirEntry) :
    Access s (install (dirPut s l e) g l m d h) := (dirPut_access _ _ _).trans (install_access _ _ _ _ _ _)

theorem downgrade_access (s : State) (o l : Nat) (d : List Byte) : Access s (cachePut (writeBack s o l) o l ⟨false, d, 0⟩) :=
  (writeBack_access _ _ _).trans (cachePut_access _ _ _ _)

theorem hit_access (s : State) (w : Who) (a n : Nat) (c : CLine) : Access s (hit s w a n c).s := by
  unfold hit; split
  · exact memErr_access _ _ _ _ _
  · exact .refl s

theorem homeGetS_access (s : State) (w : Who) (l : Nat) : Access s (homeGetS s w l).s := by
  have fromTier : ∀ (s : State) (e : DirEntry), Access s (
      let r := tierRead s w (l * 64) 64
      if r.ok then ⟨true, r.data, install (dirPut r.s l e) w.agent l false r.data 0⟩ else r : Rd).s := fun s e => by
    dsimp only; split
    · exact (tierRead_access _ _ _ _).trans (fill_access _ _ _ _ _ _ _)
    · exact tierRead_access _ _ _ _
  refine (shed_access s l).trans ?_
  unfold homeGetS
  generalize shed s l = t
  dsimp only
  split
  · split
    · exact (downgrade_access _ _ _ _).trans (fill_access _ _ _ _ _ _ _)
    · exact fromTier _ _
  · exact fromTier _ _

theorem takeM_access (s : State) (w : Who) (l : Nat) (d : List Byte) : Access s (takeM s w l d) := by
  unfold takeM; dsimp only
  exact (Access.foldl _ (fun s g => cacheDrop_access s g l) _ s).trans (fill_access _ _ _ _ _ _ _)

theorem homeGetM_access (s : State) (w : Who) (a n : Nat) : Access s (homeGetM s w a n).s := by
  refine (shed_access s (a / 64)).trans ?_
  unfold homeGetM
  extract_lets line t x
  change Access t _
  clear_value t
  have hx : Access t x.s := by
    simp only [x]; split
    · exact hit_access _ _ _ _ _
    · split
      · exact .refl _
      · exact tierRead_access _ _ _ _
  split
  · exact hx.trans (takeM_access _ _ _ _)
  · exact hx

theorem homeRead_access (s : State) (w : Who) (a n : Nat) : Access s (homeRead s w a n).s := by
  refine (shed_access s (a / 64)).trans ?_
  unfold homeRead
  extract_lets line t u
  change Access t _
  clear_value t
  refine Access.trans (t := u) ?_ (tierRead_access u w a n)
  simp only [u]
  split
  · split
    · exact (downgrade_access _ _ _ _).trans (dirPut_access _ _ _)
    · exact .refl _
  · exact .refl _

theorem homeWrite_access (s : State) (w : Who) (a : Nat) (l : List Byte) : Access s (homeWrite s w a l).2 :=
  ((recallLine_access _ _).trans (dirDel_access _ _)).trans (tierPut_access _ _ _ _)

/-! ## Requests that wait at a home -/

theorem waiting_access (s : State) (l : List DirWait) : Access s { s with dir := { s.dir with waiting := l } } :=
  ⟨rfl, id, fun _ => rfl⟩

theorem nearDo_access (s : State) (w : Who) (a : Nat) (op : AmoOp) (dbl : Bool) (x y : Word) (r : Residue) :
    Access s (nearDo s w a op dbl x y r).2 := by
  refine ((recallLine_access s (a / 64)).trans (dirDel_access _ (a / 64))).trans ((tierRead_access _ w a (amoSize dbl)).trans ?_)
  unfold nearDo; dsimp only
  split
  · exact .refl _
  · refine (residue_access _ { cls := 0xA, unit := homeSlice (a / 64), tenant := w.tenant } (BitVec.ofNat 64 a) 0 r).trans ?_
    split
    · exact .refl _
    · split
      · exact .refl _
      · exact (footBytes_access _ _ _ _).trans (ctlWrite_access _ _ _ _)

theorem farEnd_access (q : Rd) (w : Who) (a : Nat) (op : AmoOp) (dbl : Bool) (x y : Word) (r : Residue) :
    Access q.s (farEnd q w a op dbl x y r).2 := by
  unfold farEnd; dsimp only
  split
  · exact .refl _
  · refine (residue_access _ w (BitVec.ofNat 64 a) 0 r).trans ?_
    split
    · exact .refl _
    · split
      · exact .refl _
      · refine Access.trans (footBytes_access _ w a (amoBytes op dbl ((q.data.drop (a % 64)).take (amoSize dbl)) x y)) ?_
        split
        · exact cachePut_access _ _ _ _
        · exact .refl _

theorem answer_access (g l : Nat) (r : Rd) : Access r.s (answer g l r) := by
  unfold answer; split
  · exact emit_access _ _
  · exact .refl _

theorem getsEffect_access (g l : Nat) (s : State) : Access s (getsEffect g l s) := by
  refine Access.trans ?_ (answer_access _ _ _)
  split
  · exact hit_access _ _ _ _ _
  · exact homeGetS_access _ _ _

theorem getmEffect_access (g l : Nat) (s : State) : Access s (getmEffect g l s) := by
  refine Access.trans ?_ (answer_access _ _ _)
  split
  · split
    · exact hit_access _ _ _ _ _
    · exact homeGetM_access _ _ _ _
  · exact homeGetM_access _ _ _ _

theorem atomicEffect_access (near : Bool) (g a : Nat) (op : AmoOp) (dbl : Bool) (x y : Word) (r : Residue) (s : State) :
    Access s (atomicEffect near g a op dbl x y r s) := by
  unfold atomicEffect
  extract_lets e
  have he : Access s e.2 := by
    simp only [e]; split
    · exact nearDo_access _ _ _ _ _ _ _ _
    · exact (homeGetM_access _ _ _ _).trans (farEnd_access _ _ _ _ _ _ _ _)
  refine he.trans ?_
  split
  · exact emit_access _ _
  · exact .refl _

theorem dirServe_access (r : DirWait) (s : State) : Access s (dirServe r s) := by
  unfold dirServe; split
  · exact getsEffect_access _ _ _
  · exact getmEffect_access _ _ _
  · exact (homeRead_access _ _ _ _).trans (answer_access _ _ _)
  · split
    · exact .refl s
    · exact (footBytes_access _ _ _ _).trans (homeWrite_access _ _ _ _)
  · split
    · exact .refl s
    · exact atomicEffect_access _ _ _ _ _ _ _ _ _
  · exact .refl s

/-- Waiting requests are served by accesses, where bringing a request's turn is one. -/
theorem serveLine_access (come : State → DirWait → Option State) (h : ∀ s r t, come s r = some t → Access s t) (k : Nat)
    (s : State) (l : Nat) : Access s (serveLine come k s l) := by
  induction k generalizing s with
  | zero => exact .refl s
  | succ k ih =>
    unfold serveLine; split
    · exact .refl s
    · split
      · exact .refl s
      · rename_i t e
        exact ((((h _ _ _ e).trans (waiting_access t _)).trans (tick1_access _)).trans (dirServe_access _ _)).trans (ih _)

theorem serveWaiting_access (s : State) (l : Nat) : Access s (serveWaiting s l) := by
  refine serveLine_access _ (fun s r t e => ?_) _ _ _
  split at e
  · cases e
  · cases e; exact .refl s

theorem lineTurn_access (s : State) (g l : Nat) : Access s (lineTurn s g l) :=
  (serveLine_access _ (fun s r t e => by cases e; exact waitHold_access _ _ _) _ _ _).trans (waitHold_access _ _ _)

/-! ## Coherent accesses that are part of a command -/

theorem getS_access (s : State) (w : Who) (a n : Nat) : Access s (getS s w a n).s := by
  unfold getS; split
  · exact hit_access _ _ _ _ _
  · refine (lineTurn_access s w.agent (a / 64)).trans ?_
    dsimp only; split
    · exact hit_access _ _ _ _ _
    · exact homeGetS_access _ _ _

theorem getM_access (s : State) (w : Who) (a n : Nat) : Access s (getM s w a n).s := by
  unfold getM; split
  · split
    · exact hit_access _ _ _ _ _
    · exact (lineTurn_access s _ _).trans (homeGetM_access _ _ _ _)
  · exact (lineTurn_access s _ _).trans (homeGetM_access _ _ _ _)

theorem ncRead_access (s : State) (w : Who) (a n : Nat) : Access s (ncRead s w a n).s :=
  (lineTurn_access _ _ _).trans (homeRead_access _ _ _ _)

theorem ncWrite_access (s : State) (w : Who) (a : Nat) (l : List Byte) : Access s (ncWrite s w a l).2 :=
  (lineTurn_access _ _ _).trans (homeWrite_access _ _ _ _)

theorem farDo_access (s : State) (w : Who) (a : Nat) (op : AmoOp) (dbl : Bool) (x y : Word) (r : Residue) :
    Access s (farDo s w a op dbl x y r).2 := (getM_access _ _ _ _).trans (farEnd_access _ _ _ _ _ _ _ _)

theorem nodeRead_access (s : State) (w : Who) (a n : Nat) : Access s (nodeRead s w a n).s := by
  refine Access.foldlRd _ (fun r p => ?_) (pieces a n) ⟨true, [], s⟩
  split
  · split
    · exact getS_access _ _ _ _
    · exact ncRead_access _ _ _ _
  · exact .refl r.s

theorem mend_access (s : State) (g a n : Nat) : Access s (mend s g a n) := ⟨rfl, id, fun _ => rfl⟩

theorem pieceWrite_access (s : State) (w : Who) (a : Nat) (l : List Byte) : Access s (pieceWrite s w a l).2 := by
  refine (footBytes_access s w a l).trans ?_
  unfold pieceWrite pieceWrite0
  dsimp only
  split
  · split
    · split
      · exact ((getM_access _ _ _ _).trans (cachePut_access _ _ _ _)).trans (mend_access _ _ _ _)
      · exact getM_access _ _ _ _
    · exact getM_access _ _ _ _
  · exact ncWrite_access _ _ _ _

theorem nodeWrite_access (s : State) (w : Who) (a : Nat) (l : List Byte) : Access s (nodeWrite s w a l).2 := by
  refine Access.foldlWr _ (fun r p => ?_) (pieces a l.length) (true, s)
  split
  · exact pieceWrite_access _ _ _ _
  · exact .refl r.2

/-! ## Any tier -/

theorem t3Loss_access (s : State) (w : Who) (p : HostPort) (c : Nat) : Access s (t3Loss s w p c) := logRec_access _ _ _ _ _ _

theorem segRead_access (s : State) (w : Who) (p : HostPort) (a n : Nat) : Access s (segRead s w p a n).s := by
  unfold segRead; split
  · exact t3Loss_access _ _ _ _
  · split
    · exact ((tick1_access s).trans (hostFlag_access _ _ _)).trans (t3Loss_access _ _ _ _)
    · exact (tick1_access s).trans (tierTouch_access _ _ _ _)

theorem segWrite_access (s : State) (w : Who) (p : HostPort) (a : Nat) (l : List Byte) : Access s (segWrite s w p a l).2 := by
  unfold segWrite; split
  · exact t3Loss_access _ _ _ _
  · exact (tierTouch_access _ _ _ _).trans (emit_access _ _)

theorem t3Read_access (s : State) (w : Who) (p : HostPort) (a n : Nat) : Access s (t3Read s w p a n).s := by
  refine Access.foldlRd _ (fun r e => ?_) (segments p a n) ⟨true, [], s⟩
  split
  · exact segRead_access _ _ _ _ _
  · exact .refl r.s

theorem t3Write_access (s : State) (w : Who) (p : HostPort) (a : Nat) (l : List Byte) : Access s (t3Write s w p a l).2 := by
  refine Access.foldlWr _ (fun r e => ?_) (segments p a l.length) (true, s)
  split
  · exact segWrite_access _ _ _ _ _
  · exact .refl r.2

theorem anyRead_access (s : State) (w : Who) (a n : Nat) : Access s (anyRead s w a n).s := by
  unfold anyRead; split
  · exact t3Read_access _ _ _ _ _
  · exact nodeRead_access _ _ _ _

theorem anyWrite_access (s : State) (w : Who) (a : Nat) (l : List Byte) : Access s (anyWrite s w a l).2 := by
  unfold anyWrite; split
  · exact t3Write_access _ _ _ _ _
  · exact nodeWrite_access _ _ _ _

/-! ## The canonical form -/

/-- The memory after reset lists nothing. -/
theorem reset_wf : State.reset.mem.wf := rfl

end Sys2Proof.Machine
end

