-- ==== Sys2Proof/Laws/State.lean ====
section
/-!
SUPPORT. What each update of the state leaves alone, field by field, and what it makes of its own bank.
-/
namespace Sys2Proof.Machine
open Sys2Proof

/-! ## Fields that an update leaves -/

@[simp] theorem tick1_pending (s : State) : (tick1 s).pending = s.pending := rfl
@[simp] theorem tick1_out (s : State) : (tick1 s).out = s.out := rfl
@[simp] theorem tick1_mem (s : State) : (tick1 s).mem = s.mem := rfl
@[simp] theorem tick1_caches (s : State) : (tick1 s).caches = s.caches := rfl
@[simp] theorem tick1_dir (s : State) : (tick1 s).dir = s.dir := rfl
@[simp] theorem tick1_tb (s : State) : (tick1 s).tb = s.tb := rfl
@[simp] theorem tick1_rail (s : State) : (tick1 s).rail = s.rail := rfl
@[simp] theorem tick1_seqs (s : State) : (tick1 s).seqs = s.seqs := rfl
@[simp] theorem tick1_ctrs (s : State) : (tick1 s).ctrs = s.ctrs := rfl
@[simp] theorem tick1_queues (s : State) : (tick1 s).queues = s.queues := rfl
@[simp] theorem tick1_units (s : State) : (tick1 s).units = s.units := rfl
@[simp] theorem tick1_qte (s : State) : (tick1 s).qte = s.qte := rfl
@[simp] theorem tick1_mxe (s : State) : (tick1 s).mxe = s.mxe := rfl
@[simp] theorem tick1_gwe (s : State) : (tick1 s).gwe = s.gwe := rfl
@[simp] theorem tick1_dse (s : State) : (tick1 s).dse = s.dse := rfl
@[simp] theorem tick1_cu (s : State) : (tick1 s).cu = s.cu := rfl
@[simp] theorem tick1_sle (s : State) : (tick1 s).sle = s.sle := rfl
@[simp] theorem tick1_ldl (s : State) : (tick1 s).ldl = s.ldl := rfl
@[simp] theorem tick1_tiers (s : State) : (tick1 s).tiers = s.tiers := rfl
@[simp] theorem tick1_chans (s : State) : (tick1 s).chans = s.chans := rfl
@[simp] theorem tick1_nbus (s : State) : (tick1 s).nbus = s.nbus := rfl
@[simp] theorem tick1_foot (s : State) : (tick1 s).foot = s.foot := rfl
@[simp] theorem tick1_gte (s : State) : (tick1 s).gte = s.gte := rfl
@[simp] theorem tick1_fle (s : State) : (tick1 s).fle = s.fle := rfl
@[simp] theorem tick1_mbx (s : State) : (tick1 s).mbx = s.mbx := rfl
@[simp] theorem tick1_host (s : State) : (tick1 s).host = s.host := rfl
@[simp] theorem tick1_hws (s : State) : (tick1 s).hws = s.hws := rfl
@[simp] theorem tick1_cmp (s : State) : (tick1 s).cmp = s.cmp := rfl
@[simp] theorem tick1_err (s : State) : (tick1 s).err = s.err := rfl
@[simp] theorem tick1_boot (s : State) : (tick1 s).boot = s.boot := rfl
@[simp] theorem tick1_sec (s : State) : (tick1 s).sec = s.sec := rfl
@[simp] theorem tick1_tst (s : State) : (tick1 s).tst = s.tst := rfl
@[simp] theorem tick1_feed (s : State) : (tick1 s).feed = s.feed := rfl
@[simp] theorem tick1_island (s : State) : (tick1 s).island = s.island := rfl

@[simp] theorem emit_pending (s : State) (o : Output) : (emit s o).pending = s.pending := rfl
@[simp] theorem emit_choice (s : State) (o : Output) : (emit s o).choice = s.choice := rfl
@[simp] theorem emit_mem (s : State) (o : Output) : (emit s o).mem = s.mem := rfl
@[simp] theorem emit_caches (s : State) (o : Output) : (emit s o).caches = s.caches := rfl
@[simp] theorem emit_dir (s : State) (o : Output) : (emit s o).dir = s.dir := rfl
@[simp] theorem emit_tb (s : State) (o : Output) : (emit s o).tb = s.tb := rfl
@[simp] theorem emit_rail (s : State) (o : Output) : (emit s o).rail = s.rail := rfl
@[simp] theorem emit_seqs (s : State) (o : Output) : (emit s o).seqs = s.seqs := rfl
@[simp] theorem emit_ctrs (s : State) (o : Output) : (emit s o).ctrs = s.ctrs := rfl
@[simp] theorem emit_queues (s : State) (o : Output) : (emit s o).queues = s.queues := rfl
@[simp] theorem emit_units (s : State) (o : Output) : (emit s o).units = s.units := rfl
@[simp] theorem emit_qte (s : State) (o : Output) : (emit s o).qte = s.qte := rfl
@[simp] theorem emit_mxe (s : State) (o : Output) : (emit s o).mxe = s.mxe := rfl
@[simp] theorem emit_gwe (s : State) (o : Output) : (emit s o).gwe = s.gwe := rfl
@[simp] theorem emit_dse (s : State) (o : Output) : (emit s o).dse = s.dse := rfl
@[simp] theorem emit_cu (s : State) (o : Output) : (emit s o).cu = s.cu := rfl
@[simp] theorem emit_sle (s : State) (o : Output) : (emit s o).sle = s.sle := rfl
@[simp] theorem emit_ldl (s : State) (o : Output) : (emit s o).ldl = s.ldl := rfl
@[simp] theorem emit_tiers (s : State) (o : Output) : (emit s o).tiers = s.tiers := rfl
@[simp] theorem emit_chans (s : State) (o : Output) : (emit s o).chans = s.chans := rfl
@[simp] theorem emit_nbus (s : State) (o : Output) : (emit s o).nbus = s.nbus := rfl
@[simp] theorem emit_foot (s : State) (o : Output) : (emit s o).foot = s.foot := rfl
@[simp] theorem emit_gte (s : State) (o : Output) : (emit s o).gte = s.gte := rfl
@[simp] theorem emit_fle (s : State) (o : Output) : (emit s o).fle = s.fle := rfl
@[simp] theorem emit_mbx (s : State) (o : Output) : (emit s o).mbx = s.mbx := rfl
@[simp] theorem emit_host (s : State) (o : Output) : (emit s o).host = s.host := rfl
@[simp] theorem emit_hws (s : State) (o : Output) : (emit s o).hws = s.hws := rfl
@[simp] theorem emit_cmp (s : State) (o : Output) : (emit s o).cmp = s.cmp := rfl
@[simp] theorem emit_err (s : State) (o : Output) : (emit s o).err = s.err := rfl
@[simp] theorem emit_boot (s : State) (o : Output) : (emit s o).boot = s.boot := rfl
@[simp] theorem emit_sec (s : State) (o : Output) : (emit s o).sec = s.sec := rfl
@[simp] theorem emit_tst (s : State) (o : Output) : (emit s o).tst = s.tst := rfl
@[simp] theorem emit_feed (s : State) (o : Output) : (emit s o).feed = s.feed := rfl
@[simp] theorem emit_island (s : State) (o : Output) : (emit s o).island = s.island := rfl

@[simp] theorem ctrAdd_pending (s : State) (k n : Nat) : (ctrAdd s k n).pending = s.pending := rfl
@[simp] theorem ctrAdd_choice (s : State) (k n : Nat) : (ctrAdd s k n).choice = s.choice := rfl
@[simp] theorem ctrAdd_out (s : State) (k n : Nat) : (ctrAdd s k n).out = s.out := rfl
@[simp] theorem ctrAdd_mem (s : State) (k n : Nat) : (ctrAdd s k n).mem = s.mem := rfl
@[simp] theorem ctrAdd_caches (s : State) (k n : Nat) : (ctrAdd s k n).caches = s.caches := rfl
@[simp] theorem ctrAdd_dir (s : State) (k n : Nat) : (ctrAdd s k n).dir = s.dir := rfl
@[simp] theorem ctrAdd_tb (s : State) (k n : Nat) : (ctrAdd s k n).tb = s.tb := rfl
@[simp] theorem ctrAdd_rail (s : State) (k n : Nat) : (ctrAdd s k n).rail = s.rail := rfl
@[simp] theorem ctrAdd_seqs (s : State) (k n : Nat) : (ctrAdd s k n).seqs = s.seqs := rfl
@[simp] theorem ctrAdd_queues (s : State) (k n : Nat) : (ctrAdd s k n).queues = s.queues := rfl
@[simp] theorem ctrAdd_units (s : State) (k n : Nat) : (ctrAdd s k n).units = s.units := rfl
@[simp] theorem ctrAdd_qte (s : State) (k n : Nat) : (ctrAdd s k n).qte = s.qte := rfl
@[simp] theorem ctrAdd_mxe (s : State) (k n : Nat) : (ctrAdd s k n).mxe = s.mxe := rfl
@[simp] theorem ctrAdd_gwe (s : State) (k n : Nat) : (ctrAdd s k n).gwe = s.gwe := rfl
@[simp] theorem ctrAdd_dse (s : State) (k n : Nat) : (ctrAdd s k n).dse = s.dse := rfl
@[simp] theorem ctrAdd_cu (s : State) (k n : Nat) : (ctrAdd s k n).cu = s.cu := rfl
@[simp] theorem ctrAdd_sle (s : State) (k n : Nat) : (ctrAdd s k n).sle = s.sle := rfl
@[simp] theorem ctrAdd_ldl (s : State) (k n : Nat) : (ctrAdd s k n).ldl = s.ldl := rfl
@[simp] theorem ctrAdd_tiers (s : State) (k n : Nat) : (ctrAdd s k n).tiers = s.tiers := rfl
@[simp] theorem ctrAdd_chans (s : State) (k n : Nat) : (ctrAdd s k n).chans = s.chans := rfl
@[simp] theorem ctrAdd_nbus (s : State) (k n : Nat) : (ctrAdd s k n).nbus = s.nbus := rfl
@[simp] theorem ctrAdd_foot (s : State) (k n : Nat) : (ctrAdd s k n).foot = s.foot := rfl
@[simp] theorem ctrAdd_gte (s : State) (k n : Nat) : (ctrAdd s k n).gte = s.gte := rfl
@[simp] theorem ctrAdd_fle (s : State) (k n : Nat) : (ctrAdd s k n).fle = s.fle := rfl
@[simp] theorem ctrAdd_mbx (s : State) (k n : Nat) : (ctrAdd s k n).mbx = s.mbx := rfl
@[simp] theorem ctrAdd_host (s : State) (k n : Nat) : (ctrAdd s k n).host = s.host := rfl
@[simp] theorem ctrAdd_hws (s : State) (k n : Nat) : (ctrAdd s k n).hws = s.hws := rfl
@[simp] theorem ctrAdd_cmp (s : State) (k n : Nat) : (ctrAdd s k n).cmp = s.cmp := rfl
@[simp] theorem ctrAdd_err (s : State) (k n : Nat) : (ctrAdd s k n).err = s.err := rfl
@[simp] theorem ctrAdd_boot (s : State) (k n : Nat) : (ctrAdd s k n).boot = s.boot := rfl
@[simp] theorem ctrAdd_sec (s : State) (k n : Nat) : (ctrAdd s k n).sec = s.sec := rfl
@[simp] theorem ctrAdd_tst (s : State) (k n : Nat) : (ctrAdd s k n).tst = s.tst := rfl
@[simp] theorem ctrAdd_feed (s : State) (k n : Nat) : (ctrAdd s k n).feed = s.feed := rfl
@[simp] theorem ctrAdd_island (s : State) (k n : Nat) : (ctrAdd s k n).island = s.island := rfl

@[simp] theorem memSet_pending (s : State) (a : Nat) (l : List Byte) : (memSet s a l).pending = s.pending := rfl
@[simp] theorem memSet_choice (s : State) (a : Nat) (l : List Byte) : (memSet s a l).choice = s.choice := rfl
@[simp] theorem memSet_out (s : State) (a : Nat) (l : List Byte) : (memSet s a l).out = s.out := rfl
@[simp] theorem memSet_caches (s : State) (a : Nat) (l : List Byte) : (memSet s a l).caches = s.caches := rfl
@[simp] theorem memSet_dir (s : State) (a : Nat) (l : List Byte) : (memSet s a l).dir = s.dir := rfl
@[simp] theorem memSet_tb (s : State) (a : Nat) (l : List Byte) : (memSet s a l).tb = s.tb := rfl
@[simp] theorem memSet_rail (s : State) (a : Nat) (l : List Byte) : (memSet s a l).rail = s.rail := rfl
@[simp] theorem memSet_seqs (s : State) (a : Nat) (l : List Byte) : (memSet s a l).seqs = s.seqs := rfl
@[simp] theorem memSet_ctrs (s : State) (a : Nat) (l : List Byte) : (memSet s a l).ctrs = s.ctrs := rfl
@[simp] theorem memSet_queues (s : State) (a : Nat) (l : List Byte) : (memSet s a l).queues = s.queues := rfl
@[simp] theorem memSet_units (s : State) (a : Nat) (l : List Byte) : (memSet s a l).units = s.units := rfl
@[simp] theorem memSet_qte (s : State) (a : Nat) (l : List Byte) : (memSet s a l).qte = s.qte := rfl
@[simp] theorem memSet_mxe (s : State) (a : Nat) (l : List Byte) : (memSet s a l).mxe = s.mxe := rfl
@[simp] theorem memSet_gwe (s : State) (a : Nat) (l : List Byte) : (memSet s a l).gwe = s.gwe := rfl
@[simp] theorem memSet_dse (s : State) (a : Nat) (l : List Byte) : (memSet s a l).dse = s.dse := rfl
@[simp] theorem memSet_cu (s : State) (a : Nat) (l : List Byte) : (memSet s a l).cu = s.cu := rfl
@[simp] theorem memSet_sle (s : State) (a : Nat) (l : List Byte) : (memSet s a l).sle = s.sle := rfl
@[simp] theorem memSet_ldl (s : State) (a : Nat) (l : List Byte) : (memSet s a l).ldl = s.ldl := rfl
@[simp] theorem memSet_tiers (s : State) (a : Nat) (l : List Byte) : (memSet s a l).tiers = s.tiers := rfl
@[simp] theorem memSet_chans (s : State) (a : Nat) (l : List Byte) : (memSet s a l).chans = s.chans := rfl
@[simp] theorem memSet_nbus (s : State) (a : Nat) (l : List Byte) : (memSet s a l).nbus = s.nbus := rfl
@[simp] theorem memSet_foot (s : State) (a : Nat) (l : List Byte) : (memSet s a l).foot = s.foot := rfl
@[simp] theorem memSet_gte (s : State) (a : Nat) (l : List Byte) : (memSet s a l).gte = s.gte := rfl
@[simp] theorem memSet_fle (s : State) (a : Nat) (l : List Byte) : (memSet s a l).fle = s.fle := rfl
@[simp] theorem memSet_mbx (s : State) (a : Nat) (l : List Byte) : (memSet s a l).mbx = s.mbx := rfl
@[simp] theorem memSet_host (s : State) (a : Nat) (l : List Byte) : (memSet s a l).host = s.host := rfl
@[simp] theorem memSet_hws (s : State) (a : Nat) (l : List Byte) : (memSet s a l).hws = s.hws := rfl
@[simp] theorem memSet_cmp (s : State) (a : Nat) (l : List Byte) : (memSet s a l).cmp = s.cmp := rfl
@[simp] theorem memSet_err (s : State) (a : Nat) (l : List Byte) : (memSet s a l).err = s.err := rfl
@[simp] theorem memSet_boot (s : State) (a : Nat) (l : List Byte) : (memSet s a l).boot = s.boot := rfl
@[simp] theorem memSet_sec (s : State) (a : Nat) (l : List Byte) : (memSet s a l).sec = s.sec := rfl
@[simp] theorem memSet_tst (s : State) (a : Nat) (l : List Byte) : (memSet s a l).tst = s.tst := rfl
@[simp] theorem memSet_feed (s : State) (a : Nat) (l : List Byte) : (memSet s a l).feed = s.feed := rfl
@[simp] theorem memSet_island (s : State) (a : Nat) (l : List Byte) : (memSet s a l).island = s.island := rfl

@[simp] theorem updSeq_pending (s : State) (n : Fin 64) (f : Seq → Seq) : (updSeq s n f).pending = s.pending := rfl
@[simp] theorem updSeq_choice (s : State) (n : Fin 64) (f : Seq → Seq) : (updSeq s n f).choice = s.choice := rfl
@[simp] theorem updSeq_out (s : State) (n : Fin 64) (f : Seq → Seq) : (updSeq s n f).out = s.out := rfl
@[simp] theorem updSeq_mem (s : State) (n : Fin 64) (f : Seq → Seq) : (updSeq s n f).mem = s.mem := rfl
@[simp] theorem updSeq_caches (s : State) (n : Fin 64) (f : Seq → Seq) : (updSeq s n f).caches = s.caches := rfl
@[simp] theorem updSeq_dir (s : State) (n : Fin 64) (f : Seq → Seq) : (updSeq s n f).dir = s.dir := rfl
@[simp] theorem updSeq_tb (s : State) (n : Fin 64) (f : Seq → Seq) : (updSeq s n f).tb = s.tb := rfl
@[simp] theorem updSeq_rail (s : State) (n : Fin 64) (f : Seq → Seq) : (updSeq s n f).rail = s.rail := rfl
@[simp] theorem updSeq_ctrs (s : State) (n : Fin 64) (f : Seq → Seq) : (updSeq s n f).ctrs = s.ctrs := rfl
@[simp] theorem updSeq_queues (s : State) (n : Fin 64) (f : Seq → Seq) : (updSeq s n f).queues = s.queues := rfl
@[simp] theorem updSeq_units (s : State) (n : Fin 64) (f : Seq → Seq) : (updSeq s n f).units = s.units := rfl
@[simp] theorem updSeq_qte (s : State) (n : Fin 64) (f : Seq → Seq) : (updSeq s n f).qte = s.qte := rfl
@[simp] theorem updSeq_mxe (s : State) (n : Fin 64) (f : Seq → Seq) : (updSeq s n f).mxe = s.mxe := rfl
@[simp] theorem updSeq_gwe (s : State) (n : Fin 64) (f : Seq → Seq) : (updSeq s n f).gwe = s.gwe := rfl
@[simp] theorem updSeq_dse (s : State) (n : Fin 64) (f : Seq → Seq) : (updSeq s n f).dse = s.dse := rfl
@[simp] theorem updSeq_cu (s : State) (n : Fin 64) (f : Seq → Seq) : (updSeq s n f).cu = s.cu := rfl
@[simp] theorem updSeq_sle (s : State) (n : Fin 64) (f : Seq → Seq) : (updSeq s n f).sle = s.sle := rfl
@[simp] theorem updSeq_ldl (s : State) (n : Fin 64) (f : Seq → Seq) : (updSeq s n f).ldl = s.ldl := rfl
@[simp] theorem updSeq_tiers (s : State) (n : Fin 64) (f : Seq → Seq) : (updSeq s n f).tiers = s.tiers := rfl
@[simp] theorem updSeq_chans (s : State) (n : Fin 64) (f : Seq → Seq) : (updSeq s n f).chans = s.chans := rfl
@[simp] theorem updSeq_nbus (s : State) (n : Fin 64) (f : Seq → Seq) : (updSeq s n f).nbus = s.nbus := rfl
@[simp] theorem updSeq_foot (s : State) (n : Fin 64) (f : Seq → Seq) : (updSeq s n f).foot = s.foot := rfl
@[simp] theorem updSeq_gte (s : State) (n : Fin 64) (f : Seq → Seq) : (updSeq s n f).gte = s.gte := rfl
@[simp] theorem updSeq_fle (s : State) (n : Fin 64) (f : Seq → Seq) : (updSeq s n f).fle = s.fle := rfl
@[simp] theorem updSeq_mbx (s : State) (n : Fin 64) (f : Seq → Seq) : (updSeq s n f).mbx = s.mbx := rfl
@[simp] theorem updSeq_host (s : State) (n : Fin 64) (f : Seq → Seq) : (updSeq s n f).host = s.host := rfl
@[simp] theorem updSeq_hws (s : State) (n : Fin 64) (f : Seq → Seq) : (updSeq s n f).hws = s.hws := rfl
@[simp] theorem updSeq_cmp (s : State) (n : Fin 64) (f : Seq → Seq) : (updSeq s n f).cmp = s.cmp := rfl
@[simp] theorem updSeq_err (s : State) (n : Fin 64) (f : Seq → Seq) : (updSeq s n f).err = s.err := rfl
@[simp] theorem updSeq_boot (s : State) (n : Fin 64) (f : Seq → Seq) : (updSeq s n f).boot = s.boot := rfl
@[simp] theorem updSeq_sec (s : State) (n : Fin 64) (f : Seq → Seq) : (updSeq s n f).sec = s.sec := rfl
@[simp] theorem updSeq_tst (s : State) (n : Fin 64) (f : Seq → Seq) : (updSeq s n f).tst = s.tst := rfl
@[simp] theorem updSeq_feed (s : State) (n : Fin 64) (f : Seq → Seq) : (updSeq s n f).feed = s.feed := rfl
@[simp] theorem updSeq_island (s : State) (n : Fin 64) (f : Seq → Seq) : (updSeq s n f).island = s.island := rfl

@[simp] theorem updQueue_pending (s : State) (q : Nat) (f : Queue → Queue) : (updQueue s q f).pending = s.pending := rfl
@[simp] theorem updQueue_choice (s : State) (q : Nat) (f : Queue → Queue) : (updQueue s q f).choice = s.choice := rfl
@[simp] theorem updQueue_out (s : State) (q : Nat) (f : Queue → Queue) : (updQueue s q f).out = s.out := rfl
@[simp] theorem updQueue_mem (s : State) (q : Nat) (f : Queue → Queue) : (updQueue s q f).mem = s.mem := rfl
@[simp] theorem updQueue_caches (s : State) (q : Nat) (f : Queue → Queue) : (updQueue s q f).caches = s.caches := rfl
@[simp] theorem updQueue_dir (s : State) (q : Nat) (f : Queue → Queue) : (updQueue s q f).dir = s.dir := rfl
@[simp] theorem updQueue_tb (s : State) (q : Nat) (f : Queue → Queue) : (updQueue s q f).tb = s.tb := rfl
@[simp] theorem updQueue_rail (s : State) (q : Nat) (f : Queue → Queue) : (updQueue s q f).rail = s.rail := rfl
@[simp] theorem updQueue_seqs (s : State) (q : Nat) (f : Queue → Queue) : (updQueue s q f).seqs = s.seqs := rfl
@[simp] theorem updQueue_ctrs (s : State) (q : Nat) (f : Queue → Queue) : (updQueue s q f).ctrs = s.ctrs := rfl
@[simp] theorem updQueue_units (s : State) (q : Nat) (f : Queue → Queue) : (updQueue s q f).units = s.units := rfl
@[simp] theorem updQueue_qte (s : State) (q : Nat) (f : Queue → Queue) : (updQueue s q f).qte = s.qte := rfl
@[simp] theorem updQueue_mxe (s : State) (q : Nat) (f : Queue → Queue) : (updQueue s q f).mxe = s.mxe := rfl
@[simp] theorem updQueue_gwe (s : State) (q : Nat) (f : Queue → Queue) : (updQueue s q f).gwe = s.gwe := rfl
@[simp] theorem updQueue_dse (s : State) (q : Nat) (f : Queue → Queue) : (updQueue s q f).dse = s.dse := rfl
@[simp] theorem updQueue_cu (s : State) (q : Nat) (f : Queue → Queue) : (updQueue s q f).cu = s.cu := rfl
@[simp] theorem updQueue_sle (s : State) (q : Nat) (f : Queue → Queue) : (updQueue s q f).sle = s.sle := rfl
@[simp] theorem updQueue_ldl (s : State) (q : Nat) (f : Queue → Queue) : (updQueue s q f).ldl = s.ldl := rfl
@[simp] theorem updQueue_tiers (s : State) (q : Nat) (f : Queue → Queue) : (updQueue s q f).tiers = s.tiers := rfl
@[simp] theorem updQueue_chans (s : State) (q : Nat) (f : Queue → Queue) : (updQueue s q f).chans = s.chans := rfl
@[simp] theorem updQueue_nbus (s : State) (q : Nat) (f : Queue → Queue) : (updQueue s q f).nbus = s.nbus := rfl
@[simp] theorem updQueue_foot (s : State) (q : Nat) (f : Queue → Queue) : (updQueue s q f).foot = s.foot := rfl
@[simp] theorem updQueue_gte (s : State) (q : Nat) (f : Queue → Queue) : (updQueue s q f).gte = s.gte := rfl
@[simp] theorem updQueue_fle (s : State) (q : Nat) (f : Queue → Queue) : (updQueue s q f).fle = s.fle := rfl
@[simp] theorem updQueue_mbx (s : State) (q : Nat) (f : Queue → Queue) : (updQueue s q f).mbx = s.mbx := rfl
@[simp] theorem updQueue_host (s : State) (q : Nat) (f : Queue → Queue) : (updQueue s q f).host = s.host := rfl
@[simp] theorem updQueue_hws (s : State) (q : Nat) (f : Queue → Queue) : (updQueue s q f).hws = s.hws := rfl
@[simp] theorem updQueue_cmp (s : State) (q : Nat) (f : Queue → Queue) : (updQueue s q f).cmp = s.cmp := rfl
@[simp] theorem updQueue_err (s : State) (q : Nat) (f : Queue → Queue) : (updQueue s q f).err = s.err := rfl
@[simp] theorem updQueue_boot (s : State) (q : Nat) (f : Queue → Queue) : (updQueue s q f).boot = s.boot := rfl
@[simp] theorem updQueue_sec (s : State) (q : Nat) (f : Queue → Queue) : (updQueue s q f).sec = s.sec := rfl
@[simp] theorem updQueue_tst (s : State) (q : Nat) (f : Queue → Queue) : (updQueue s q f).tst = s.tst := rfl
@[simp] theorem updQueue_feed (s : State) (q : Nat) (f : Queue → Queue) : (updQueue s q f).feed = s.feed := rfl
@[simp] theorem updQueue_island (s : State) (q : Nat) (f : Queue → Queue) : (updQueue s q f).island = s.island := rfl

@[simp] theorem updUnit_pending (s : State) (c u : Nat) (f : UnitSt → UnitSt) : (updUnit s c u f).pending = s.pending := rfl
@[simp] theorem updUnit_choice (s : State) (c u : Nat) (f : UnitSt → UnitSt) : (updUnit s c u f).choice = s.choice := rfl
@[simp] theorem updUnit_out (s : State) (c u : Nat) (f : UnitSt → UnitSt) : (updUnit s c u f).out = s.out := rfl
@[simp] theorem updUnit_mem (s : State) (c u : Nat) (f : UnitSt → UnitSt) : (updUnit s c u f).mem = s.mem := rfl
@[simp] theorem updUnit_caches (s : State) (c u : Nat) (f : UnitSt → UnitSt) : (updUnit s c u f).caches = s.caches := rfl
@[simp] theorem updUnit_dir (s : State) (c u : Nat) (f : UnitSt → UnitSt) : (updUnit s c u f).dir = s.dir := rfl
@[simp] theorem updUnit_tb (s : State) (c u : Nat) (f : UnitSt → UnitSt) : (updUnit s c u f).tb = s.tb := rfl
@[simp] theorem updUnit_rail (s : State) (c u : Nat) (f : UnitSt → UnitSt) : (updUnit s c u f).rail = s.rail := rfl
@[simp] theorem updUnit_seqs (s : State) (c u : Nat) (f : UnitSt → UnitSt) : (updUnit s c u f).seqs = s.seqs := rfl
@[simp] theorem updUnit_ctrs (s : State) (c u : Nat) (f : UnitSt → UnitSt) : (updUnit s c u f).ctrs = s.ctrs := rfl
@[simp] theorem updUnit_queues (s : State) (c u : Nat) (f : UnitSt → UnitSt) : (updUnit s c u f).queues = s.queues := rfl
@[simp] theorem updUnit_qte (s : State) (c u : Nat) (f : UnitSt → UnitSt) : (updUnit s c u f).qte = s.qte := rfl
@[simp] theorem updUnit_mxe (s : State) (c u : Nat) (f : UnitSt → UnitSt) : (updUnit s c u f).mxe = s.mxe := rfl
@[simp] theorem updUnit_gwe (s : State) (c u : Nat) (f : UnitSt → UnitSt) : (updUnit s c u f).gwe = s.gwe := rfl
@[simp] theorem updUnit_dse (s : State) (c u : Nat) (f : UnitSt → UnitSt) : (updUnit s c u f).dse = s.dse := rfl
@[simp] theorem updUnit_cu (s : State) (c u : Nat) (f : UnitSt → UnitSt) : (updUnit s c u f).cu = s.cu := rfl
@[simp] theorem updUnit_sle (s : State) (c u : Nat) (f : UnitSt → UnitSt) : (updUnit s c u f).sle = s.sle := rfl
@[simp] theorem updUnit_ldl (s : State) (c u : Nat) (f : UnitSt → UnitSt) : (updUnit s c u f).ldl = s.ldl := rfl
@[simp] theorem updUnit_tiers (s : State) (c u : Nat) (f : UnitSt → UnitSt) : (updUnit s c u f).tiers = s.tiers := rfl
@[simp] theorem updUnit_chans (s : State) (c u : Nat) (f : UnitSt → UnitSt) : (updUnit s c u f).chans = s.chans := rfl
@[simp] theorem updUnit_nbus (s : State) (c u : Nat) (f : UnitSt → UnitSt) : (updUnit s c u f).nbus = s.nbus := rfl
@[simp] theorem updUnit_foot (s : State) (c u : Nat) (f : UnitSt → UnitSt) : (updUnit s c u f).foot = s.foot := rfl
@[simp] theorem updUnit_gte (s : State) (c u : Nat) (f : UnitSt → UnitSt) : (updUnit s c u f).gte = s.gte := rfl
@[simp] theorem updUnit_fle (s : State) (c u : Nat) (f : UnitSt → UnitSt) : (updUnit s c u f).fle = s.fle := rfl
@[simp] theorem updUnit_mbx (s : State) (c u : Nat) (f : UnitSt → UnitSt) : (updUnit s c u f).mbx = s.mbx := rfl
@[simp] theorem updUnit_host (s : State) (c u : Nat) (f : UnitSt → UnitSt) : (updUnit s c u f).host = s.host := rfl
@[simp] theorem updUnit_hws (s : State) (c u : Nat) (f : UnitSt → UnitSt) : (updUnit s c u f).hws = s.hws := rfl
@[simp] theorem updUnit_cmp (s : State) (c u : Nat) (f : UnitSt → UnitSt) : (updUnit s c u f).cmp = s.cmp := rfl
@[simp] theorem updUnit_err (s : State) (c u : Nat) (f : UnitSt → UnitSt) : (updUnit s c u f).err = s.err := rfl
@[simp] theorem updUnit_boot (s : State) (c u : Nat) (f : UnitSt → UnitSt) : (updUnit s c u f).boot = s.boot := rfl
@[simp] theorem updUnit_sec (s : State) (c u : Nat) (f : UnitSt → UnitSt) : (updUnit s c u f).sec = s.sec := rfl
@[simp] theorem updUnit_tst (s : State) (c u : Nat) (f : UnitSt → UnitSt) : (updUnit s c u f).tst = s.tst := rfl
@[simp] theorem updUnit_feed (s : State) (c u : Nat) (f : UnitSt → UnitSt) : (updUnit s c u f).feed = s.feed := rfl
@[simp] theorem updUnit_island (s : State) (c u : Nat) (f : UnitSt → UnitSt) : (updUnit s c u f).island = s.island := rfl

@[simp] theorem updBoot_pending (s : State) (f : Boot → Boot) : (updBoot s f).pending = s.pending := rfl
@[simp] theorem updBoot_choice (s : State) (f : Boot → Boot) : (updBoot s f).choice = s.choice := rfl
@[simp] theorem updBoot_out (s : State) (f : Boot → Boot) : (updBoot s f).out = s.out := rfl
@[simp] theorem updBoot_mem (s : State) (f : Boot → Boot) : (updBoot s f).mem = s.mem := rfl
@[simp] theorem updBoot_caches (s : State) (f : Boot → Boot) : (updBoot s f).caches = s.caches := rfl
@[simp] theorem updBoot_dir (s : State) (f : Boot → Boot) : (updBoot s f).dir = s.dir := rfl
@[simp] theorem updBoot_tb (s : State) (f : Boot → Boot) : (updBoot s f).tb = s.tb := rfl
@[simp] theorem updBoot_rail (s : State) (f : Boot → Boot) : (updBoot s f).rail = s.rail := rfl
@[simp] theorem updBoot_seqs (s : State) (f : Boot → Boot) : (updBoot s f).seqs = s.seqs := rfl
@[simp] theorem updBoot_ctrs (s : State) (f : Boot → Boot) : (updBoot s f).ctrs = s.ctrs := rfl
@[simp] theorem updBoot_queues (s : State) (f : Boot → Boot) : (updBoot s f).queues = s.queues := rfl
@[simp] theorem updBoot_units (s : State) (f : Boot → Boot) : (updBoot s f).units = s.units := rfl
@[simp] theorem updBoot_qte (s : State) (f : Boot → Boot) : (updBoot s f).qte = s.qte := rfl
@[simp] theorem updBoot_mxe (s : State) (f : Boot → Boot) : (updBoot s f).mxe = s.mxe := rfl
@[simp] theorem updBoot_gwe (s : State) (f : Boot → Boot) : (updBoot s f).gwe = s.gwe := rfl
@[simp] theorem updBoot_dse (s : State) (f : Boot → Boot) : (updBoot s f).dse = s.dse := rfl
@[simp] theorem updBoot_cu (s : State) (f : Boot → Boot) : (updBoot s f).cu = s.cu := rfl
@[simp] theorem updBoot_sle (s : State) (f : Boot → Boot) : (updBoot s f).sle = s.sle := rfl
@[simp] theorem updBoot_ldl (s : State) (f : Boot → Boot) : (updBoot s f).ldl = s.ldl := rfl
@[simp] theorem updBoot_tiers (s : State) (f : Boot → Boot) : (updBoot s f).tiers = s.tiers := rfl
@[simp] theorem updBoot_chans (s : State) (f : Boot → Boot) : (updBoot s f).chans = s.chans := rfl
@[simp] theorem updBoot_nbus (s : State) (f : Boot → Boot) : (updBoot s f).nbus = s.nbus := rfl
@[simp] theorem updBoot_foot (s : State) (f : Boot → Boot) : (updBoot s f).foot = s.foot := rfl
@[simp] theorem updBoot_gte (s : State) (f : Boot → Boot) : (updBoot s f).gte = s.gte := rfl
@[simp] theorem updBoot_fle (s : State) (f : Boot → Boot) : (updBoot s f).fle = s.fle := rfl
@[simp] theorem updBoot_mbx (s : State) (f : Boot → Boot) : (updBoot s f).mbx = s.mbx := rfl
@[simp] theorem updBoot_host (s : State) (f : Boot → Boot) : (updBoot s f).host = s.host := rfl
@[simp] theorem updBoot_hws (s : State) (f : Boot → Boot) : (updBoot s f).hws = s.hws := rfl
@[simp] theorem updBoot_cmp (s : State) (f : Boot → Boot) : (updBoot s f).cmp = s.cmp := rfl
@[simp] theorem updBoot_err (s : State) (f : Boot → Boot) : (updBoot s f).err = s.err := rfl
@[simp] theorem updBoot_sec (s : State) (f : Boot → Boot) : (updBoot s f).sec = s.sec := rfl
@[simp] theorem updBoot_tst (s : State) (f : Boot → Boot) : (updBoot s f).tst = s.tst := rfl
@[simp] theorem updBoot_feed (s : State) (f : Boot → Boot) : (updBoot s f).feed = s.feed := rfl
@[simp] theorem updBoot_island (s : State) (f : Boot → Boot) : (updBoot s f).island = s.island := rfl

@[simp] theorem updErr_pending (s : State) (f : ErrLog → ErrLog) : (updErr s f).pending = s.pending := rfl
@[simp] theorem updErr_choice (s : State) (f : ErrLog → ErrLog) : (updErr s f).choice = s.choice := rfl
@[simp] theorem updErr_out (s : State) (f : ErrLog → ErrLog) : (updErr s f).out = s.out := rfl
@[simp] theorem updErr_mem (s : State) (f : ErrLog → ErrLog) : (updErr s f).mem = s.mem := rfl
@[simp] theorem updErr_caches (s : State) (f : ErrLog → ErrLog) : (updErr s f).caches = s.caches := rfl
@[simp] theorem updErr_dir (s : State) (f : ErrLog → ErrLog) : (updErr s f).dir = s.dir := rfl
@[simp] theorem updErr_tb (s : State) (f : ErrLog → ErrLog) : (updErr s f).tb = s.tb := rfl
@[simp] theorem updErr_rail (s : State) (f : ErrLog → ErrLog) : (updErr s f).rail = s.rail := rfl
@[simp] theorem updErr_seqs (s : State) (f : ErrLog → ErrLog) : (updErr s f).seqs = s.seqs := rfl
@[simp] theorem updErr_ctrs (s : State) (f : ErrLog → ErrLog) : (updErr s f).ctrs = s.ctrs := rfl
@[simp] theorem updErr_queues (s : State) (f : ErrLog → ErrLog) : (updErr s f).queues = s.queues := rfl
@[simp] theorem updErr_units (s : State) (f : ErrLog → ErrLog) : (updErr s f).units = s.units := rfl
@[simp] theorem updErr_qte (s : State) (f : ErrLog → ErrLog) : (updErr s f).qte = s.qte := rfl
@[simp] theorem updErr_mxe (s : State) (f : ErrLog → ErrLog) : (updErr s f).mxe = s.mxe := rfl
@[simp] theorem updErr_gwe (s : State) (f : ErrLog → ErrLog) : (updErr s f).gwe = s.gwe := rfl
@[simp] theorem updErr_dse (s : State) (f : ErrLog → ErrLog) : (updErr s f).dse = s.dse := rfl
@[simp] theorem updErr_cu (s : State) (f : ErrLog → ErrLog) : (updErr s f).cu = s.cu := rfl
@[simp] theorem updErr_sle (s : State) (f : ErrLog → ErrLog) : (updErr s f).sle = s.sle := rfl
@[simp] theorem updErr_ldl (s : State) (f : ErrLog → ErrLog) : (updErr s f).ldl = s.ldl := rfl
@[simp] theorem updErr_tiers (s : State) (f : ErrLog → ErrLog) : (updErr s f).tiers = s.tiers := rfl
@[simp] theorem updErr_chans (s : State) (f : ErrLog → ErrLog) : (updErr s f).chans = s.chans := rfl
@[simp] theorem updErr_nbus (s : State) (f : ErrLog → ErrLog) : (updErr s f).nbus = s.nbus := rfl
@[simp] theorem updErr_foot (s : State) (f : ErrLog → ErrLog) : (updErr s f).foot = s.foot := rfl
@[simp] theorem updErr_gte (s : State) (f : ErrLog → ErrLog) : (updErr s f).gte = s.gte := rfl
@[simp] theorem updErr_fle (s : State) (f : ErrLog → ErrLog) : (updErr s f).fle = s.fle := rfl
@[simp] theorem updErr_mbx (s : State) (f : ErrLog → ErrLog) : (updErr s f).mbx = s.mbx := rfl
@[simp] theorem updErr_host (s : State) (f : ErrLog → ErrLog) : (updErr s f).host = s.host := rfl
@[simp] theorem updErr_hws (s : State) (f : ErrLog → ErrLog) : (updErr s f).hws = s.hws := rfl
@[simp] theorem updErr_cmp (s : State) (f : ErrLog → ErrLog) : (updErr s f).cmp = s.cmp := rfl
@[simp] theorem updErr_boot (s : State) (f : ErrLog → ErrLog) : (updErr s f).boot = s.boot := rfl
@[simp] theorem updErr_sec (s : State) (f : ErrLog → ErrLog) : (updErr s f).sec = s.sec := rfl
@[simp] theorem updErr_tst (s : State) (f : ErrLog → ErrLog) : (updErr s f).tst = s.tst := rfl
@[simp] theorem updErr_feed (s : State) (f : ErrLog → ErrLog) : (updErr s f).feed = s.feed := rfl
@[simp] theorem updErr_island (s : State) (f : ErrLog → ErrLog) : (updErr s f).island = s.island := rfl

@[simp] theorem updFle_pending (s : State) (u : Nat) (f : Fle → Fle) : (updFle s u f).pending = s.pending := rfl
@[simp] theorem updFle_choice (s : State) (u : Nat) (f : Fle → Fle) : (updFle s u f).choice = s.choice := rfl
@[simp] theorem updFle_out (s : State) (u : Nat) (f : Fle → Fle) : (updFle s u f).out = s.out := rfl
@[simp] theorem updFle_mem (s : State) (u : Nat) (f : Fle → Fle) : (updFle s u f).mem = s.mem := rfl
@[simp] theorem updFle_caches (s : State) (u : Nat) (f : Fle → Fle) : (updFle s u f).caches = s.caches := rfl
@[simp] theorem updFle_dir (s : State) (u : Nat) (f : Fle → Fle) : (updFle s u f).dir = s.dir := rfl
@[simp] theorem updFle_tb (s : State) (u : Nat) (f : Fle → Fle) : (updFle s u f).tb = s.tb := rfl
@[simp] theorem updFle_rail (s : State) (u : Nat) (f : Fle → Fle) : (updFle s u f).rail = s.rail := rfl
@[simp] theorem updFle_seqs (s : State) (u : Nat) (f : Fle → Fle) : (updFle s u f).seqs = s.seqs := rfl
@[simp] theorem updFle_ctrs (s : State) (u : Nat) (f : Fle → Fle) : (updFle s u f).ctrs = s.ctrs := rfl
@[simp] theorem updFle_queues (s : State) (u : Nat) (f : Fle → Fle) : (updFle s u f).queues = s.queues := rfl
@[simp] theorem updFle_units (s : State) (u : Nat) (f : Fle → Fle) : (updFle s u f).units = s.units := rfl
@[simp] theorem updFle_qte (s : State) (u : Nat) (f : Fle → Fle) : (updFle s u f).qte = s.qte := rfl
@[simp] theorem updFle_mxe (s : State) (u : Nat) (f : Fle → Fle) : (updFle s u f).mxe = s.mxe := rfl
@[simp] theorem updFle_gwe (s : State) (u : Nat) (f : Fle → Fle) : (updFle s u f).gwe = s.gwe := rfl
@[simp] theorem updFle_dse (s : State) (u : Nat) (f : Fle → Fle) : (updFle s u f).dse = s.dse := rfl
@[simp] theorem updFle_cu (s : State) (u : Nat) (f : Fle → Fle) : (updFle s u f).cu = s.cu := rfl
@[simp] theorem updFle_sle (s : State) (u : Nat) (f : Fle → Fle) : (updFle s u f).sle = s.sle := rfl
@[simp] theorem updFle_ldl (s : State) (u : Nat) (f : Fle → Fle) : (updFle s u f).ldl = s.ldl := rfl
@[simp] theorem updFle_tiers (s : State) (u : Nat) (f : Fle → Fle) : (updFle s u f).tiers = s.tiers := rfl
@[simp] theorem updFle_chans (s : State) (u : Nat) (f : Fle → Fle) : (updFle s u f).chans = s.chans := rfl
@[simp] theorem updFle_nbus (s : State) (u : Nat) (f : Fle → Fle) : (updFle s u f).nbus = s.nbus := rfl
@[simp] theorem updFle_foot (s : State) (u : Nat) (f : Fle → Fle) : (updFle s u f).foot = s.foot := rfl
@[simp] theorem updFle_gte (s : State) (u : Nat) (f : Fle → Fle) : (updFle s u f).gte = s.gte := rfl
@[simp] theorem updFle_mbx (s : State) (u : Nat) (f : Fle → Fle) : (updFle s u f).mbx = s.mbx := rfl
@[simp] theorem updFle_host (s : State) (u : Nat) (f : Fle → Fle) : (updFle s u f).host = s.host := rfl
@[simp] theorem updFle_hws (s : State) (u : Nat) (f : Fle → Fle) : (updFle s u f).hws = s.hws := rfl
@[simp] theorem updFle_cmp (s : State) (u : Nat) (f : Fle → Fle) : (updFle s u f).cmp = s.cmp := rfl
@[simp] theorem updFle_err (s : State) (u : Nat) (f : Fle → Fle) : (updFle s u f).err = s.err := rfl
@[simp] theorem updFle_boot (s : State) (u : Nat) (f : Fle → Fle) : (updFle s u f).boot = s.boot := rfl
@[simp] theorem updFle_sec (s : State) (u : Nat) (f : Fle → Fle) : (updFle s u f).sec = s.sec := rfl
@[simp] theorem updFle_tst (s : State) (u : Nat) (f : Fle → Fle) : (updFle s u f).tst = s.tst := rfl
@[simp] theorem updFle_feed (s : State) (u : Nat) (f : Fle → Fle) : (updFle s u f).feed = s.feed := rfl
@[simp] theorem updFle_island (s : State) (u : Nat) (f : Fle → Fle) : (updFle s u f).island = s.island := rfl

@[simp] theorem setFle_pending (s : State) (u : Nat) (f : Fle) : (setFle s u f).pending = s.pending := rfl
@[simp] theorem setFle_choice (s : State) (u : Nat) (f : Fle) : (setFle s u f).choice = s.choice := rfl
@[simp] theorem setFle_out (s : State) (u : Nat) (f : Fle) : (setFle s u f).out = s.out := rfl
@[simp] theorem setFle_mem (s : State) (u : Nat) (f : Fle) : (setFle s u f).mem = s.mem := rfl
@[simp] theorem setFle_caches (s : State) (u : Nat) (f : Fle) : (setFle s u f).caches = s.caches := rfl
@[simp] theorem setFle_dir (s : State) (u : Nat) (f : Fle) : (setFle s u f).dir = s.dir := rfl
@[simp] theorem setFle_tb (s : State) (u : Nat) (f : Fle) : (setFle s u f).tb = s.tb := rfl
@[simp] theorem setFle_rail (s : State) (u : Nat) (f : Fle) : (setFle s u f).rail = s.rail := rfl
@[simp] theorem setFle_seqs (s : State) (u : Nat) (f : Fle) : (setFle s u f).seqs = s.seqs := rfl
@[simp] theorem setFle_ctrs (s : State) (u : Nat) (f : Fle) : (setFle s u f).ctrs = s.ctrs := rfl
@[simp] theorem setFle_queues (s : State) (u : Nat) (f : Fle) : (setFle s u f).queues = s.queues := rfl
@[simp] theorem setFle_units (s : State) (u : Nat) (f : Fle) : (setFle s u f).units = s.units := rfl
@[simp] theorem setFle_qte (s : State) (u : Nat) (f : Fle) : (setFle s u f).qte = s.qte := rfl
@[simp] theorem setFle_mxe (s : State) (u : Nat) (f : Fle) : (setFle s u f).mxe = s.mxe := rfl
@[simp] theorem setFle_gwe (s : State) (u : Nat) (f : Fle) : (setFle s u f).gwe = s.gwe := rfl
@[simp] theorem setFle_dse (s : State) (u : Nat) (f : Fle) : (setFle s u f).dse = s.dse := rfl
@[simp] theorem setFle_cu (s : State) (u : Nat) (f : Fle) : (setFle s u f).cu = s.cu := rfl
@[simp] theorem setFle_sle (s : State) (u : Nat) (f : Fle) : (setFle s u f).sle = s.sle := rfl
@[simp] theorem setFle_ldl (s : State) (u : Nat) (f : Fle) : (setFle s u f).ldl = s.ldl := rfl
@[simp] theorem setFle_tiers (s : State) (u : Nat) (f : Fle) : (setFle s u f).tiers = s.tiers := rfl
@[simp] theorem setFle_chans (s : State) (u : Nat) (f : Fle) : (setFle s u f).chans = s.chans := rfl
@[simp] theorem setFle_nbus (s : State) (u : Nat) (f : Fle) : (setFle s u f).nbus = s.nbus := rfl
@[simp] theorem setFle_foot (s : State) (u : Nat) (f : Fle) : (setFle s u f).foot = s.foot := rfl
@[simp] theorem setFle_gte (s : State) (u : Nat) (f : Fle) : (setFle s u f).gte = s.gte := rfl
@[simp] theorem setFle_mbx (s : State) (u : Nat) (f : Fle) : (setFle s u f).mbx = s.mbx := rfl
@[simp] theorem setFle_host (s : State) (u : Nat) (f : Fle) : (setFle s u f).host = s.host := rfl
@[simp] theorem setFle_hws (s : State) (u : Nat) (f : Fle) : (setFle s u f).hws = s.hws := rfl
@[simp] theorem setFle_cmp (s : State) (u : Nat) (f : Fle) : (setFle s u f).cmp = s.cmp := rfl
@[simp] theorem setFle_err (s : State) (u : Nat) (f : Fle) : (setFle s u f).err = s.err := rfl
@[simp] theorem setFle_boot (s : State) (u : Nat) (f : Fle) : (setFle s u f).boot = s.boot := rfl
@[simp] theorem setFle_sec (s : State) (u : Nat) (f : Fle) : (setFle s u f).sec = s.sec := rfl
@[simp] theorem setFle_tst (s : State) (u : Nat) (f : Fle) : (setFle s u f).tst = s.tst := rfl
@[simp] theorem setFle_feed (s : State) (u : Nat) (f : Fle) : (setFle s u f).feed = s.feed := rfl
@[simp] theorem setFle_island (s : State) (u : Nat) (f : Fle) : (setFle s u f).island = s.island := rfl

@[simp] theorem updHws_pending (s : State) (f : Hws → Hws) : (updHws s f).pending = s.pending := rfl
@[simp] theorem updHws_choice (s : State) (f : Hws → Hws) : (updHws s f).choice = s.choice := rfl
@[simp] theorem updHws_out (s : State) (f : Hws → Hws) : (updHws s f).out = s.out := rfl
@[simp] theorem updHws_mem (s : State) (f : Hws → Hws) : (updHws s f).mem = s.mem := rfl
@[simp] theorem updHws_caches (s : State) (f : Hws → Hws) : (updHws s f).caches = s.caches := rfl
@[simp] theorem updHws_dir (s : State) (f : Hws → Hws) : (updHws s f).dir = s.dir := rfl
@[simp] theorem updHws_tb (s : State) (f : Hws → Hws) : (updHws s f).tb = s.tb := rfl
@[simp] theorem updHws_rail (s : State) (f : Hws → Hws) : (updHws s f).rail = s.rail := rfl
@[simp] theorem updHws_seqs (s : State) (f : Hws → Hws) : (updHws s f).seqs = s.seqs := rfl
@[simp] theorem updHws_ctrs (s : State) (f : Hws → Hws) : (updHws s f).ctrs = s.ctrs := rfl
@[simp] theorem updHws_queues (s : State) (f : Hws → Hws) : (updHws s f).queues = s.queues := rfl
@[simp] theorem updHws_units (s : State) (f : Hws → Hws) : (updHws s f).units = s.units := rfl
@[simp] theorem updHws_qte (s : State) (f : Hws → Hws) : (updHws s f).qte = s.qte := rfl
@[simp] theorem updHws_mxe (s : State) (f : Hws → Hws) : (updHws s f).mxe = s.mxe := rfl
@[simp] theorem updHws_gwe (s : State) (f : Hws → Hws) : (updHws s f).gwe = s.gwe := rfl
@[simp] theorem updHws_dse (s : State) (f : Hws → Hws) : (updHws s f).dse = s.dse := rfl
@[simp] theorem updHws_cu (s : State) (f : Hws → Hws) : (updHws s f).cu = s.cu := rfl
@[simp] theorem updHws_sle (s : State) (f : Hws → Hws) : (updHws s f).sle = s.sle := rfl
@[simp] theorem updHws_ldl (s : State) (f : Hws → Hws) : (updHws s f).ldl = s.ldl := rfl
@[simp] theorem updHws_tiers (s : State) (f : Hws → Hws) : (updHws s f).tiers = s.tiers := rfl
@[simp] theorem updHws_chans (s : State) (f : Hws → Hws) : (updHws s f).chans = s.chans := rfl
@[simp] theorem updHws_nbus (s : State) (f : Hws → Hws) : (updHws s f).nbus = s.nbus := rfl
@[simp] theorem updHws_foot (s : State) (f : Hws → Hws) : (updHws s f).foot = s.foot := rfl
@[simp] theorem updHws_gte (s : State) (f : Hws → Hws) : (updHws s f).gte = s.gte := rfl
@[simp] theorem updHws_fle (s : State) (f : Hws → Hws) : (updHws s f).fle = s.fle := rfl
@[simp] theorem updHws_mbx (s : State) (f : Hws → Hws) : (updHws s f).mbx = s.mbx := rfl
@[simp] theorem updHws_host (s : State) (f : Hws → Hws) : (updHws s f).host = s.host := rfl
@[simp] theorem updHws_cmp (s : State) (f : Hws → Hws) : (updHws s f).cmp = s.cmp := rfl
@[simp] theorem updHws_err (s : State) (f : Hws → Hws) : (updHws s f).err = s.err := rfl
@[simp] theorem updHws_boot (s : State) (f : Hws → Hws) : (updHws s f).boot = s.boot := rfl
@[simp] theorem updHws_sec (s : State) (f : Hws → Hws) : (updHws s f).sec = s.sec := rfl
@[simp] theorem updHws_tst (s : State) (f : Hws → Hws) : (updHws s f).tst = s.tst := rfl
@[simp] theorem updHws_feed (s : State) (f : Hws → Hws) : (updHws s f).feed = s.feed := rfl
@[simp] theorem updHws_island (s : State) (f : Hws → Hws) : (updHws s f).island = s.island := rfl

@[simp] theorem updPort_pending (s : State) (p : Nat) (f : HPort → HPort) : (updPort s p f).pending = s.pending := rfl
@[simp] theorem updPort_choice (s : State) (p : Nat) (f : HPort → HPort) : (updPort s p f).choice = s.choice := rfl
@[simp] theorem updPort_out (s : State) (p : Nat) (f : HPort → HPort) : (updPort s p f).out = s.out := rfl
@[simp] theorem updPort_mem (s : State) (p : Nat) (f : HPort → HPort) : (updPort s p f).mem = s.mem := rfl
@[simp] theorem updPort_caches (s : State) (p : Nat) (f : HPort → HPort) : (updPort s p f).caches = s.caches := rfl
@[simp] theorem updPort_dir (s : State) (p : Nat) (f : HPort → HPort) : (updPort s p f).dir = s.dir := rfl
@[simp] theorem updPort_tb (s : State) (p : Nat) (f : HPort → HPort) : (updPort s p f).tb = s.tb := rfl
@[simp] theorem updPort_rail (s : State) (p : Nat) (f : HPort → HPort) : (updPort s p f).rail = s.rail := rfl
@[simp] theorem updPort_seqs (s : State) (p : Nat) (f : HPort → HPort) : (updPort s p f).seqs = s.seqs := rfl
@[simp] theorem updPort_ctrs (s : State) (p : Nat) (f : HPort → HPort) : (updPort s p f).ctrs = s.ctrs := rfl
@[simp] theorem updPort_queues (s : State) (p : Nat) (f : HPort → HPort) : (updPort s p f).queues = s.queues := rfl
@[simp] theorem updPort_units (s : State) (p : Nat) (f : HPort → HPort) : (updPort s p f).units = s.units := rfl
@[simp] theorem updPort_qte (s : State) (p : Nat) (f : HPort → HPort) : (updPort s p f).qte = s.qte := rfl
@[simp] theorem updPort_mxe (s : State) (p : Nat) (f : HPort → HPort) : (updPort s p f).mxe = s.mxe := rfl
@[simp] theorem updPort_gwe (s : State) (p : Nat) (f : HPort → HPort) : (updPort s p f).gwe = s.gwe := rfl
@[simp] theorem updPort_dse (s : State) (p : Nat) (f : HPort → HPort) : (updPort s p f).dse = s.dse := rfl
@[simp] theorem updPort_cu (s : State) (p : Nat) (f : HPort → HPort) : (updPort s p f).cu = s.cu := rfl
@[simp] theorem updPort_sle (s : State) (p : Nat) (f : HPort → HPort) : (updPort s p f).sle = s.sle := rfl
@[simp] theorem updPort_ldl (s : State) (p : Nat) (f : HPort → HPort) : (updPort s p f).ldl = s.ldl := rfl
@[simp] theorem updPort_tiers (s : State) (p : Nat) (f : HPort → HPort) : (updPort s p f).tiers = s.tiers := rfl
@[simp] theorem updPort_chans (s : State) (p : Nat) (f : HPort → HPort) : (updPort s p f).chans = s.chans := rfl
@[simp] theorem updPort_nbus (s : State) (p : Nat) (f : HPort → HPort) : (updPort s p f).nbus = s.nbus := rfl
@[simp] theorem updPort_foot (s : State) (p : Nat) (f : HPort → HPort) : (updPort s p f).foot = s.foot := rfl
@[simp] theorem updPort_gte (s : State) (p : Nat) (f : HPort → HPort) : (updPort s p f).gte = s.gte := rfl
@[simp] theorem updPort_fle (s : State) (p : Nat) (f : HPort → HPort) : (updPort s p f).fle = s.fle := rfl
@[simp] theorem updPort_mbx (s : State) (p : Nat) (f : HPort → HPort) : (updPort s p f).mbx = s.mbx := rfl
@[simp] theorem updPort_host (s : State) (p : Nat) (f : HPort → HPort) : (updPort s p f).host = s.host := rfl
@[simp] theorem updPort_cmp (s : State) (p : Nat) (f : HPort → HPort) : (updPort s p f).cmp = s.cmp := rfl
@[simp] theorem updPort_err (s : State) (p : Nat) (f : HPort → HPort) : (updPort s p f).err = s.err := rfl
@[simp] theorem updPort_boot (s : State) (p : Nat) (f : HPort → HPort) : (updPort s p f).boot = s.boot := rfl
@[simp] theorem updPort_sec (s : State) (p : Nat) (f : HPort → HPort) : (updPort s p f).sec = s.sec := rfl
@[simp] theorem updPort_tst (s : State) (p : Nat) (f : HPort → HPort) : (updPort s p f).tst = s.tst := rfl
@[simp] theorem updPort_feed (s : State) (p : Nat) (f : HPort → HPort) : (updPort s p f).feed = s.feed := rfl
@[simp] theorem updPort_island (s : State) (p : Nat) (f : HPort → HPort) : (updPort s p f).island = s.island := rfl

@[simp] theorem updRecv_pending (s : State) (r : Nat) (f : RecvRing → RecvRing) : (updRecv s r f).pending = s.pending := rfl
@[simp] theorem updRecv_choice (s : State) (r : Nat) (f : RecvRing → RecvRing) : (updRecv s r f).choice = s.choice := rfl
@[simp] theorem updRecv_out (s : State) (r : Nat) (f : RecvRing → RecvRing) : (updRecv s r f).out = s.out := rfl
@[simp] theorem updRecv_mem (s : State) (r : Nat) (f : RecvRing → RecvRing) : (updRecv s r f).mem = s.mem := rfl
@[simp] theorem updRecv_caches (s : State) (r : Nat) (f : RecvRing → RecvRing) : (updRecv s r f).caches = s.caches := rfl
@[simp] theorem updRecv_dir (s : State) (r : Nat) (f : RecvRing → RecvRing) : (updRecv s r f).dir = s.dir := rfl
@[simp] theorem updRecv_tb (s : State) (r : Nat) (f : RecvRing → RecvRing) : (updRecv s r f).tb = s.tb := rfl
@[simp] theorem updRecv_rail (s : State) (r : Nat) (f : RecvRing → RecvRing) : (updRecv s r f).rail = s.rail := rfl
@[simp] theorem updRecv_seqs (s : State) (r : Nat) (f : RecvRing → RecvRing) : (updRecv s r f).seqs = s.seqs := rfl
@[simp] theorem updRecv_ctrs (s : State) (r : Nat) (f : RecvRing → RecvRing) : (updRecv s r f).ctrs = s.ctrs := rfl
@[simp] theorem updRecv_queues (s : State) (r : Nat) (f : RecvRing → RecvRing) : (updRecv s r f).queues = s.queues := rfl
@[simp] theorem updRecv_units (s : State) (r : Nat) (f : RecvRing → RecvRing) : (updRecv s r f).units = s.units := rfl
@[simp] theorem updRecv_qte (s : State) (r : Nat) (f : RecvRing → RecvRing) : (updRecv s r f).qte = s.qte := rfl
@[simp] theorem updRecv_mxe (s : State) (r : Nat) (f : RecvRing → RecvRing) : (updRecv s r f).mxe = s.mxe := rfl
@[simp] theorem updRecv_gwe (s : State) (r : Nat) (f : RecvRing → RecvRing) : (updRecv s r f).gwe = s.gwe := rfl
@[simp] theorem updRecv_dse (s : State) (r : Nat) (f : RecvRing → RecvRing) : (updRecv s r f).dse = s.dse := rfl
@[simp] theorem updRecv_cu (s : State) (r : Nat) (f : RecvRing → RecvRing) : (updRecv s r f).cu = s.cu := rfl
@[simp] theorem updRecv_sle (s : State) (r : Nat) (f : RecvRing → RecvRing) : (updRecv s r f).sle = s.sle := rfl
@[simp] theorem updRecv_ldl (s : State) (r : Nat) (f : RecvRing → RecvRing) : (updRecv s r f).ldl = s.ldl := rfl
@[simp] theorem updRecv_tiers (s : State) (r : Nat) (f : RecvRing → RecvRing) : (updRecv s r f).tiers = s.tiers := rfl
@[simp] theorem updRecv_chans (s : State) (r : Nat) (f : RecvRing → RecvRing) : (updRecv s r f).chans = s.chans := rfl
@[simp] theorem updRecv_nbus (s : State) (r : Nat) (f : RecvRing → RecvRing) : (updRecv s r f).nbus = s.nbus := rfl
@[simp] theorem updRecv_foot (s : State) (r : Nat) (f : RecvRing → RecvRing) : (updRecv s r f).foot = s.foot := rfl
@[simp] theorem updRecv_gte (s : State) (r : Nat) (f : RecvRing → RecvRing) : (updRecv s r f).gte = s.gte := rfl
@[simp] theorem updRecv_fle (s : State) (r : Nat) (f : RecvRing → RecvRing) : (updRecv s r f).fle = s.fle := rfl
@[simp] theorem updRecv_mbx (s : State) (r : Nat) (f : RecvRing → RecvRing) : (updRecv s r f).mbx = s.mbx := rfl
@[simp] theorem updRecv_host (s : State) (r : Nat) (f : RecvRing → RecvRing) : (updRecv s r f).host = s.host := rfl
@[simp] theorem updRecv_cmp (s : State) (r : Nat) (f : RecvRing → RecvRing) : (updRecv s r f).cmp = s.cmp := rfl
@[simp] theorem updRecv_err (s : State) (r : Nat) (f : RecvRing → RecvRing) : (updRecv s r f).err = s.err := rfl
@[simp] theorem updRecv_boot (s : State) (r : Nat) (f : RecvRing → RecvRing) : (updRecv s r f).boot = s.boot := rfl
@[simp] theorem updRecv_sec (s : State) (r : Nat) (f : RecvRing → RecvRing) : (updRecv s r f).sec = s.sec := rfl
@[simp] theorem updRecv_tst (s : State) (r : Nat) (f : RecvRing → RecvRing) : (updRecv s r f).tst = s.tst := rfl
@[simp] theorem updRecv_feed (s : State) (r : Nat) (f : RecvRing → RecvRing) : (updRecv s r f).feed = s.feed := rfl
@[simp] theorem updRecv_island (s : State) (r : Nat) (f : RecvRing → RecvRing) : (updRecv s r f).island = s.island := rfl

@[simp] theorem updSend_pending (s : State) (k : Nat) (f : SendRing → SendRing) : (updSend s k f).pending = s.pending := rfl
@[simp] theorem updSend_choice (s : State) (k : Nat) (f : SendRing → SendRing) : (updSend s k f).choice = s.choice := rfl
@[simp] theorem updSend_out (s : State) (k : Nat) (f : SendRing → SendRing) : (updSend s k f).out = s.out := rfl
@[simp] theorem updSend_mem (s : State) (k : Nat) (f : SendRing → SendRing) : (updSend s k f).mem = s.mem := rfl
@[simp] theorem updSend_caches (s : State) (k : Nat) (f : SendRing → SendRing) : (updSend s k f).caches = s.caches := rfl
@[simp] theorem updSend_dir (s : State) (k : Nat) (f : SendRing → SendRing) : (updSend s k f).dir = s.dir := rfl
@[simp] theorem updSend_tb (s : State) (k : Nat) (f : SendRing → SendRing) : (updSend s k f).tb = s.tb := rfl
@[simp] theorem updSend_rail (s : State) (k : Nat) (f : SendRing → SendRing) : (updSend s k f).rail = s.rail := rfl
@[simp] theorem updSend_seqs (s : State) (k : Nat) (f : SendRing → SendRing) : (updSend s k f).seqs = s.seqs := rfl
@[simp] theorem updSend_ctrs (s : State) (k : Nat) (f : SendRing → SendRing) : (updSend s k f).ctrs = s.ctrs := rfl
@[simp] theorem updSend_queues (s : State) (k : Nat) (f : SendRing → SendRing) : (updSend s k f).queues = s.queues := rfl
@[simp] theorem updSend_units (s : State) (k : Nat) (f : SendRing → SendRing) : (updSend s k f).units = s.units := rfl
@[simp] theorem updSend_qte (s : State) (k : Nat) (f : SendRing → SendRing) : (updSend s k f).qte = s.qte := rfl
@[simp] theorem updSend_mxe (s : State) (k : Nat) (f : SendRing → SendRing) : (updSend s k f).mxe = s.mxe := rfl
@[simp] theorem updSend_gwe (s : State) (k : Nat) (f : SendRing → SendRing) : (updSend s k f).gwe = s.gwe := rfl
@[simp] theorem updSend_dse (s : State) (k : Nat) (f : SendRing → SendRing) : (updSend s k f).dse = s.dse := rfl
@[simp] theorem updSend_cu (s : State) (k : Nat) (f : SendRing → SendRing) : (updSend s k f).cu = s.cu := rfl
@[simp] theorem updSend_sle (s : State) (k : Nat) (f : SendRing → SendRing) : (updSend s k f).sle = s.sle := rfl
@[simp] theorem updSend_ldl (s : State) (k : Nat) (f : SendRing → SendRing) : (updSend s k f).ldl = s.ldl := rfl
@[simp] theorem updSend_tiers (s : State) (k : Nat) (f : SendRing → SendRing) : (updSend s k f).tiers = s.tiers := rfl
@[simp] theorem updSend_chans (s : State) (k : Nat) (f : SendRing → SendRing) : (updSend s k f).chans = s.chans := rfl
@[simp] theorem updSend_nbus (s : State) (k : Nat) (f : SendRing → SendRing) : (updSend s k f).nbus = s.nbus := rfl
@[simp] theorem updSend_foot (s : State) (k : Nat) (f : SendRing → SendRing) : (updSend s k f).foot = s.foot := rfl
@[simp] theorem updSend_gte (s : State) (k : Nat) (f : SendRing → SendRing) : (updSend s k f).gte = s.gte := rfl
@[simp] theorem updSend_fle (s : State) (k : Nat) (f : SendRing → SendRing) : (updSend s k f).fle = s.fle := rfl
@[simp] theorem updSend_mbx (s : State) (k : Nat) (f : SendRing → SendRing) : (updSend s k f).mbx = s.mbx := rfl
@[simp] theorem updSend_host (s : State) (k : Nat) (f : SendRing → SendRing) : (updSend s k f).host = s.host := rfl
@[simp] theorem updSend_cmp (s : State) (k : Nat) (f : SendRing → SendRing) : (updSend s k f).cmp = s.cmp := rfl
@[simp] theorem updSend_err (s : State) (k : Nat) (f : SendRing → SendRing) : (updSend s k f).err = s.err := rfl
@[simp] theorem updSend_boot (s : State) (k : Nat) (f : SendRing → SendRing) : (updSend s k f).boot = s.boot := rfl
@[simp] theorem updSend_sec (s : State) (k : Nat) (f : SendRing → SendRing) : (updSend s k f).sec = s.sec := rfl
@[simp] theorem updSend_tst (s : State) (k : Nat) (f : SendRing → SendRing) : (updSend s k f).tst = s.tst := rfl
@[simp] theorem updSend_feed (s : State) (k : Nat) (f : SendRing → SendRing) : (updSend s k f).feed = s.feed := rfl
@[simp] theorem updSend_island (s : State) (k : Nat) (f : SendRing → SendRing) : (updSend s k f).island = s.island := rfl

@[simp] theorem updZone_pending (s : State) (z : Nat) (f : Zone → Zone) : (updZone s z f).pending = s.pending := rfl
@[simp] theorem updZone_choice (s : State) (z : Nat) (f : Zone → Zone) : (updZone s z f).choice = s.choice := rfl
@[simp] theorem updZone_out (s : State) (z : Nat) (f : Zone → Zone) : (updZone s z f).out = s.out := rfl
@[simp] theorem updZone_mem (s : State) (z : Nat) (f : Zone → Zone) : (updZone s z f).mem = s.mem := rfl
@[simp] theorem updZone_caches (s : State) (z : Nat) (f : Zone → Zone) : (updZone s z f).caches = s.caches := rfl
@[simp] theorem updZone_dir (s : State) (z : Nat) (f : Zone → Zone) : (updZone s z f).dir = s.dir := rfl
@[simp] theorem updZone_tb (s : State) (z : Nat) (f : Zone → Zone) : (updZone s z f).tb = s.tb := rfl
@[simp] theorem updZone_rail (s : State) (z : Nat) (f : Zone → Zone) : (updZone s z f).rail = s.rail := rfl
@[simp] theorem updZone_seqs (s : State) (z : Nat) (f : Zone → Zone) : (updZone s z f).seqs = s.seqs := rfl
@[simp] theorem updZone_ctrs (s : State) (z : Nat) (f : Zone → Zone) : (updZone s z f).ctrs = s.ctrs := rfl
@[simp] theorem updZone_queues (s : State) (z : Nat) (f : Zone → Zone) : (updZone s z f).queues = s.queues := rfl
@[simp] theorem updZone_units (s : State) (z : Nat) (f : Zone → Zone) : (updZone s z f).units = s.units := rfl
@[simp] theorem updZone_qte (s : State) (z : Nat) (f : Zone → Zone) : (updZone s z f).qte = s.qte := rfl
@[simp] theorem updZone_mxe (s : State) (z : Nat) (f : Zone → Zone) : (updZone s z f).mxe = s.mxe := rfl
@[simp] theorem updZone_gwe (s : State) (z : Nat) (f : Zone → Zone) : (updZone s z f).gwe = s.gwe := rfl
@[simp] theorem updZone_dse (s : State) (z : Nat) (f : Zone → Zone) : (updZone s z f).dse = s.dse := rfl
@[simp] theorem updZone_cu (s : State) (z : Nat) (f : Zone → Zone) : (updZone s z f).cu = s.cu := rfl
@[simp] theorem updZone_sle (s : State) (z : Nat) (f : Zone → Zone) : (updZone s z f).sle = s.sle := rfl
@[simp] theorem updZone_ldl (s : State) (z : Nat) (f : Zone → Zone) : (updZone s z f).ldl = s.ldl := rfl
@[simp] theorem updZone_tiers (s : State) (z : Nat) (f : Zone → Zone) : (updZone s z f).tiers = s.tiers := rfl
@[simp] theorem updZone_chans (s : State) (z : Nat) (f : Zone → Zone) : (updZone s z f).chans = s.chans := rfl
@[simp] theorem updZone_nbus (s : State) (z : Nat) (f : Zone → Zone) : (updZone s z f).nbus = s.nbus := rfl
@[simp] theorem updZone_foot (s : State) (z : Nat) (f : Zone → Zone) : (updZone s z f).foot = s.foot := rfl
@[simp] theorem updZone_gte (s : State) (z : Nat) (f : Zone → Zone) : (updZone s z f).gte = s.gte := rfl
@[simp] theorem updZone_fle (s : State) (z : Nat) (f : Zone → Zone) : (updZone s z f).fle = s.fle := rfl
@[simp] theorem updZone_mbx (s : State) (z : Nat) (f : Zone → Zone) : (updZone s z f).mbx = s.mbx := rfl
@[simp] theorem updZone_host (s : State) (z : Nat) (f : Zone → Zone) : (updZone s z f).host = s.host := rfl
@[simp] theorem updZone_cmp (s : State) (z : Nat) (f : Zone → Zone) : (updZone s z f).cmp = s.cmp := rfl
@[simp] theorem updZone_err (s : State) (z : Nat) (f : Zone → Zone) : (updZone s z f).err = s.err := rfl
@[simp] theorem updZone_boot (s : State) (z : Nat) (f : Zone → Zone) : (updZone s z f).boot = s.boot := rfl
@[simp] theorem updZone_sec (s : State) (z : Nat) (f : Zone → Zone) : (updZone s z f).sec = s.sec := rfl
@[simp] theorem updZone_tst (s : State) (z : Nat) (f : Zone → Zone) : (updZone s z f).tst = s.tst := rfl
@[simp] theorem updZone_feed (s : State) (z : Nat) (f : Zone → Zone) : (updZone s z f).feed = s.feed := rfl
@[simp] theorem updZone_island (s : State) (z : Nat) (f : Zone → Zone) : (updZone s z f).island = s.island := rfl

@[simp] theorem updIsl_pending (s : State) (f : Island → Island) : (updIsl s f).pending = s.pending := rfl
@[simp] theorem updIsl_choice (s : State) (f : Island → Island) : (updIsl s f).choice = s.choice := rfl
@[simp] theorem updIsl_out (s : State) (f : Island → Island) : (updIsl s f).out = s.out := rfl
@[simp] theorem updIsl_mem (s : State) (f : Island → Island) : (updIsl s f).mem = s.mem := rfl
@[simp] theorem updIsl_caches (s : State) (f : Island → Island) : (updIsl s f).caches = s.caches := rfl
@[simp] theorem updIsl_dir (s : State) (f : Island → Island) : (updIsl s f).dir = s.dir := rfl
@[simp] theorem updIsl_tb (s : State) (f : Island → Island) : (updIsl s f).tb = s.tb := rfl
@[simp] theorem updIsl_rail (s : State) (f : Island → Island) : (updIsl s f).rail = s.rail := rfl
@[simp] theorem updIsl_seqs (s : State) (f : Island → Island) : (updIsl s f).seqs = s.seqs := rfl
@[simp] theorem updIsl_ctrs (s : State) (f : Island → Island) : (updIsl s f).ctrs = s.ctrs := rfl
@[simp] theorem updIsl_queues (s : State) (f : Island → Island) : (updIsl s f).queues = s.queues := rfl
@[simp] theorem updIsl_units (s : State) (f : Island → Island) : (updIsl s f).units = s.units := rfl
@[simp] theorem updIsl_qte (s : State) (f : Island → Island) : (updIsl s f).qte = s.qte := rfl
@[simp] theorem updIsl_mxe (s : State) (f : Island → Island) : (updIsl s f).mxe = s.mxe := rfl
@[simp] theorem updIsl_gwe (s : State) (f : Island → Island) : (updIsl s f).gwe = s.gwe := rfl
@[simp] theorem updIsl_dse (s : State) (f : Island → Island) : (updIsl s f).dse = s.dse := rfl
@[simp] theorem updIsl_cu (s : State) (f : Island → Island) : (updIsl s f).cu = s.cu := rfl
@[simp] theorem updIsl_sle (s : State) (f : Island → Island) : (updIsl s f).sle = s.sle := rfl
@[simp] theorem updIsl_ldl (s : State) (f : Island → Island) : (updIsl s f).ldl = s.ldl := rfl
@[simp] theorem updIsl_tiers (s : State) (f : Island → Island) : (updIsl s f).tiers = s.tiers := rfl
@[simp] theorem updIsl_chans (s : State) (f : Island → Island) : (updIsl s f).chans = s.chans := rfl
@[simp] theorem updIsl_nbus (s : State) (f : Island → Island) : (updIsl s f).nbus = s.nbus := rfl
@[simp] theorem updIsl_foot (s : State) (f : Island → Island) : (updIsl s f).foot = s.foot := rfl
@[simp] theorem updIsl_gte (s : State) (f : Island → Island) : (updIsl s f).gte = s.gte := rfl
@[simp] theorem updIsl_fle (s : State) (f : Island → Island) : (updIsl s f).fle = s.fle := rfl
@[simp] theorem updIsl_mbx (s : State) (f : Island → Island) : (updIsl s f).mbx = s.mbx := rfl
@[simp] theorem updIsl_host (s : State) (f : Island → Island) : (updIsl s f).host = s.host := rfl
@[simp] theorem updIsl_hws (s : State) (f : Island → Island) : (updIsl s f).hws = s.hws := rfl
@[simp] theorem updIsl_cmp (s : State) (f : Island → Island) : (updIsl s f).cmp = s.cmp := rfl
@[simp] theorem updIsl_err (s : State) (f : Island → Island) : (updIsl s f).err = s.err := rfl
@[simp] theorem updIsl_boot (s : State) (f : Island → Island) : (updIsl s f).boot = s.boot := rfl
@[simp] theorem updIsl_sec (s : State) (f : Island → Island) : (updIsl s f).sec = s.sec := rfl
@[simp] theorem updIsl_tst (s : State) (f : Island → Island) : (updIsl s f).tst = s.tst := rfl
@[simp] theorem updIsl_feed (s : State) (f : Island → Island) : (updIsl s f).feed = s.feed := rfl

@[simp] theorem updFeed_pending (s : State) (f : Feed → Feed) : (updFeed s f).pending = s.pending := rfl
@[simp] theorem updFeed_choice (s : State) (f : Feed → Feed) : (updFeed s f).choice = s.choice := rfl
@[simp] theorem updFeed_out (s : State) (f : Feed → Feed) : (updFeed s f).out = s.out := rfl
@[simp] theorem updFeed_mem (s : State) (f : Feed → Feed) : (updFeed s f).mem = s.mem := rfl
@[simp] theorem updFeed_caches (s : State) (f : Feed → Feed) : (updFeed s f).caches = s.caches := rfl
@[simp] theorem updFeed_dir (s : State) (f : Feed → Feed) : (updFeed s f).dir = s.dir := rfl
@[simp] theorem updFeed_tb (s : State) (f : Feed → Feed) : (updFeed s f).tb = s.tb := rfl
@[simp] theorem updFeed_rail (s : State) (f : Feed → Feed) : (updFeed s f).rail = s.rail := rfl
@[simp] theorem updFeed_seqs (s : State) (f : Feed → Feed) : (updFeed s f).seqs = s.seqs := rfl
@[simp] theorem updFeed_ctrs (s : State) (f : Feed → Feed) : (updFeed s f).ctrs = s.ctrs := rfl
@[simp] theorem updFeed_queues (s : State) (f : Feed → Feed) : (updFeed s f).queues = s.queues := rfl
@[simp] theorem updFeed_units (s : State) (f : Feed → Feed) : (updFeed s f).units = s.units := rfl
@[simp] theorem updFeed_qte (s : State) (f : Feed → Feed) : (updFeed s f).qte = s.qte := rfl
@[simp] theorem updFeed_mxe (s : State) (f : Feed → Feed) : (updFeed s f).mxe = s.mxe := rfl
@[simp] theorem updFeed_gwe (s : State) (f : Feed → Feed) : (updFeed s f).gwe = s.gwe := rfl
@[simp] theorem updFeed_dse (s : State) (f : Feed → Feed) : (updFeed s f).dse = s.dse := rfl
@[simp] theorem updFeed_cu (s : State) (f : Feed → Feed) : (updFeed s f).cu = s.cu := rfl
@[simp] theorem updFeed_sle (s : State) (f : Feed → Feed) : (updFeed s f).sle = s.sle := rfl
@[simp] theorem updFeed_ldl (s : State) (f : Feed → Feed) : (updFeed s f).ldl = s.ldl := rfl
@[simp] theorem updFeed_tiers (s : State) (f : Feed → Feed) : (updFeed s f).tiers = s.tiers := rfl
@[simp] theorem updFeed_chans (s : State) (f : Feed → Feed) : (updFeed s f).chans = s.chans := rfl
@[simp] theorem updFeed_nbus (s : State) (f : Feed → Feed) : (updFeed s f).nbus = s.nbus := rfl
@[simp] theorem updFeed_foot (s : State) (f : Feed → Feed) : (updFeed s f).foot = s.foot := rfl
@[simp] theorem updFeed_gte (s : State) (f : Feed → Feed) : (updFeed s f).gte = s.gte := rfl
@[simp] theorem updFeed_fle (s : State) (f : Feed → Feed) : (updFeed s f).fle = s.fle := rfl
@[simp] theorem updFeed_mbx (s : State) (f : Feed → Feed) : (updFeed s f).mbx = s.mbx := rfl
@[simp] theorem updFeed_host (s : State) (f : Feed → Feed) : (updFeed s f).host = s.host := rfl
@[simp] theorem updFeed_hws (s : State) (f : Feed → Feed) : (updFeed s f).hws = s.hws := rfl
@[simp] theorem updFeed_cmp (s : State) (f : Feed → Feed) : (updFeed s f).cmp = s.cmp := rfl
@[simp] theorem updFeed_err (s : State) (f : Feed → Feed) : (updFeed s f).err = s.err := rfl
@[simp] theorem updFeed_boot (s : State) (f : Feed → Feed) : (updFeed s f).boot = s.boot := rfl
@[simp] theorem updFeed_sec (s : State) (f : Feed → Feed) : (updFeed s f).sec = s.sec := rfl
@[simp] theorem updFeed_tst (s : State) (f : Feed → Feed) : (updFeed s f).tst = s.tst := rfl
@[simp] theorem updFeed_island (s : State) (f : Feed → Feed) : (updFeed s f).island = s.island := rfl

@[simp] theorem updMbx_pending (s : State) (m : Nat) (f : Mbx → Mbx) : (updMbx s m f).pending = s.pending := rfl
@[simp] theorem updMbx_choice (s : State) (m : Nat) (f : Mbx → Mbx) : (updMbx s m f).choice = s.choice := rfl
@[simp] theorem updMbx_out (s : State) (m : Nat) (f : Mbx → Mbx) : (updMbx s m f).out = s.out := rfl
@[simp] theorem updMbx_mem (s : State) (m : Nat) (f : Mbx → Mbx) : (updMbx s m f).mem = s.mem := rfl
@[simp] theorem updMbx_caches (s : State) (m : Nat) (f : Mbx → Mbx) : (updMbx s m f).caches = s.caches := rfl
@[simp] theorem updMbx_dir (s : State) (m : Nat) (f : Mbx → Mbx) : (updMbx s m f).dir = s.dir := rfl
@[simp] theorem updMbx_tb (s : State) (m : Nat) (f : Mbx → Mbx) : (updMbx s m f).tb = s.tb := rfl
@[simp] theorem updMbx_rail (s : State) (m : Nat) (f : Mbx → Mbx) : (updMbx s m f).rail = s.rail := rfl
@[simp] theorem updMbx_seqs (s : State) (m : Nat) (f : Mbx → Mbx) : (updMbx s m f).seqs = s.seqs := rfl
@[simp] theorem updMbx_ctrs (s : State) (m : Nat) (f : Mbx → Mbx) : (updMbx s m f).ctrs = s.ctrs := rfl
@[simp] theorem updMbx_queues (s : State) (m : Nat) (f : Mbx → Mbx) : (updMbx s m f).queues = s.queues := rfl
@[simp] theorem updMbx_units (s : State) (m : Nat) (f : Mbx → Mbx) : (updMbx s m f).units = s.units := rfl
@[simp] theorem updMbx_qte (s : State) (m : Nat) (f : Mbx → Mbx) : (updMbx s m f).qte = s.qte := rfl
@[simp] theorem updMbx_mxe (s : State) (m : Nat) (f : Mbx → Mbx) : (updMbx s m f).mxe = s.mxe := rfl
@[simp] theorem updMbx_gwe (s : State) (m : Nat) (f : Mbx → Mbx) : (updMbx s m f).gwe = s.gwe := rfl
@[simp] theorem updMbx_dse (s : State) (m : Nat) (f : Mbx → Mbx) : (updMbx s m f).dse = s.dse := rfl
@[simp] theorem updMbx_cu (s : State) (m : Nat) (f : Mbx → Mbx) : (updMbx s m f).cu = s.cu := rfl
@[simp] theorem updMbx_sle (s : State) (m : Nat) (f : Mbx → Mbx) : (updMbx s m f).sle = s.sle := rfl
@[simp] theorem updMbx_ldl (s : State) (m : Nat) (f : Mbx → Mbx) : (updMbx s m f).ldl = s.ldl := rfl
@[simp] theorem updMbx_tiers (s : State) (m : Nat) (f : Mbx → Mbx) : (updMbx s m f).tiers = s.tiers := rfl
@[simp] theorem updMbx_chans (s : State) (m : Nat) (f : Mbx → Mbx) : (updMbx s m f).chans = s.chans := rfl
@[simp] theorem updMbx_nbus (s : State) (m : Nat) (f : Mbx → Mbx) : (updMbx s m f).nbus = s.nbus := rfl
@[simp] theorem updMbx_foot (s : State) (m : Nat) (f : Mbx → Mbx) : (updMbx s m f).foot = s.foot := rfl
@[simp] theorem updMbx_gte (s : State) (m : Nat) (f : Mbx → Mbx) : (updMbx s m f).gte = s.gte := rfl
@[simp] theorem updMbx_fle (s : State) (m : Nat) (f : Mbx → Mbx) : (updMbx s m f).fle = s.fle := rfl
@[simp] theorem updMbx_host (s : State) (m : Nat) (f : Mbx → Mbx) : (updMbx s m f).host = s.host := rfl
@[simp] theorem updMbx_hws (s : State) (m : Nat) (f : Mbx → Mbx) : (updMbx s m f).hws = s.hws := rfl
@[simp] theorem updMbx_cmp (s : State) (m : Nat) (f : Mbx → Mbx) : (updMbx s m f).cmp = s.cmp := rfl
@[simp] theorem updMbx_err (s : State) (m : Nat) (f : Mbx → Mbx) : (updMbx s m f).err = s.err := rfl
@[simp] theorem updMbx_boot (s : State) (m : Nat) (f : Mbx → Mbx) : (updMbx s m f).boot = s.boot := rfl
@[simp] theorem updMbx_sec (s : State) (m : Nat) (f : Mbx → Mbx) : (updMbx s m f).sec = s.sec := rfl
@[simp] theorem updMbx_tst (s : State) (m : Nat) (f : Mbx → Mbx) : (updMbx s m f).tst = s.tst := rfl
@[simp] theorem updMbx_feed (s : State) (m : Nat) (f : Mbx → Mbx) : (updMbx s m f).feed = s.feed := rfl
@[simp] theorem updMbx_island (s : State) (m : Nat) (f : Mbx → Mbx) : (updMbx s m f).island = s.island := rfl

@[simp] theorem updHost_pending (s : State) (p : HostPort) (f : HostSt → HostSt) : (updHost s p f).pending = s.pending := rfl
@[simp] theorem updHost_choice (s : State) (p : HostPort) (f : HostSt → HostSt) : (updHost s p f).choice = s.choice := rfl
@[simp] theorem updHost_out (s : State) (p : HostPort) (f : HostSt → HostSt) : (updHost s p f).out = s.out := rfl
@[simp] theorem updHost_mem (s : State) (p : HostPort) (f : HostSt → HostSt) : (updHost s p f).mem = s.mem := rfl
@[simp] theorem updHost_caches (s : State) (p : HostPort) (f : HostSt → HostSt) : (updHost s p f).caches = s.caches := rfl
@[simp] theorem updHost_dir (s : State) (p : HostPort) (f : HostSt → HostSt) : (updHost s p f).dir = s.dir := rfl
@[simp] theorem updHost_tb (s : State) (p : HostPort) (f : HostSt → HostSt) : (updHost s p f).tb = s.tb := rfl
@[simp] theorem updHost_rail (s : State) (p : HostPort) (f : HostSt → HostSt) : (updHost s p f).rail = s.rail := rfl
@[simp] theorem updHost_seqs (s : State) (p : HostPort) (f : HostSt → HostSt) : (updHost s p f).seqs = s.seqs := rfl
@[simp] theorem updHost_ctrs (s : State) (p : HostPort) (f : HostSt → HostSt) : (updHost s p f).ctrs = s.ctrs := rfl
@[simp] theorem updHost_queues (s : State) (p : HostPort) (f : HostSt → HostSt) : (updHost s p f).queues = s.queues := rfl
@[simp] theorem updHost_units (s : State) (p : HostPort) (f : HostSt → HostSt) : (updHost s p f).units = s.units := rfl
@[simp] theorem updHost_qte (s : State) (p : HostPort) (f : HostSt → HostSt) : (updHost s p f).qte = s.qte := rfl
@[simp] theorem updHost_mxe (s : State) (p : HostPort) (f : HostSt → HostSt) : (updHost s p f).mxe = s.mxe := rfl
@[simp] theorem updHost_gwe (s : State) (p : HostPort) (f : HostSt → HostSt) : (updHost s p f).gwe = s.gwe := rfl
@[simp] theorem updHost_dse (s : State) (p : HostPort) (f : HostSt → HostSt) : (updHost s p f).dse = s.dse := rfl
@[simp] theorem updHost_cu (s : State) (p : HostPort) (f : HostSt → HostSt) : (updHost s p f).cu = s.cu := rfl
@[simp] theorem updHost_sle (s : State) (p : HostPort) (f : HostSt → HostSt) : (updHost s p f).sle = s.sle := rfl
@[simp] theorem updHost_ldl (s : State) (p : HostPort) (f : HostSt → HostSt) : (updHost s p f).ldl = s.ldl := rfl
@[simp] theorem updHost_tiers (s : State) (p : HostPort) (f : HostSt → HostSt) : (updHost s p f).tiers = s.tiers := rfl
@[simp] theorem updHost_chans (s : State) (p : HostPort) (f : HostSt → HostSt) : (updHost s p f).chans = s.chans := rfl
@[simp] theorem updHost_nbus (s : State) (p : HostPort) (f : HostSt → HostSt) : (updHost s p f).nbus = s.nbus := rfl
@[simp] theorem updHost_foot (s : State) (p : HostPort) (f : HostSt → HostSt) : (updHost s p f).foot = s.foot := rfl
@[simp] theorem updHost_gte (s : State) (p : HostPort) (f : HostSt → HostSt) : (updHost s p f).gte = s.gte := rfl
@[simp] theorem updHost_fle (s : State) (p : HostPort) (f : HostSt → HostSt) : (updHost s p f).fle = s.fle := rfl
@[simp] theorem updHost_mbx (s : State) (p : HostPort) (f : HostSt → HostSt) : (updHost s p f).mbx = s.mbx := rfl
@[simp] theorem updHost_hws (s : State) (p : HostPort) (f : HostSt → HostSt) : (updHost s p f).hws = s.hws := rfl
@[simp] theorem updHost_cmp (s : State) (p : HostPort) (f : HostSt → HostSt) : (updHost s p f).cmp = s.cmp := rfl
@[simp] theorem updHost_err (s : State) (p : HostPort) (f : HostSt → HostSt) : (updHost s p f).err = s.err := rfl
@[simp] theorem updHost_boot (s : State) (p : HostPort) (f : HostSt → HostSt) : (updHost s p f).boot = s.boot := rfl
@[simp] theorem updHost_sec (s : State) (p : HostPort) (f : HostSt → HostSt) : (updHost s p f).sec = s.sec := rfl
@[simp] theorem updHost_tst (s : State) (p : HostPort) (f : HostSt → HostSt) : (updHost s p f).tst = s.tst := rfl
@[simp] theorem updHost_feed (s : State) (p : HostPort) (f : HostSt → HostSt) : (updHost s p f).feed = s.feed := rfl
@[simp] theorem updHost_island (s : State) (p : HostPort) (f : HostSt → HostSt) : (updHost s p f).island = s.island := rfl

@[simp] theorem updRing_pending (s : State) (p : HostPort) (k : Nat) (f : Ring → Ring) : (updRing s p k f).pending = s.pending := rfl
@[simp] theorem updRing_choice (s : State) (p : HostPort) (k : Nat) (f : Ring → Ring) : (updRing s p k f).choice = s.choice := rfl
@[simp] theorem updRing_out (s : State) (p : HostPort) (k : Nat) (f : Ring → Ring) : (updRing s p k f).out = s.out := rfl
@[simp] theorem updRing_mem (s : State) (p : HostPort) (k : Nat) (f : Ring → Ring) : (updRing s p k f).mem = s.mem := rfl
@[simp] theorem updRing_caches (s : State) (p : HostPort) (k : Nat) (f : Ring → Ring) : (updRing s p k f).caches = s.caches := rfl
@[simp] theorem updRing_dir (s : State) (p : HostPort) (k : Nat) (f : Ring → Ring) : (updRing s p k f).dir = s.dir := rfl
@[simp] theorem updRing_tb (s : State) (p : HostPort) (k : Nat) (f : Ring → Ring) : (updRing s p k f).tb = s.tb := rfl
@[simp] theorem updRing_rail (s : State) (p : HostPort) (k : Nat) (f : Ring → Ring) : (updRing s p k f).rail = s.rail := rfl
@[simp] theorem updRing_seqs (s : State) (p : HostPort) (k : Nat) (f : Ring → Ring) : (updRing s p k f).seqs = s.seqs := rfl
@[simp] theorem updRing_ctrs (s : State) (p : HostPort) (k : Nat) (f : Ring → Ring) : (updRing s p k f).ctrs = s.ctrs := rfl
@[simp] theorem updRing_queues (s : State) (p : HostPort) (k : Nat) (f : Ring → Ring) : (updRing s p k f).queues = s.queues := rfl
@[simp] theorem updRing_units (s : State) (p : HostPort) (k : Nat) (f : Ring → Ring) : (updRing s p k f).units = s.units := rfl
@[simp] theorem updRing_qte (s : State) (p : HostPort) (k : Nat) (f : Ring → Ring) : (updRing s p k f).qte = s.qte := rfl
@[simp] theorem updRing_mxe (s : State) (p : HostPort) (k : Nat) (f : Ring → Ring) : (updRing s p k f).mxe = s.mxe := rfl
@[simp] theorem updRing_gwe (s : State) (p : HostPort) (k : Nat) (f : Ring → Ring) : (updRing s p k f).gwe = s.gwe := rfl
@[simp] theorem updRing_dse (s : State) (p : HostPort) (k : Nat) (f : Ring → Ring) : (updRing s p k f).dse = s.dse := rfl
@[simp] theorem updRing_cu (s : State) (p : HostPort) (k : Nat) (f : Ring → Ring) : (updRing s p k f).cu = s.cu := rfl
@[simp] theorem updRing_sle (s : State) (p : HostPort) (k : Nat) (f : Ring → Ring) : (updRing s p k f).sle = s.sle := rfl
@[simp] theorem updRing_ldl (s : State) (p : HostPort) (k : Nat) (f : Ring → Ring) : (updRing s p k f).ldl = s.ldl := rfl
@[simp] theorem updRing_tiers (s : State) (p : HostPort) (k : Nat) (f : Ring → Ring) : (updRing s p k f).tiers = s.tiers := rfl
@[simp] theorem updRing_chans (s : State) (p : HostPort) (k : Nat) (f : Ring → Ring) : (updRing s p k f).chans = s.chans := rfl
@[simp] theorem updRing_nbus (s : State) (p : HostPort) (k : Nat) (f : Ring → Ring) : (updRing s p k f).nbus = s.nbus := rfl
@[simp] theorem updRing_foot (s : State) (p : HostPort) (k : Nat) (f : Ring → Ring) : (updRing s p k f).foot = s.foot := rfl
@[simp] theorem updRing_gte (s : State) (p : HostPort) (k : Nat) (f : Ring → Ring) : (updRing s p k f).gte = s.gte := rfl
@[simp] theorem updRing_fle (s : State) (p : HostPort) (k : Nat) (f : Ring → Ring) : (updRing s p k f).fle = s.fle := rfl
@[simp] theorem updRing_mbx (s : State) (p : HostPort) (k : Nat) (f : Ring → Ring) : (updRing s p k f).mbx = s.mbx := rfl
@[simp] theorem updRing_hws (s : State) (p : HostPort) (k : Nat) (f : Ring → Ring) : (updRing s p k f).hws = s.hws := rfl
@[simp] theorem updRing_cmp (s : State) (p : HostPort) (k : Nat) (f : Ring → Ring) : (updRing s p k f).cmp = s.cmp := rfl
@[simp] theorem updRing_err (s : State) (p : HostPort) (k : Nat) (f : Ring → Ring) : (updRing s p k f).err = s.err := rfl
@[simp] theorem updRing_boot (s : State) (p : HostPort) (k : Nat) (f : Ring → Ring) : (updRing s p k f).boot = s.boot := rfl
@[simp] theorem updRing_sec (s : State) (p : HostPort) (k : Nat) (f : Ring → Ring) : (updRing s p k f).sec = s.sec := rfl
@[simp] theorem updRing_tst (s : State) (p : HostPort) (k : Nat) (f : Ring → Ring) : (updRing s p k f).tst = s.tst := rfl
@[simp] theorem updRing_feed (s : State) (p : HostPort) (k : Nat) (f : Ring → Ring) : (updRing s p k f).feed = s.feed := rfl
@[simp] theorem updRing_island (s : State) (p : HostPort) (k : Nat) (f : Ring → Ring) : (updRing s p k f).island = s.island := rfl

@[simp] theorem updSec_pending (s : State) (f : Sec → Sec) : (updSec s f).pending = s.pending := rfl
@[simp] theorem updSec_choice (s : State) (f : Sec → Sec) : (updSec s f).choice = s.choice := rfl
@[simp] theorem updSec_out (s : State) (f : Sec → Sec) : (updSec s f).out = s.out := rfl
@[simp] theorem updSec_mem (s : State) (f : Sec → Sec) : (updSec s f).mem = s.mem := rfl
@[simp] theorem updSec_caches (s : State) (f : Sec → Sec) : (updSec s f).caches = s.caches := rfl
@[simp] theorem updSec_dir (s : State) (f : Sec → Sec) : (updSec s f).dir = s.dir := rfl
@[simp] theorem updSec_tb (s : State) (f : Sec → Sec) : (updSec s f).tb = s.tb := rfl
@[simp] theorem updSec_rail (s : State) (f : Sec → Sec) : (updSec s f).rail = s.rail := rfl
@[simp] theorem updSec_seqs (s : State) (f : Sec → Sec) : (updSec s f).seqs = s.seqs := rfl
@[simp] theorem updSec_ctrs (s : State) (f : Sec → Sec) : (updSec s f).ctrs = s.ctrs := rfl
@[simp] theorem updSec_queues (s : State) (f : Sec → Sec) : (updSec s f).queues = s.queues := rfl
@[simp] theorem updSec_units (s : State) (f : Sec → Sec) : (updSec s f).units = s.units := rfl
@[simp] theorem updSec_qte (s : State) (f : Sec → Sec) : (updSec s f).qte = s.qte := rfl
@[simp] theorem updSec_mxe (s : State) (f : Sec → Sec) : (updSec s f).mxe = s.mxe := rfl
@[simp] theorem updSec_gwe (s : State) (f : Sec → Sec) : (updSec s f).gwe = s.gwe := rfl
@[simp] theorem updSec_dse (s : State) (f : Sec → Sec) : (updSec s f).dse = s.dse := rfl
@[simp] theorem updSec_cu (s : State) (f : Sec → Sec) : (updSec s f).cu = s.cu := rfl
@[simp] theorem updSec_sle (s : State) (f : Sec → Sec) : (updSec s f).sle = s.sle := rfl
@[simp] theorem updSec_ldl (s : State) (f : Sec → Sec) : (updSec s f).ldl = s.ldl := rfl
@[simp] theorem updSec_tiers (s : State) (f : Sec → Sec) : (updSec s f).tiers = s.tiers := rfl
@[simp] theorem updSec_chans (s : State) (f : Sec → Sec) : (updSec s f).chans = s.chans := rfl
@[simp] theorem updSec_nbus (s : State) (f : Sec → Sec) : (updSec s f).nbus = s.nbus := rfl
@[simp] theorem updSec_foot (s : State) (f : Sec → Sec) : (updSec s f).foot = s.foot := rfl
@[simp] theorem updSec_gte (s : State) (f : Sec → Sec) : (updSec s f).gte = s.gte := rfl
@[simp] theorem updSec_fle (s : State) (f : Sec → Sec) : (updSec s f).fle = s.fle := rfl
@[simp] theorem updSec_mbx (s : State) (f : Sec → Sec) : (updSec s f).mbx = s.mbx := rfl
@[simp] theorem updSec_host (s : State) (f : Sec → Sec) : (updSec s f).host = s.host := rfl
@[simp] theorem updSec_hws (s : State) (f : Sec → Sec) : (updSec s f).hws = s.hws := rfl
@[simp] theorem updSec_cmp (s : State) (f : Sec → Sec) : (updSec s f).cmp = s.cmp := rfl
@[simp] theorem updSec_err (s : State) (f : Sec → Sec) : (updSec s f).err = s.err := rfl
@[simp] theorem updSec_boot (s : State) (f : Sec → Sec) : (updSec s f).boot = s.boot := rfl
@[simp] theorem updSec_tst (s : State) (f : Sec → Sec) : (updSec s f).tst = s.tst := rfl
@[simp] theorem updSec_feed (s : State) (f : Sec → Sec) : (updSec s f).feed = s.feed := rfl
@[simp] theorem updSec_island (s : State) (f : Sec → Sec) : (updSec s f).island = s.island := rfl

@[simp] theorem updTst_pending (s : State) (f : Tst → Tst) : (updTst s f).pending = s.pending := rfl
@[simp] theorem updTst_choice (s : State) (f : Tst → Tst) : (updTst s f).choice = s.choice := rfl
@[simp] theorem updTst_out (s : State) (f : Tst → Tst) : (updTst s f).out = s.out := rfl
@[simp] theorem updTst_mem (s : State) (f : Tst → Tst) : (updTst s f).mem = s.mem := rfl
@[simp] theorem updTst_caches (s : State) (f : Tst → Tst) : (updTst s f).caches = s.caches := rfl
@[simp] theorem updTst_dir (s : State) (f : Tst → Tst) : (updTst s f).dir = s.dir := rfl
@[simp] theorem updTst_tb (s : State) (f : Tst → Tst) : (updTst s f).tb = s.tb := rfl
@[simp] theorem updTst_rail (s : State) (f : Tst → Tst) : (updTst s f).rail = s.rail := rfl
@[simp] theorem updTst_seqs (s : State) (f : Tst → Tst) : (updTst s f).seqs = s.seqs := rfl
@[simp] theorem updTst_ctrs (s : State) (f : Tst → Tst) : (updTst s f).ctrs = s.ctrs := rfl
@[simp] theorem updTst_queues (s : State) (f : Tst → Tst) : (updTst s f).queues = s.queues := rfl
@[simp] theorem updTst_units (s : State) (f : Tst → Tst) : (updTst s f).units = s.units := rfl
@[simp] theorem updTst_qte (s : State) (f : Tst → Tst) : (updTst s f).qte = s.qte := rfl
@[simp] theorem updTst_mxe (s : State) (f : Tst → Tst) : (updTst s f).mxe = s.mxe := rfl
@[simp] theorem updTst_gwe (s : State) (f : Tst → Tst) : (updTst s f).gwe = s.gwe := rfl
@[simp] theorem updTst_dse (s : State) (f : Tst → Tst) : (updTst s f).dse = s.dse := rfl
@[simp] theorem updTst_cu (s : State) (f : Tst → Tst) : (updTst s f).cu = s.cu := rfl
@[simp] theorem updTst_sle (s : State) (f : Tst → Tst) : (updTst s f).sle = s.sle := rfl
@[simp] theorem updTst_ldl (s : State) (f : Tst → Tst) : (updTst s f).ldl = s.ldl := rfl
@[simp] theorem updTst_tiers (s : State) (f : Tst → Tst) : (updTst s f).tiers = s.tiers := rfl
@[simp] theorem updTst_chans (s : State) (f : Tst → Tst) : (updTst s f).chans = s.chans := rfl
@[simp] theorem updTst_nbus (s : State) (f : Tst → Tst) : (updTst s f).nbus = s.nbus := rfl
@[simp] theorem updTst_foot (s : State) (f : Tst → Tst) : (updTst s f).foot = s.foot := rfl
@[simp] theorem updTst_gte (s : State) (f : Tst → Tst) : (updTst s f).gte = s.gte := rfl
@[simp] theorem updTst_fle (s : State) (f : Tst → Tst) : (updTst s f).fle = s.fle := rfl
@[simp] theorem updTst_mbx (s : State) (f : Tst → Tst) : (updTst s f).mbx = s.mbx := rfl
@[simp] theorem updTst_host (s : State) (f : Tst → Tst) : (updTst s f).host = s.host := rfl
@[simp] theorem updTst_hws (s : State) (f : Tst → Tst) : (updTst s f).hws = s.hws := rfl
@[simp] theorem updTst_cmp (s : State) (f : Tst → Tst) : (updTst s f).cmp = s.cmp := rfl
@[simp] theorem updTst_err (s : State) (f : Tst → Tst) : (updTst s f).err = s.err := rfl
@[simp] theorem updTst_boot (s : State) (f : Tst → Tst) : (updTst s f).boot = s.boot := rfl
@[simp] theorem updTst_sec (s : State) (f : Tst → Tst) : (updTst s f).sec = s.sec := rfl
@[simp] theorem updTst_feed (s : State) (f : Tst → Tst) : (updTst s f).feed = s.feed := rfl
@[simp] theorem updTst_island (s : State) (f : Tst → Tst) : (updTst s f).island = s.island := rfl

@[simp] theorem updChan_pending (s : State) (c : Nat) (f : Chan → Chan) : (updChan s c f).pending = s.pending := rfl
@[simp] theorem updChan_choice (s : State) (c : Nat) (f : Chan → Chan) : (updChan s c f).choice = s.choice := rfl
@[simp] theorem updChan_out (s : State) (c : Nat) (f : Chan → Chan) : (updChan s c f).out = s.out := rfl
@[simp] theorem updChan_mem (s : State) (c : Nat) (f : Chan → Chan) : (updChan s c f).mem = s.mem := rfl
@[simp] theorem updChan_caches (s : State) (c : Nat) (f : Chan → Chan) : (updChan s c f).caches = s.caches := rfl
@[simp] theorem updChan_dir (s : State) (c : Nat) (f : Chan → Chan) : (updChan s c f).dir = s.dir := rfl
@[simp] theorem updChan_tb (s : State) (c : Nat) (f : Chan → Chan) : (updChan s c f).tb = s.tb := rfl
@[simp] theorem updChan_rail (s : State) (c : Nat) (f : Chan → Chan) : (updChan s c f).rail = s.rail := rfl
@[simp] theorem updChan_seqs (s : State) (c : Nat) (f : Chan → Chan) : (updChan s c f).seqs = s.seqs := rfl
@[simp] theorem updChan_ctrs (s : State) (c : Nat) (f : Chan → Chan) : (updChan s c f).ctrs = s.ctrs := rfl
@[simp] theorem updChan_queues (s : State) (c : Nat) (f : Chan → Chan) : (updChan s c f).queues = s.queues := rfl
@[simp] theorem updChan_units (s : State) (c : Nat) (f : Chan → Chan) : (updChan s c f).units = s.units := rfl
@[simp] theorem updChan_qte (s : State) (c : Nat) (f : Chan → Chan) : (updChan s c f).qte = s.qte := rfl
@[simp] theorem updChan_mxe (s : State) (c : Nat) (f : Chan → Chan) : (updChan s c f).mxe = s.mxe := rfl
@[simp] theorem updChan_gwe (s : State) (c : Nat) (f : Chan → Chan) : (updChan s c f).gwe = s.gwe := rfl
@[simp] theorem updChan_dse (s : State) (c : Nat) (f : Chan → Chan) : (updChan s c f).dse = s.dse := rfl
@[simp] theorem updChan_cu (s : State) (c : Nat) (f : Chan → Chan) : (updChan s c f).cu = s.cu := rfl
@[simp] theorem updChan_sle (s : State) (c : Nat) (f : Chan → Chan) : (updChan s c f).sle = s.sle := rfl
@[simp] theorem updChan_ldl (s : State) (c : Nat) (f : Chan → Chan) : (updChan s c f).ldl = s.ldl := rfl
@[simp] theorem updChan_tiers (s : State) (c : Nat) (f : Chan → Chan) : (updChan s c f).tiers = s.tiers := rfl
@[simp] theorem updChan_nbus (s : State) (c : Nat) (f : Chan → Chan) : (updChan s c f).nbus = s.nbus := rfl
@[simp] theorem updChan_foot (s : State) (c : Nat) (f : Chan → Chan) : (updChan s c f).foot = s.foot := rfl
@[simp] theorem updChan_gte (s : State) (c : Nat) (f : Chan → Chan) : (updChan s c f).gte = s.gte := rfl
@[simp] theorem updChan_fle (s : State) (c : Nat) (f : Chan → Chan) : (updChan s c f).fle = s.fle := rfl
@[simp] theorem updChan_mbx (s : State) (c : Nat) (f : Chan → Chan) : (updChan s c f).mbx = s.mbx := rfl
@[simp] theorem updChan_host (s : State) (c : Nat) (f : Chan → Chan) : (updChan s c f).host = s.host := rfl
@[simp] theorem updChan_hws (s : State) (c : Nat) (f : Chan → Chan) : (updChan s c f).hws = s.hws := rfl
@[simp] theorem updChan_cmp (s : State) (c : Nat) (f : Chan → Chan) : (updChan s c f).cmp = s.cmp := rfl
@[simp] theorem updChan_err (s : State) (c : Nat) (f : Chan → Chan) : (updChan s c f).err = s.err := rfl
@[simp] theorem updChan_boot (s : State) (c : Nat) (f : Chan → Chan) : (updChan s c f).boot = s.boot := rfl
@[simp] theorem updChan_sec (s : State) (c : Nat) (f : Chan → Chan) : (updChan s c f).sec = s.sec := rfl
@[simp] theorem updChan_tst (s : State) (c : Nat) (f : Chan → Chan) : (updChan s c f).tst = s.tst := rfl
@[simp] theorem updChan_feed (s : State) (c : Nat) (f : Chan → Chan) : (updChan s c f).feed = s.feed := rfl
@[simp] theorem updChan_island (s : State) (c : Nat) (f : Chan → Chan) : (updChan s c f).island = s.island := rfl

@[simp] theorem updNbu_pending (s : State) (u : Nat) (f : Nbu → Nbu) : (updNbu s u f).pending = s.pending := rfl
@[simp] theorem updNbu_choice (s : State) (u : Nat) (f : Nbu → Nbu) : (updNbu s u f).choice = s.choice := rfl
@[simp] theorem updNbu_out (s : State) (u : Nat) (f : Nbu → Nbu) : (updNbu s u f).out = s.out := rfl
@[simp] theorem updNbu_mem (s : State) (u : Nat) (f : Nbu → Nbu) : (updNbu s u f).mem = s.mem := rfl
@[simp] theorem updNbu_caches (s : State) (u : Nat) (f : Nbu → Nbu) : (updNbu s u f).caches = s.caches := rfl
@[simp] theorem updNbu_dir (s : State) (u : Nat) (f : Nbu → Nbu) : (updNbu s u f).dir = s.dir := rfl
@[simp] theorem updNbu_tb (s : State) (u : Nat) (f : Nbu → Nbu) : (updNbu s u f).tb = s.tb := rfl
@[simp] theorem updNbu_rail (s : State) (u : Nat) (f : Nbu → Nbu) : (updNbu s u f).rail = s.rail := rfl
@[simp] theorem updNbu_seqs (s : State) (u : Nat) (f : Nbu → Nbu) : (updNbu s u f).seqs = s.seqs := rfl
@[simp] theorem updNbu_ctrs (s : State) (u : Nat) (f : Nbu → Nbu) : (updNbu s u f).ctrs = s.ctrs := rfl
@[simp] theorem updNbu_queues (s : State) (u : Nat) (f : Nbu → Nbu) : (updNbu s u f).queues = s.queues := rfl
@[simp] theorem updNbu_units (s : State) (u : Nat) (f : Nbu → Nbu) : (updNbu s u f).units = s.units := rfl
@[simp] theorem updNbu_qte (s : State) (u : Nat) (f : Nbu → Nbu) : (updNbu s u f).qte = s.qte := rfl
@[simp] theorem updNbu_mxe (s : State) (u : Nat) (f : Nbu → Nbu) : (updNbu s u f).mxe = s.mxe := rfl
@[simp] theorem updNbu_gwe (s : State) (u : Nat) (f : Nbu → Nbu) : (updNbu s u f).gwe = s.gwe := rfl
@[simp] theorem updNbu_dse (s : State) (u : Nat) (f : Nbu → Nbu) : (updNbu s u f).dse = s.dse := rfl
@[simp] theorem updNbu_cu (s : State) (u : Nat) (f : Nbu → Nbu) : (updNbu s u f).cu = s.cu := rfl
@[simp] theorem updNbu_sle (s : State) (u : Nat) (f : Nbu → Nbu) : (updNbu s u f).sle = s.sle := rfl
@[simp] theorem updNbu_ldl (s : State) (u : Nat) (f : Nbu → Nbu) : (updNbu s u f).ldl = s.ldl := rfl
@[simp] theorem updNbu_tiers (s : State) (u : Nat) (f : Nbu → Nbu) : (updNbu s u f).tiers = s.tiers := rfl
@[simp] theorem updNbu_chans (s : State) (u : Nat) (f : Nbu → Nbu) : (updNbu s u f).chans = s.chans := rfl
@[simp] theorem updNbu_foot (s : State) (u : Nat) (f : Nbu → Nbu) : (updNbu s u f).foot = s.foot := rfl
@[simp] theorem updNbu_gte (s : State) (u : Nat) (f : Nbu → Nbu) : (updNbu s u f).gte = s.gte := rfl
@[simp] theorem updNbu_fle (s : State) (u : Nat) (f : Nbu → Nbu) : (updNbu s u f).fle = s.fle := rfl
@[simp] theorem updNbu_mbx (s : State) (u : Nat) (f : Nbu → Nbu) : (updNbu s u f).mbx = s.mbx := rfl
@[simp] theorem updNbu_host (s : State) (u : Nat) (f : Nbu → Nbu) : (updNbu s u f).host = s.host := rfl
@[simp] theorem updNbu_hws (s : State) (u : Nat) (f : Nbu → Nbu) : (updNbu s u f).hws = s.hws := rfl
@[simp] theorem updNbu_cmp (s : State) (u : Nat) (f : Nbu → Nbu) : (updNbu s u f).cmp = s.cmp := rfl
@[simp] theorem updNbu_err (s : State) (u : Nat) (f : Nbu → Nbu) : (updNbu s u f).err = s.err := rfl
@[simp] theorem updNbu_boot (s : State) (u : Nat) (f : Nbu → Nbu) : (updNbu s u f).boot = s.boot := rfl
@[simp] theorem updNbu_sec (s : State) (u : Nat) (f : Nbu → Nbu) : (updNbu s u f).sec = s.sec := rfl
@[simp] theorem updNbu_tst (s : State) (u : Nat) (f : Nbu → Nbu) : (updNbu s u f).tst = s.tst := rfl
@[simp] theorem updNbu_feed (s : State) (u : Nat) (f : Nbu → Nbu) : (updNbu s u f).feed = s.feed := rfl
@[simp] theorem updNbu_island (s : State) (u : Nat) (f : Nbu → Nbu) : (updNbu s u f).island = s.island := rfl

@[simp] theorem updDse_pending (s : State) (u : Nat) (f : DseUnit → DseUnit) : (updDse s u f).pending = s.pending := rfl
@[simp] theorem updDse_choice (s : State) (u : Nat) (f : DseUnit → DseUnit) : (updDse s u f).choice = s.choice := rfl
@[simp] theorem updDse_out (s : State) (u : Nat) (f : DseUnit → DseUnit) : (updDse s u f).out = s.out := rfl
@[simp] theorem updDse_mem (s : State) (u : Nat) (f : DseUnit → DseUnit) : (updDse s u f).mem = s.mem := rfl
@[simp] theorem updDse_caches (s : State) (u : Nat) (f : DseUnit → DseUnit) : (updDse s u f).caches = s.caches := rfl
@[simp] theorem updDse_dir (s : State) (u : Nat) (f : DseUnit → DseUnit) : (updDse s u f).dir = s.dir := rfl
@[simp] theorem updDse_tb (s : State) (u : Nat) (f : DseUnit → DseUnit) : (updDse s u f).tb = s.tb := rfl
@[simp] theorem updDse_rail (s : State) (u : Nat) (f : DseUnit → DseUnit) : (updDse s u f).rail = s.rail := rfl
@[simp] theorem updDse_seqs (s : State) (u : Nat) (f : DseUnit → DseUnit) : (updDse s u f).seqs = s.seqs := rfl
@[simp] theorem updDse_ctrs (s : State) (u : Nat) (f : DseUnit → DseUnit) : (updDse s u f).ctrs = s.ctrs := rfl
@[simp] theorem updDse_queues (s : State) (u : Nat) (f : DseUnit → DseUnit) : (updDse s u f).queues = s.queues := rfl
@[simp] theorem updDse_units (s : State) (u : Nat) (f : DseUnit → DseUnit) : (updDse s u f).units = s.units := rfl
@[simp] theorem updDse_qte (s : State) (u : Nat) (f : DseUnit → DseUnit) : (updDse s u f).qte = s.qte := rfl
@[simp] theorem updDse_mxe (s : State) (u : Nat) (f : DseUnit → DseUnit) : (updDse s u f).mxe = s.mxe := rfl
@[simp] theorem updDse_gwe (s : State) (u : Nat) (f : DseUnit → DseUnit) : (updDse s u f).gwe = s.gwe := rfl
@[simp] theorem updDse_cu (s : State) (u : Nat) (f : DseUnit → DseUnit) : (updDse s u f).cu = s.cu := rfl
@[simp] theorem updDse_sle (s : State) (u : Nat) (f : DseUnit → DseUnit) : (updDse s u f).sle = s.sle := rfl
@[simp] theorem updDse_ldl (s : State) (u : Nat) (f : DseUnit → DseUnit) : (updDse s u f).ldl = s.ldl := rfl
@[simp] theorem updDse_tiers (s : State) (u : Nat) (f : DseUnit → DseUnit) : (updDse s u f).tiers = s.tiers := rfl
@[simp] theorem updDse_chans (s : State) (u : Nat) (f : DseUnit → DseUnit) : (updDse s u f).chans = s.chans := rfl
@[simp] theorem updDse_nbus (s : State) (u : Nat) (f : DseUnit → DseUnit) : (updDse s u f).nbus = s.nbus := rfl
@[simp] theorem updDse_foot (s : State) (u : Nat) (f : DseUnit → DseUnit) : (updDse s u f).foot = s.foot := rfl
@[simp] theorem updDse_gte (s : State) (u : Nat) (f : DseUnit → DseUnit) : (updDse s u f).gte = s.gte := rfl
@[simp] theorem updDse_fle (s : State) (u : Nat) (f : DseUnit → DseUnit) : (updDse s u f).fle = s.fle := rfl
@[simp] theorem updDse_mbx (s : State) (u : Nat) (f : DseUnit → DseUnit) : (updDse s u f).mbx = s.mbx := rfl
@[simp] theorem updDse_host (s : State) (u : Nat) (f : DseUnit → DseUnit) : (updDse s u f).host = s.host := rfl
@[simp] theorem updDse_hws (s : State) (u : Nat) (f : DseUnit → DseUnit) : (updDse s u f).hws = s.hws := rfl
@[simp] theorem updDse_cmp (s : State) (u : Nat) (f : DseUnit → DseUnit) : (updDse s u f).cmp = s.cmp := rfl
@[simp] theorem updDse_err (s : State) (u : Nat) (f : DseUnit → DseUnit) : (updDse s u f).err = s.err := rfl
@[simp] theorem updDse_boot (s : State) (u : Nat) (f : DseUnit → DseUnit) : (updDse s u f).boot = s.boot := rfl
@[simp] theorem updDse_sec (s : State) (u : Nat) (f : DseUnit → DseUnit) : (updDse s u f).sec = s.sec := rfl
@[simp] theorem updDse_tst (s : State) (u : Nat) (f : DseUnit → DseUnit) : (updDse s u f).tst = s.tst := rfl
@[simp] theorem updDse_feed (s : State) (u : Nat) (f : DseUnit → DseUnit) : (updDse s u f).feed = s.feed := rfl
@[simp] theorem updDse_island (s : State) (u : Nat) (f : DseUnit → DseUnit) : (updDse s u f).island = s.island := rfl

@[simp] theorem updFoot_pending (s : State) (q : Nat) (i : Word) (f : Foot → Foot) : (updFoot s q i f).pending = s.pending := rfl
@[simp] theorem updFoot_choice (s : State) (q : Nat) (i : Word) (f : Foot → Foot) : (updFoot s q i f).choice = s.choice := rfl
@[simp] theorem updFoot_out (s : State) (q : Nat) (i : Word) (f : Foot → Foot) : (updFoot s q i f).out = s.out := rfl
@[simp] theorem updFoot_mem (s : State) (q : Nat) (i : Word) (f : Foot → Foot) : (updFoot s q i f).mem = s.mem := rfl
@[simp] theorem updFoot_caches (s : State) (q : Nat) (i : Word) (f : Foot → Foot) : (updFoot s q i f).caches = s.caches := rfl
@[simp] theorem updFoot_dir (s : State) (q : Nat) (i : Word) (f : Foot → Foot) : (updFoot s q i f).dir = s.dir := rfl
@[simp] theorem updFoot_tb (s : State) (q : Nat) (i : Word) (f : Foot → Foot) : (updFoot s q i f).tb = s.tb := rfl
@[simp] theorem updFoot_rail (s : State) (q : Nat) (i : Word) (f : Foot → Foot) : (updFoot s q i f).rail = s.rail := rfl
@[simp] theorem updFoot_seqs (s : State) (q : Nat) (i : Word) (f : Foot → Foot) : (updFoot s q i f).seqs = s.seqs := rfl
@[simp] theorem updFoot_ctrs (s : State) (q : Nat) (i : Word) (f : Foot → Foot) : (updFoot s q i f).ctrs = s.ctrs := rfl
@[simp] theorem updFoot_queues (s : State) (q : Nat) (i : Word) (f : Foot → Foot) : (updFoot s q i f).queues = s.queues := rfl
@[simp] theorem updFoot_units (s : State) (q : Nat) (i : Word) (f : Foot → Foot) : (updFoot s q i f).units = s.units := rfl
@[simp] theorem updFoot_qte (s : State) (q : Nat) (i : Word) (f : Foot → Foot) : (updFoot s q i f).qte = s.qte := rfl
@[simp] theorem updFoot_mxe (s : State) (q : Nat) (i : Word) (f : Foot → Foot) : (updFoot s q i f).mxe = s.mxe := rfl
@[simp] theorem updFoot_gwe (s : State) (q : Nat) (i : Word) (f : Foot → Foot) : (updFoot s q i f).gwe = s.gwe := rfl
@[simp] theorem updFoot_dse (s : State) (q : Nat) (i : Word) (f : Foot → Foot) : (updFoot s q i f).dse = s.dse := rfl
@[simp] theorem updFoot_cu (s : State) (q : Nat) (i : Word) (f : Foot → Foot) : (updFoot s q i f).cu = s.cu := rfl
@[simp] theorem updFoot_sle (s : State) (q : Nat) (i : Word) (f : Foot → Foot) : (updFoot s q i f).sle = s.sle := rfl
@[simp] theorem updFoot_ldl (s : State) (q : Nat) (i : Word) (f : Foot → Foot) : (updFoot s q i f).ldl = s.ldl := rfl
@[simp] theorem updFoot_tiers (s : State) (q : Nat) (i : Word) (f : Foot → Foot) : (updFoot s q i f).tiers = s.tiers := rfl
@[simp] theorem updFoot_chans (s : State) (q : Nat) (i : Word) (f : Foot → Foot) : (updFoot s q i f).chans = s.chans := rfl
@[simp] theorem updFoot_nbus (s : State) (q : Nat) (i : Word) (f : Foot → Foot) : (updFoot s q i f).nbus = s.nbus := rfl
@[simp] theorem updFoot_gte (s : State) (q : Nat) (i : Word) (f : Foot → Foot) : (updFoot s q i f).gte = s.gte := rfl
@[simp] theorem updFoot_fle (s : State) (q : Nat) (i : Word) (f : Foot → Foot) : (updFoot s q i f).fle = s.fle := rfl
@[simp] theorem updFoot_mbx (s : State) (q : Nat) (i : Word) (f : Foot → Foot) : (updFoot s q i f).mbx = s.mbx := rfl
@[simp] theorem updFoot_host (s : State) (q : Nat) (i : Word) (f : Foot → Foot) : (updFoot s q i f).host = s.host := rfl
@[simp] theorem updFoot_hws (s : State) (q : Nat) (i : Word) (f : Foot → Foot) : (updFoot s q i f).hws = s.hws := rfl
@[simp] theorem updFoot_cmp (s : State) (q : Nat) (i : Word) (f : Foot → Foot) : (updFoot s q i f).cmp = s.cmp := rfl
@[simp] theorem updFoot_err (s : State) (q : Nat) (i : Word) (f : Foot → Foot) : (updFoot s q i f).err = s.err := rfl
@[simp] theorem updFoot_boot (s : State) (q : Nat) (i : Word) (f : Foot → Foot) : (updFoot s q i f).boot = s.boot := rfl
@[simp] theorem updFoot_sec (s : State) (q : Nat) (i : Word) (f : Foot → Foot) : (updFoot s q i f).sec = s.sec := rfl
@[simp] theorem updFoot_tst (s : State) (q : Nat) (i : Word) (f : Foot → Foot) : (updFoot s q i f).tst = s.tst := rfl
@[simp] theorem updFoot_feed (s : State) (q : Nat) (i : Word) (f : Foot → Foot) : (updFoot s q i f).feed = s.feed := rfl
@[simp] theorem updFoot_island (s : State) (q : Nat) (i : Word) (f : Foot → Foot) : (updFoot s q i f).island = s.island := rfl

/-! ## Reading a bank after an update -/

@[simp] theorem queueOf_updQueue_same (s : State) (k : Nat) (f : Queue → Queue) : queueOf (updQueue s k f) k = f (queueOf s k) := by
  simp [queueOf, updQueue]
theorem queueOf_updQueue_other (s : State) (f : Queue → Queue) {j k : Nat} (h : j ≠ k) : queueOf (updQueue s k f) j = queueOf s j := by
  simp [queueOf, updQueue, tget_tmod_other _ _ _ h]
@[simp] theorem mbxOf_updMbx_same (s : State) (k : Nat) (f : Mbx → Mbx) : mbxOf (updMbx s k f) k = f (mbxOf s k) := by
  simp [mbxOf, updMbx]
theorem mbxOf_updMbx_other (s : State) (f : Mbx → Mbx) {j k : Nat} (h : j ≠ k) : mbxOf (updMbx s k f) j = mbxOf s j := by
  simp [mbxOf, updMbx, tget_tmod_other _ _ _ h]
@[simp] theorem chanOf_updChan_same (s : State) (k : Nat) (f : Chan → Chan) : chanOf (updChan s k f) k = f (chanOf s k) := by
  simp [chanOf, updChan]
theorem chanOf_updChan_other (s : State) (f : Chan → Chan) {j k : Nat} (h : j ≠ k) : chanOf (updChan s k f) j = chanOf s j := by
  simp [chanOf, updChan, tget_tmod_other _ _ _ h]
@[simp] theorem nbuOf_updNbu_same (s : State) (k : Nat) (f : Nbu → Nbu) : nbuOf (updNbu s k f) k = f (nbuOf s k) := by
  simp [nbuOf, updNbu]
theorem nbuOf_updNbu_other (s : State) (f : Nbu → Nbu) {j k : Nat} (h : j ≠ k) : nbuOf (updNbu s k f) j = nbuOf s j := by
  simp [nbuOf, updNbu, tget_tmod_other _ _ _ h]
@[simp] theorem fleOf_updFle_same (s : State) (k : Nat) (f : Fle → Fle) : fleOf (updFle s k f) k = f (fleOf s k) := by
  simp [fleOf, updFle]
theorem fleOf_updFle_other (s : State) (f : Fle → Fle) {j k : Nat} (h : j ≠ k) : fleOf (updFle s k f) j = fleOf s j := by
  simp [fleOf, updFle, tget_tmod_other _ _ _ h]
@[simp] theorem dseOf_updDse_same (s : State) (k : Nat) (f : DseUnit → DseUnit) : dseOf (updDse s k f) k = f (dseOf s k) := by
  simp [dseOf, updDse]
theorem dseOf_updDse_other (s : State) (f : DseUnit → DseUnit) {j k : Nat} (h : j ≠ k) : dseOf (updDse s k f) j = dseOf s j := by
  simp [dseOf, updDse, tget_tmod_other _ _ _ h]
@[simp] theorem portOf_updPort_same (s : State) (k : Nat) (f : HPort → HPort) : portOf (updPort s k f) k = f (portOf s k) := by
  simp [portOf, updPort]
theorem portOf_updPort_other (s : State) (f : HPort → HPort) {j k : Nat} (h : j ≠ k) : portOf (updPort s k f) j = portOf s j := by
  simp [portOf, updPort, tget_tmod_other _ _ _ h]
@[simp] theorem recvOf_updRecv_same (s : State) (k : Nat) (f : RecvRing → RecvRing) : recvOf (updRecv s k f) k = f (recvOf s k) := by
  simp [recvOf, updRecv]
theorem recvOf_updRecv_other (s : State) (f : RecvRing → RecvRing) {j k : Nat} (h : j ≠ k) : recvOf (updRecv s k f) j = recvOf s j := by
  simp [recvOf, updRecv, tget_tmod_other _ _ _ h]
@[simp] theorem sendOf_updSend_same (s : State) (k : Nat) (f : SendRing → SendRing) : sendOf (updSend s k f) k = f (sendOf s k) := by
  simp [sendOf, updSend]
theorem sendOf_updSend_other (s : State) (f : SendRing → SendRing) {j k : Nat} (h : j ≠ k) : sendOf (updSend s k f) j = sendOf s j := by
  simp [sendOf, updSend, tget_tmod_other _ _ _ h]
@[simp] theorem zoneOf_updZone_same (s : State) (k : Nat) (f : Zone → Zone) : zoneOf (updZone s k f) k = f (zoneOf s k) := by
  simp [zoneOf, updZone]
theorem zoneOf_updZone_other (s : State) (f : Zone → Zone) {j k : Nat} (h : j ≠ k) : zoneOf (updZone s k f) j = zoneOf s j := by
  simp [zoneOf, updZone, tget_tmod_other _ _ _ h]
@[simp] theorem unitOf_updUnit_same (s : State) (c u : Nat) (f : UnitSt → UnitSt) : unitOf (updUnit s c u f) c u = f (unitOf s c u) := by
  simp [unitOf, updUnit]
@[simp] theorem fleOf_setFle_same (s : State) (u : Nat) (x : Fle) : fleOf (setFle s u x) u = x := by simp [fleOf, setFle]
theorem fleOf_setFle_other (s : State) (x : Fle) {j k : Nat} (h : j ≠ k) : fleOf (setFle s k x) j = fleOf s j := by
  simp [fleOf, setFle, tget_tset_other _ _ _ h]
@[simp] theorem hostOf_updHost_same (s : State) (p : HostPort) (f : HostSt → HostSt) : hostOf (updHost s p f) p = f (hostOf s p) := by
  simp [hostOf, updHost]
@[simp] theorem choice_tick1 (s : State) : (tick1 s).choice = s.choice + 1 := rfl
@[simp] theorem out_emit (s : State) (o : Output) : (emit s o).out = s.out ++ [o] := rfl
@[simp] theorem ctrs_ctrAdd_same (s : State) (k n : Nat) : tget (ctrAdd s k n).ctrs 0 k = tget s.ctrs 0 k + BitVec.ofNat 64 n := by
  simp [ctrAdd]
theorem ctrs_ctrAdd_other (s : State) (n : Nat) {j k : Nat} (h : j ≠ k) : tget (ctrAdd s k n).ctrs 0 j = tget s.ctrs 0 j := by
  simp [ctrAdd, tget_tmod_other _ _ _ h]

end Sys2Proof.Machine
end

