-- ==== Sys2Proof/Laws/Ops.lean ====
section
/-!
SUPPORT. One lemma for each shared operation beside memory: everything it can do.
-/
namespace Sys2Proof.Machine
open Sys2Proof

/-! ## The store buffer -/

theorem storeOut_access (s : State) (w : Who) (a : Nat) (l : List Byte) : Access s (storeOut s w a l) := by
  refine (pieceWrite_access s w a l).trans ?_
  unfold storeOut; dsimp only; split
  · exact .refl _
  · exact ncWrite_access _ _ _ _

/-- Stores become visible by accesses of memory. -/
theorem drainStores_access (n : Fin 64) (l : List (Nat × List Byte)) (s : State) :
    Access s (l.foldl (fun s e => storeOut s (seqWho s n 0) e.1 e.2) s) := by
  induction l generalizing s with
  | nil => exact .refl s
  | cons e r ih => exact (storeOut_access s (seqWho s n 0) e.1 e.2).trans (ih _)

/-- The stores of a Sequencer become visible by accesses of memory; then its buffer is empty, and no other Sequencer
changes. -/
theorem drain_spec (s : State) (n : Fin 64) :
    ∃ t, Access s t ∧ drain s n = updSeq t n (fun q => { q with stores := [] }) := by
  have h := drainStores_access n (seqOf s n).stores s
  unfold drain
  exact ⟨_, h, rfl⟩

theorem drain_seqOf_same (s : State) (n : Fin 64) : seqOf (drain s n) n = { seqOf s n with stores := [] } := by
  obtain ⟨t, h, e⟩ := drain_spec s n
  rw [e, seqOf_updSeq_same, h.seqOf]

theorem drain_seqOf_other (s : State) {n m : Fin 64} (h : m ≠ n) : seqOf (drain s n) m = seqOf s m := by
  obtain ⟨t, k, e⟩ := drain_spec s n
  rw [e, seqOf_updSeq_other _ _ h, k.seqOf]

theorem drain_queues (s : State) (n : Fin 64) : (drain s n).queues = s.queues := by
  obtain ⟨t, h, e⟩ := drain_spec s n
  rw [e, updSeq_queues, h.queues]

theorem drain_wf (s : State) (n : Fin 64) (h : s.mem.wf) : (drain s n).mem.wf := by
  obtain ⟨t, k, e⟩ := drain_spec s n
  rw [e, updSeq_mem]
  exact k.wf h

/-- A host's access drains nothing. -/
@[simp] theorem accDrain_pf (s : State) (p : HostPort) : accDrain s (.pf p) = s := rfl
@[simp] theorem accDrain_vf (s : State) (p : HostPort) (v : Fin 32) : accDrain s (.vf p v) = s := rfl

theorem accDrain_empty {s : State} {n : Fin 64} (h : (seqOf s n).stores = []) : accDrain s (.seq n) = s := by
  simp [accDrain, h]

theorem accDrain_wf (s : State) (a : Acc) (h : s.mem.wf) : (accDrain s a).mem.wf := by
  cases a with
  | seq n =>
    simp only [accDrain]
    split
    · exact h
    · exact drain_wf s n h
  | pf p => exact h
  | vf p v => exact h

/-- A register access of a function does its effect where the function reaches the registers, and nothing elsewhere. -/
theorem accDo_ok {s : State} {a : Acc} {b : Bool} (f : State → State) (h : accOk s a b = true) :
    accDo s a f b = f (accDrain s a) := by simp [accDo, h]

theorem accDo_not {s : State} {a : Acc} {b : Bool} (f : State → State) (h : accOk s a b = false) : accDo s a f b = s := by
  simp [accDo, h]

theorem accDo_wf {s : State} (a : Acc) (b : Bool) {f : State → State} (hf : ∀ s, s.mem.wf → (f s).mem.wf) (h : s.mem.wf) :
    (accDo s a f b).mem.wf := by
  unfold accDo; split
  · exact hf _ (accDrain_wf s a h)
  · exact h

/-! ## Traps -/

/-- A trap that a handler takes (R71): the trap registers are written, STATUS.TH is set, the PC is TVEC; nothing else
changes. -/
theorem takeTrap_taken {s : State} {n : Fin 64} (op : Nat) (c : Cause) (tval : Word) (h : (seqOf s n).th = false)
    (k : (seqOf s n).tvec ≠ 0) :
    takeTrap s n op c tval = updSeq s n (fun q => { q with
      tpc := q.pc, tcause := BitVec.ofNat 8 (causeCode c), tval := tval, wait := .idle, th := true, pc := q.tvec }) := by
  unfold takeTrap
  dsimp only
  rw [if_pos ⟨h, k⟩, updSeq_updSeq]
  refine updSeq_congr s n ?_
  rfl

/-- A trap leaves memory's canonical form. -/
theorem takeTrap_wf (s : State) (n : Fin 64) (op : Nat) (c : Cause) (tval : Word) (h : s.mem.wf) :
    (takeTrap s n op c tval).mem.wf := by
  unfold takeTrap; dsimp only; split
  · exact h
  · exact (logRec_access _ _ _ _ _ _).wf h

/-! ## Queues -/

@[simp] theorem queueOf_setEntry_same (s : State) (q : Nat) (i : Word) (e : Entry) :
    queueOf (setEntry s q i e) q =
      { queueOf s q with entries := lset (queueOf s q).entries (i - (queueOf s q).retired).toNat e } := by
  simp [setEntry]

theorem queueOf_setEntry_other (s : State) (i : Word) (e : Entry) {j k : Nat} (h : j ≠ k) :
    queueOf (setEntry s k i e) j = queueOf s j := queueOf_updQueue_other _ _ h

/-- A descriptor that is done changes its own entry alone. -/
theorem finish_spec (s : State) (q : Nat) (i : Word) (code : Nat) :
    finish s q i code = match entryAt s q i with
      | none => s
      | some e => setEntry s q i { e with st := .finished code } := rfl

theorem finish_wf (s : State) (q : Nat) (i : Word) (code : Nat) (h : s.mem.wf) : (finish s q i code).mem.wf := by
  unfold finish; split
  · exact h
  · exact h

theorem setWork_wf (s : State) (q : Nat) (i : Word) (w : Work) (h : s.mem.wf) : (setWork s q i w).mem.wf := by
  unfold setWork; split
  · exact h
  · exact h

theorem signal_wf (s : State) (e : Entry) (h : s.mem.wf) : (signal s e).mem.wf := by
  unfold signal; dsimp only; split
  · exact h
  · exact h

theorem noteResult_wf (s : State) (q : Nat) (i : Word) (code : Nat) (h : s.mem.wf) : (noteResult s q i code).mem.wf := by
  unfold noteResult; split
  · exact h
  · split
    · exact h
    · exact h

theorem passPrefix_wf (k : Nat) (s : State) (q : Nat) (h : s.mem.wf) : (passPrefix k s q).mem.wf := by
  induction k generalizing s with
  | zero => exact h
  | succ k ih =>
    unfold passPrefix; split
    · split
      · exact ih _ (signal_wf _ _ h)
      · exact h
    · exact h

theorem retireEntry_wf (s : State) (q : Nat) (i : Word) (code : Nat) (h : s.mem.wf) : (retireEntry s q i code).mem.wf := by
  unfold retireEntry; split
  · exact h
  · exact passPrefix_wf _ _ _ (noteResult_wf _ _ _ _ h)

/-- Work is counted without any access to memory. -/
theorem countWork_access (s : State) (c : Nat) (e : Entry) (n : Nat) : Access s (countWork s c e n) :=
  (ctrAdd_access _ _ _).trans (tally_access _ _ _ _)

/-- Free bytes are left as an access leaves bytes. -/
theorem undefine_access (s : State) (a n : Nat) : Access s (undefine s a n) := by
  unfold undefine; split
  · exact .refl s
  · exact ⟨rfl, fun h => cellsWf_cellsSet a _ h, fun _ => rfl⟩

/-- Copies of an extent's lines leave the caches by accesses of memory. -/
theorem invalidateExt_access (s : State) (a n : Nat) : Access s (invalidateExt s a n) :=
  Access.foldl _ (fun s l => ((waitHold_access s 160 l).trans (recallLine_access _ l)).trans (dirDel_access _ l)) _ s

theorem releaseOuts_wf (s : State) (n : Fin 64) (h : s.mem.wf) : (releaseOuts s n).mem.wf := by
  unfold releaseOuts
  exact (Access.foldl _ (fun s e => invalidateExt_access s e.1 e.2) (seqOf s n).outs s).wf h

/-! ## Released memory -/

/-- Zeros keep the canonical form. -/
theorem zeroRange_wf (s : State) (a n : Nat) (h : s.mem.wf) : (zeroRange s a n).mem.wf :=
  cellsWf_filter _ ((invalidateExt_access s a n).wf h)

theorem releaseAll_wf (s : State) (h : s.mem.wf) : (releaseAll s).mem.wf := by
  unfold releaseAll
  generalize s.sec.regions.filter (fun e => e.2.units != 0) = l
  induction l generalizing s with
  | nil => exact h
  | cons x r ih => exact ih _ (zeroRange_wf _ _ _ h)

theorem spoil_wf (c : Nat) (m : List Host.Cell) (l : List (Nat × Nat)) (h : cellsWf m = true) : cellsWf (spoil c m l) = true := by
  induction l generalizing c m with
  | nil => exact h
  | cons p r ih =>
    refine ih _ _ ?_
    generalize pieces p.1 p.2 = ps
    induction ps generalizing m with
    | nil => exact h
    | cons q ps ih2 =>
      refine ih2 _ ?_
      dsimp only
      split
      · exact h
      · exact cellsWf_cellsSet _ _ h

/-- A WARM reset keeps the canonical form. -/
theorem warmMem_wf (s : State) (h : s.mem.wf) : (warmMem s).wf := by
  unfold warmMem
  dsimp only
  refine cellsWf_filter _ (releaseAll_wf _ (spoil_wf _ _ _ ?_))
  generalize List.range (strayLines s).length = l
  generalize hm : s.mem.cells = m at h
  have h : cellsWf m = true := hm ▸ h
  clear hm
  induction l generalizing m with
  | nil => exact h
  | cons k r ih =>
    refine ih _ ?_
    dsimp only
    split
    · split
      · exact cellsWf_cellsSet _ _ h
      · exact h
    · exact h

end Sys2Proof.Machine
end

