-- ==== Sys2Proof/Tests/Slice0.lean ====
section
/-!
SUPPORT. Tests: one ill-formed command for each check of WellFormed, commands on small states with the results the spec
gives, and for every statement with hypotheses a state and operands that meet them.
-/
namespace Sys2Proof.Tests
open Sys2Proof Sys2Proof.Machine

/-! ## Helpers -/

/-- The answer is a next state of which `p` holds. -/
def gives (o : Host.Outcome State Fault Refusal) (p : State → Bool) : Bool :=
  match o with
  | .next t => p t
  | _ => false

/-- A node that is ready, with both host links up. -/
def rdy : State := { boot := { ready := true }, host := [(0, { linkUp := true }), (1, { linkUp := true })] }

/-- A code region at 0 to 64 KiB, and Sequencer 0 as given, at PC 0. -/
def sq (q : Seq) : State :=
  { rdy with
    seqs := [(0, { q with running := true })],
    sec := { regions := [(0, { valid := true, base := 0, units := 1 })] } }

/-- Its registers g1 and g2. -/
def two (a b : Word) : Seq := { g := [(1, a), (2, b)] }

def g (t : State) (n : Fin 64) (r : BitVec 6) : Word := reg (seqOf t n) r

/-- A queue with the descriptors given, each with what it is doing. -/
def qs (k : Nat) (l : List (List Word × EntrySt)) : State :=
  { rdy with
    queues := [(k, { entries := l.map (fun e => { words := e.1, tenant := 3, issuer := 0, st := e.2 }) })] }

/-- The header word of a descriptor: OP, LEN, WT, SG, WAIT_CTR, SIG_CTR. -/
def hd (op len : Nat) (wt sg : Bool) (wc sc : Nat) : Word :=
  put wc 48 ||| put sc 32 ||| put op 16 ||| put (bit sg) 9 ||| put (bit wt) 8 ||| put len 0

/-! ## Well-formedness -/

def msg0 : Msg := { dst := 1, src := 2, kind := 1, hops := 1 }
def frame0 : Frame := { seq := 1, pert := false, time := 0, ents := [], mac := 0 }
def check0 : CheckResult := { num := 1, addr := 0, what := .count 1 1 }
def report0 : PowerReport :=
  { fuseOk := true, t0Ok := true, chans := [], hubs := [], lanes := [], ports := [], units := [], seqs := [], bundles := [] }
def geo0 : Geometry := { dies := 1, planes := 2, blocks := 1, pages := 1, targets := 1, bad := [] }
def req0 : ChanReq := { agent := 1, addr := t2Base, size := 8, data := none }

theorem test_wf_accepts :
    [Instr.add 0 1 2 3 .ok, .rerankReadData 0 0 65535 [], .ladleDeadline 0 0 1 1, .channelRequest 0 req0, .gets 151 0,
     .ncWrite 0 0 [1], .hostMemWrite (.pf .a) 2 0 [1], .hostMemRead (.vf .b 3) 4 0 4096, .linkUp .a 8 6, .dataReceive 0 msg0,
     .tallyFrame frame0, .patternTestEnd [check0], .powerupSequence report0, .admitDone 0 0 geo0,
     .energyInterval [1]].all Instr.wf = true := by decide

theorem test_wf_entry_index :
    [Instr.rerankReadData 0 0 65536 [], .rerankReadError 0 0 65536, .ladleDeadline 0 0 2 1].all (fun i => !i.wf) = true := by
  decide

theorem test_wf_channel_request :
    [{ req0 with agent := 152 }, { req0 with size := 0 }, { req0 with size := 65 }, { req0 with data := some [1] }].all
      (fun r => !(Instr.channelRequest 0 r).wf) = true := by decide

theorem test_wf_lists_too_long (l : List Bool) (m : List (Nat × Bool)) (r : List Nat) (h : 65536 < l.length)
    (h' : 65536 < m.length) (h'' : 16 < r.length) :
    (Instr.gatherDeadline 0 0 l []).wf = false ∧ (Instr.sbVerify 0 0 m).wf = false ∧ (Instr.energyInterval r).wf = false := by
  change decide (l.length ≤ 65536) = false ∧ decide (m.length ≤ 65536) = false ∧ decide (r.length ≤ 16) = false
  simp [h, h', h'']

theorem test_wf_agents :
    [Instr.gets 152 0, .getm 152 0, .putm 152 0, .ncRead 152 0, .ncWrite 152 0 [1], .invalidate 152 0,
     .nearAtomic 152 0 .add true 0 0 .ok, .requestAged 152 0 0, .holdExpire 152 0].all (fun i => !i.wf) = true := by decide

theorem test_wf_data : [Instr.ncWrite 0 0 [], .ncWrite 0 0 (List.replicate 65 0)].all (fun i => !i.wf) = true := by decide

theorem test_wf_host :
    [Instr.hostMemWrite (.seq 0) 2 0 [1], .hostMemWrite (.pf .a) 1 0 [1], .hostMemWrite (.pf .a) 2 0 [],
     .hostMemRead (.pf .a) 2 0 0, .hostMemRead (.pf .a) 2 0 4097, .hostMemRead (.pf .a) 5 0 8, .hostMemRead (.seq 0) 2 0 8,
     .hostAtomic (.pf .a) 3 0 .fetchAdd true 0 0 .ok, .hostAtomic (.seq 0) 2 0 .fetchAdd true 0 0 .ok].all
      (fun i => !i.wf) = true := by decide

theorem test_wf_links :
    [Instr.linkUp .a 3 1, .linkUp .a 8 0, .linkUp .a 8 7, .hwsLinkUp 0 9 0].all (fun i => !i.wf) = true := by decide

theorem test_wf_message :
    [{ msg0 with dst := 65536 }, { msg0 with src := 65536 }, { msg0 with epoch := 65536 }, { msg0 with cls := 8 },
     { msg0 with kind := 16 }, { msg0 with hops := 256 }, { msg0 with tenant := 4096 }, { msg0 with flow := 256 },
     { msg0 with ring := 256 }, { msg0 with reply := 256 }].all (fun m =>
      [Instr.msgForward 0 m, .dataReceive 0 m, .putReceive 0 m, .scatterReceive 0 ⟨m, []⟩, .ackReceive 0 m, .refuseReceive 0 m,
       .absentReceive 0 m].all (fun i => !i.wf)) = true := by decide

theorem test_wf_payload (l : List Byte) (h : 16384 < l.length) : (Instr.dataReceive 0 { msg0 with payload := l }).wf = false := by
  change (Msg.wf { msg0 with payload := l }) = false
  simp [Msg.wf, h]

theorem test_wf_frame :
    [{ frame0 with seq := 2 ^ 48 }, { frame0 with time := 2 ^ 64 }, { frame0 with ents := List.replicate 63 (0, 0, 0) },
     { frame0 with mac := 2 ^ 128 }, { frame0 with ents := [(4096, 0, 0)] }, { frame0 with ents := [(0, 256, 0)] },
     { frame0 with ents := [(0, 0, 2 ^ 44)] }].all (fun f =>
      [Instr.startFrame f, .tallyFrame f, .finalFrame f].all (fun i => !i.wf)) = true := by decide

theorem test_wf_checks :
    [{ check0 with num := 16 }, { check0 with test := 1024 }, { check0 with addr := 2 ^ 56 }].all (fun c =>
      [Instr.patternTestEnd [c], .reloadTestsDone [c]].all (fun i => !i.wf)) = true := by decide

theorem test_wf_power_report :
    [{ report0 with chans := [528] }, { report0 with lanes := [(16, 0)] }, { report0 with seqs := [64] }].all (fun r =>
      [Instr.powerupSequence r, .warmExit r].all (fun i => !i.wf)) = true := by decide

theorem test_wf_power_report_bundle (l : List Byte) (h : 2 ^ 24 < l.length) :
    (Instr.powerupSequence { report0 with bundles := [l] }).wf = false := by
  change PowerReport.wf { report0 with bundles := [l] } = false
  simp [PowerReport.wf]; omega

theorem test_wf_geometry :
    [{ geo0 with dies := 3 }, { geo0 with planes := 1 }, { geo0 with blocks := 0 }, { geo0 with pages := 0 },
     { geo0 with targets := 0 }, { geo0 with targets := 9 }].all (fun x => !(Instr.admitDone 0 0 x).wf) = true := by decide

/-- No row of the table gives its command bits. -/
theorem test_no_word_spells_a_command : decodeTableWord 32 0x00304200 = none := by decide

/-! ## Sequencers -/

/-- The worked encodings of chapter 03. -/
theorem test_worked_encodings :
    wordR 0x00 3 1 2 0x00 = 0x00304200 ∧ wordI 0x16 4 5 0x10 = 0x58414010 ∧ wordR 0x28 12 10 11 0x02 = 0xA0C28B02 ∧
    wordI 0x20 1 0 0x3FFD = 0x80103FFD ∧ wordX 10 0 0 0x400000 = 0xFCA00000 := by decide

theorem test_add_wraps :
    gives (exec (.add 0 1 1 2 .ok) (sq (two 0xFFFFFFFFFFFFFFFF 2))) (fun t => g t 0 1 = 1 && (seqOf t 0).pc = 4) = true := by
  decide

theorem test_g0_discards_writes : gives (exec (.add 0 0 1 2 .ok) (sq (two 5 2))) (fun t => g t 0 0 = 0) = true := by decide

theorem test_sll_ignores_the_high_bits : gives (exec (.sll 0 3 1 2) (sq (two 1 0x41))) (fun t => g t 0 3 = 2) = true := by decide

theorem test_sra_fills_with_the_sign :
    gives (exec (.sra 0 3 1 2) (sq (two 0x8000000000000000 63))) (fun t => g t 0 3 = 0xFFFFFFFFFFFFFFFF) = true := by decide

theorem test_div_by_zero :
    gives (exec (.div 0 3 1 2 .ok) (sq (two 7 0))) (fun t => g t 0 3 = 0xFFFFFFFFFFFFFFFF) = true ∧
    gives (exec (.rem 0 3 1 2 .ok) (sq (two 7 0))) (fun t => g t 0 3 = 7) = true := by decide

theorem test_div_overflow :
    gives (exec (.div 0 3 1 2 .ok) (sq (two 0x8000000000000000 (-1)))) (fun t => g t 0 3 = 0x8000000000000000) = true ∧
    gives (exec (.rem 0 3 1 2 .ok) (sq (two 0x8000000000000000 (-1)))) (fun t => g t 0 3 = 0) = true := by decide

theorem test_rem_takes_the_sign_of_rs1 :
    gives (exec (.rem 0 3 1 2 .ok) (sq (two (-7) 3))) (fun t => g t 0 3 = -1) = true := by decide

theorem test_clz_of_zero : gives (exec (.clz 0 3 1 0) (sq (two 0 0))) (fun t => g t 0 3 = 64) = true := by decide

theorem test_clz_with_rs2_is_illegal :
    gives (exec (.clz 0 3 1 2) (sq (two 0 0))) (fun t => (seqOf t 0).tcause = 1 && !(seqOf t 0).running) = true := by decide

theorem test_lihx_keeps_the_low_bits :
    gives (exec (.lihx 0 1 0 0xABCDEF) (sq (two 0x1122334455667788 0))) (fun t => g t 0 1 = 0xABCDEF4455667788) = true := by
  decide

theorem test_jalr_reads_its_base_first :
    gives (exec (.jalr 0 1 1 4) (sq (two 0x100 0))) (fun t => g t 0 1 = 4 && (seqOf t 0).pc = 0x104) = true := by decide

theorem test_beq_goes_back_three :
    gives (exec (.beq 0 1 2 0x3FFD) (sq { two 1 1 with pc := 0x20 })) (fun t => (seqOf t 0).pc = 0x14) = true := by decide

theorem test_trap_saves_and_vectors :
    gives (exec (.brk 0 0 0 0) (sq { two 1 1 with pc := 8, tvec := 0x400 })) (fun t =>
      (seqOf t 0).tpc = 8 && (seqOf t 0).tcause = 0x0D && (seqOf t 0).th && (seqOf t 0).pc = 0x400) = true := by decide

theorem test_double_trap_halts :
    gives (exec (.brk 0 0 0 0) (sq { two 1 1 with pc := 8, tvec := 0x400, th := true })) (fun t =>
      !(seqOf t 0).running && bitAt (seqOf t 0).sticky 3 && (seqOf t 0).entry = 8) = true := by decide

/-- The hand-over of chapter 03's last example. -/
theorem test_hover_takes_the_hand_over :
    gives (exec (.hover 0 2 0 0) (sq { two 1 1 with
      progver := 7, hoVersion := 8, hoPending := true, hoEntry := 0x800000 })) (fun t =>
      g t 0 2 = 0x8000000000000007 && (seqOf t 0).progver = 8 && (seqOf t 0).pc = 0x800000) = true := by decide

/-- The wrap of R65 as chapter 03 works it. -/
theorem test_satisfies_wraps :
    satisfies (-1) 1 = false ∧ satisfies 0 1 = false ∧ satisfies 1 1 = true := by decide

theorem test_load_is_little_endian :
    gives (exec (.lh 0 3 1 0) { sq (two 0x1000 0) with mem := { cells := [(0x1000, 0x34), (0x1001, 0x92)] } }) (fun t =>
      g t 0 3 = 0xFFFFFFFFFFFF9234) = true := by decide

theorem test_load_sees_own_store :
    gives (exec (.lbu 0 3 1 0) (sq { two 0x1000 0 with stores := [(0x1000, [0x55])] })) (fun t => g t 0 3 = 0x55) = true := by
  decide

theorem test_misaligned_load_traps :
    gives (exec (.lw 0 3 1 0) (sq { two 0x1002 0 with tvec := 0x400 })) (fun t =>
      (seqOf t 0).tcause = 4 && (seqOf t 0).tval = 0x1002) = true := by decide

theorem test_store_into_a_code_region_traps :
    gives (exec (.sd 0 2 1 0) (sq { two 0x1000 7 with tvec := 0x400 })) (fun t => (seqOf t 0).tcause = 0x10) = true := by decide

/-! ## Queues and registers -/

/-- The queue ids and the register of chapter 04's example. -/
theorem test_queue_numbers :
    mkQ 1 5 0 = 0x1014 ∧ mkQ 3 2 1 = 0x3009 ∧ queueAt 1 0x8528 = some 0x1014 ∧ 0x8528 % 64 = 0x28 := by decide

theorem test_reserved_bit_rejected :
    gives (exec (.descAtHead 0x1000) (qs 0x1000 [([hd 2 6 false false 0 0 ||| put 1 5], .queued)])) (fun t =>
      (queueOf t 0x1000).rejects = 1 && (queueOf t 0x1000).lastErr.toNat % 256 = 2) = true := by decide

theorem test_retire_passes_the_prefix :
    gives (exec (.descRetire 0x1000 0) (qs 0x1000 [([hd 2 6 false true 0 0xFF20], .finished 0), ([0], .retired 0)])) (fun t =>
      (queueOf t 0x1000).retired = 2 && ctrGet t 0xFF20 = 1 && (queueOf t 0x1000).completed = 1) = true := by decide

/-- R33's own example: 900 and 850 are both taken as 800. -/
theorem test_rail_limits_compare_once_clamped :
    gives (exec (.bootRailCtlWrite (.pf .a) (put 850 22 ||| put 900 12)) rdy) (fun t => !(bitAt t.rail.sticky 4)) = true := by
  decide

theorem test_crossed_rail_limits_refused :
    gives (exec (.bootRailCtlWrite (.pf .a) (put 700 22 ||| put 701 12)) rdy) (fun t => bitAt t.rail.sticky 4) = true := by
  decide

theorem test_vf_writes_no_register :
    exec (.tbsSet (.vf .a 0) 7) rdy = .next rdy := by rfl

/-! ## Chapter 15's mailbox -/

def mb : State := { rdy with
  mbx := [(5, { cfg := put 12 32 ||| put 128 0 })], seqs := [(9, { tenant := 12 }), (22, { tenant := 12 })] }

theorem test_cleat_first_claim_wins :
    gives (exec (.cleatClaim (.seq 9) 5) mb) (fun t =>
      (mbxOf t 5).owner = 10 && t.out = [.csrValue (.seq 9) 0x100080508 0]) = true := by decide

theorem test_cleat_later_claim_loses :
    gives (exec (.cleatClaim (.seq 22) 5) { mb with mbx := [(5, { cfg := put 12 32, owner := 10 })] }) (fun t =>
      (mbxOf t 5).owner = 10 && t.out = [.csrValue (.seq 22) 0x100080508 10]) = true := by decide

theorem test_doorbell_refused_while_done :
    gives (exec (.mbxDbAb (.seq 22) 5 3) { mb with mbx := [(5, { cfg := put 12 32, doneAB := true })] }) (fun t =>
      bitAt (mbxOf t 5).sticky 4 && !(mbxOf t 5).pendAB) = true := by decide

theorem test_push_counts :
    gives (exec (.mbxATx (.seq 9) 5 77) mb) (fun t => ctrGet t 0x9428 = 1 && (mbxOf t 5).ab = [77]) = true := by decide

/-! ## Chapter 18's record -/

/-- The record that chapter 18 encodes. -/
theorem test_record_words :
    let t : State := { rdy with rail := { tjQc := 333, railMv := 712 }, err := { base := 0x40000, written := 1233 } }
    gives (.next (residue t { cls := 1, unit := 5, op := 3, tenant := 12 } 0 0 (.first 0x32B35)).2) (fun t =>
      match t.err.queue with
      | r :: _ => (recBytes r).take 8 = wordBytes 0x04D20140 && r.where_ = 0x1005000300C00000 &&
          merge r.cond (put r.count 0) (mask 31 0) = 0x014DB20000000001 && r.syndrome = 0x32B35
      | [] => false) = true := by decide

/-! ## Chapter 14's worked page -/

/-- Page 90,001 of the worked example: slot 0 lies in module 1, die 2, block 812, at channel 3's target 1 and plane 0. -/
theorem test_worked_page :
    pageLoc (sbKey 1 2 812) 36 17 = 0xCC0CB0044 ∧ locSb 0xCC0CB0044 = sbKey 1 2 812 ∧ locMember 0xCC0CB0044 = 36 ∧
    (tagWords { seq := 90001, kind := 1, slots := [{ a := 0, lbs := 5, lau := 100, data := [] }] }).take 2
      = [0x000000015F910101, 0x0050000000640001] := by decide

/-! ## Chapter 19's lost frame -/

theorem test_lost_frame_noted (m : Nat) (h : m = Config.feedMac 0 (frameWords 2 ⟨7, false, 0, [(12, 1, 9)], m⟩)) :
    let x := arrive { openS := true, last := 5 } 2 ⟨7, false, 0, [(12, 1, 9)], m⟩
    x.kept.gaps = 1 ∧ x.kept.missing = 1 ∧ x.last = 7 ∧ tget x.kept.counters 0 (12 * 32 + 1) = 9 := by
  have hm : (m != Config.feedMac 0 (frameWords 2 ⟨7, false, 0, [(12, 1, 9)], m⟩)) = false := by simp [← h]
  simp only [arrive, hm]
  exact ⟨rfl, rfl, rfl, rfl⟩


/-! ## Descriptors and settled states -/

/-- A descriptor: header and body words. -/
def en (st : EntrySt) (l : List Word) : Entry := { words := l, tenant := 3, issuer := 0, st := st }

/-- Queue `k` with these descriptors, as a queue of a ready node. -/
def qe (k : Nat) (q : Queue) : State := { rdy with queues := [(k, q)] }

/-- One running descriptor of opcode `op` with its body, at the head of queue `k`. -/
def rb (k op : Nat) (w : Work) (body : List Word) : State :=
  qe k { entries := [en (.running w) (hd op (body.length + 1) false false 0 0 :: body)] }

def ent (op : Nat) (w : Work) (body : List Word) : Entry :=
  en (.running w) (hd op (body.length + 1) false false 0 0 :: body)

/-- It runs, whatever its body. -/
theorem rb_runs (k op : Nat) (w : Work) (body : List Word) (hk : qExists k = true)
    (h : hdrOp (hd op (body.length + 1) false false 0 0) = op) : Runs (rb k op w body) k 0 (qClass k) op (ent op w body) w := by
  refine ⟨?_, rfl, rfl, hk, h⟩
  simp [rb, qe, entryAt, queueOf, tget, ent]

theorem quiet_of (s : State) (f : s.foot = []) (c : s.chans = []) (w : s.dir.waiting = []) : Quiet s :=
  ⟨⟨f, fun ch => by simp [chanOf, c, tget]⟩, w⟩

theorem coherent_of (s : State) (h : s.caches = []) (hd : s.dir.slices = []) : Coherent s := by
  refine ⟨fun g l c e => ?_, fun g l e => ?_⟩
  · simp [cacheGet, h, tget, tfind] at e
  · simp [dirGet, hd, tget] at e

/-- A line of T0, Modified at the data cache of Sequencer 0, or shared there. -/
def held (m : Bool) (e : Nat) : State :=
  { rdy with caches := [(1, [(0x400, ⟨m, List.replicate 64 7, e⟩)])],
             dir := { slices := [(homeSlice 0x400, [(0x400, if m then .owned 1 else .shared [1])])] } }

theorem held_coherent (m : Bool) (e : Nat) : Coherent (held m e) := by
  refine ⟨fun g l c h => ?_, fun g l h => ?_⟩
  · simp only [cacheGet, held, tget] at h
    split at h
    · simp only [tfind] at h
      split at h
      · cases h; rfl
      · cases h
    · cases h
  · simp only [dirGet, held, tget] at h
    split at h
    · cases m
      · simp only [Bool.false_eq_true, if_false, List.find?] at h
        split at h <;> cases h
      · simp only [if_true, List.find?] at h
        split at h
        · rename_i hl
          cases h
          have : l = 0x400 := (by simpa using hl : 0x400 = l).symm
          subst this
          exact ⟨_, rfl, rfl⟩
        · cases h
    · cases h

/-- Nothing cached, nothing waiting: memory is settled. -/
theorem settled_of (s : State) (f : s.foot = []) (c : s.chans = []) (w : s.dir.waiting = []) (b : s.dir.bad = [])
    (k : s.caches = []) (d : s.dir.slices = []) : Settled s := by
  refine ⟨quiet_of s f c w, coherent_of s k d, b, fun g => ?_, fun g l e h => ?_, fun g l e h => ?_⟩
  · simp [k, tget]
  · simp [cacheGet, k, tget, tfind] at h
  · simp [cacheGet, k, tget, tfind] at h

/-- The one copy of `held`. -/
theorem held_get {m : Bool} {e g l : Nat} {c : CLine} (h : cacheGet (held m e) g l = some c) :
    g = 1 ∧ l = 0x400 ∧ c = ⟨m, List.replicate 64 7, e⟩ := by
  simp only [cacheGet, held, tget] at h
  split at h
  · rename_i hg
    simp only [tfind] at h
    split at h
    · rename_i hl
      cases h
      exact ⟨by simpa using hg.symm, by simpa using hl.symm, rfl⟩
    · cases h
  · cases h

theorem held_settled : Settled (held true 0) := by
  refine ⟨quiet_of _ rfl rfl rfl, held_coherent _ _, rfl, fun g => ?_, fun g l c h _ => ?_, fun g l c h => ?_⟩
  · simp only [held, tget]; split <;> decide
  · obtain ⟨rfl, rfl, -⟩ := held_get h; rfl
  · obtain ⟨rfl, rfl, rfl⟩ := held_get h
    decide


/-! ## Witnesses: a state and operands that meet the hypotheses of each statement, clause by clause -/

theorem witness_IdleTick : State.reset.pending = [] ∧ ∃ t, step State.reset = .next t := ⟨rfl, _, rfl⟩

def dirty : State := { rdy with mem := { cells := [(0, 1), (5, 2)] }, pending := [.ncWrite 0 5 [0]] }

theorem witness_MemoryStaysCanonical : MemoryWf dirty ∧ ∃ t, step dirty = .next t := ⟨rfl, _, rfl⟩

theorem aligned_of (s : State) (h : s.seqs.all (fun e => decide (e.2.pc.toNat % 4 = 0) && decide (e.2.tvec.toNat % 4 = 0) &&
    decide (e.2.tpc.toNat % 4 = 0) && decide (e.2.entry.toNat % 4 = 0) && decide (e.2.hoEntry.toNat % 4 = 0)) = true) :
    SeqsAligned s := by
  have key : ∀ (l : Tbl Seq) (k : Nat), l.all (fun e => decide (e.2.pc.toNat % 4 = 0) && decide (e.2.tvec.toNat % 4 = 0) &&
      decide (e.2.tpc.toNat % 4 = 0) && decide (e.2.entry.toNat % 4 = 0) && decide (e.2.hoEntry.toNat % 4 = 0)) = true →
      SeqAligned (tget l {} k) := by
    intro l k hl
    induction l with
    | nil => exact ⟨rfl, rfl, rfl, rfl, rfl⟩
    | cons e r ih =>
      simp only [List.all_cons, Bool.and_eq_true, decide_eq_true_eq] at hl
      obtain ⟨⟨⟨⟨⟨h1, h2⟩, h3⟩, h4⟩, h5⟩, h6⟩ := hl
      simp only [tget]
      split
      · exact ⟨h1, h2, h3, h4, h5⟩
      · exact ih h6
  intro n; exact key _ _ h

theorem witness_SequencersStayAligned :
    let s := { sq { two 1 2 with tvec := 0x400 } with pending := [.brk 0 0 0 0] }
    SeqsAligned s ∧ ∃ t, step s = .next t := ⟨aligned_of _ (by decide), _, rfl⟩

theorem witness_MailboxesStayBounded :
    let s : State := { rdy with mbx := [(3, { ab := List.replicate 16 7 })], pending := [.mbxATx (.pf .a) 3 9] }
    (∀ m, (tget s.mbx {} m).ab.length ≤ 16 ∧ (tget s.mbx {} m).ba.length ≤ 16) ∧ ∃ t, step s = .next t := by
  refine ⟨?_, _, rfl⟩
  intro m; simp only [tget]; split <;> decide

/-- ScalarResults, its division corners among them, and ScalarFrame. -/
theorem witness_ScalarResults :
    FetchesFrom (sq (two (BitVec.intMin 64) (BitVec.allOnes 64))) 0 0 ∧
    PairFetched (sq (two (BitVec.intMin 64) (BitVec.allOnes 64))) 0 0 ∧
    reg (seqOf (sq (two (BitVec.intMin 64) (BitVec.allOnes 64))) 0) 1 = BitVec.intMin 64 ∧
    reg (seqOf (sq (two (BitVec.intMin 64) (BitVec.allOnes 64))) 0) 2 = BitVec.allOnes 64 :=
  ⟨⟨rfl, rfl, rfl, rfl⟩, ⟨rfl, rfl⟩, rfl, rfl⟩

theorem witness_ScalarFrame : FetchesFrom (sq { two 3 4 with pc := 0xFFFC }) 0 0 := ⟨rfl, rfl, rfl, rfl⟩

theorem witness_BranchesAndJumps :
    let s := sq (two 0x100 0x102)
    FetchesFrom s 0 0 ∧ (reg (seqOf s 0) 1 + (4 : BitVec 14).signExtend 64).toNat % 4 = 0 ∧
    (reg (seqOf s 0) 1 + (4 : BitVec 14).signExtend 64).toNat < 2 ^ 56 ∧
    (reg (seqOf s 0) 2 + (0 : BitVec 14).signExtend 64).toNat % 4 ≠ 0 ∧
    (let u := sq { two 1 2 with pc := 0x10000 }
     (seqOf u 0).running = true ∧ (seqOf u 0).wait = .idle ∧ fetchRegion u (seqOf u 0).pc.toNat = none) ∧
    (let u := sq { two 1 2 with pc := 0xFFFC }
     FetchesFrom u 0 0 ∧ fetchRegion u ((seqOf u 0).pc + 4).toNat = none) :=
  ⟨⟨rfl, rfl, rfl, rfl⟩, by decide, by decide, by decide, ⟨rfl, rfl, rfl⟩, ⟨rfl, rfl, rfl, rfl⟩, rfl⟩

theorem witness_TrapsAndReturns :
    FetchesFrom (sq { two 1 2 with th := true }) 0 0 ∧ (seqOf (sq { two 1 2 with th := true }) 0).th = true ∧
    FetchesFrom (sq (two 1 2)) 0 0 ∧ (seqOf (sq (two 1 2)) 0).th = false ∧ (seqOf (sq (two 1 2)) 0).hoPending = false ∧
    (let q := { two 1 2 with hoPending := true, hoTmo := 1 }
     FetchesFrom (sq q) 0 0 ∧ q.hoPending = true ∧ q.th = false ∧
     (sq q).tb.time.toNat < q.hoStart.toNat + q.hoTmo.toNat * 1000000) :=
  ⟨⟨rfl, rfl, rfl, rfl⟩, rfl, ⟨rfl, rfl, rfl, rfl⟩, rfl, rfl, ⟨rfl, rfl, rfl, rfl⟩, rfl, rfl, by decide⟩

theorem witness_SpecialRegisters :
    FetchesFrom (sq (two 1 2)) 0 0 ∧ (0x0C : BitVec 14).toNat > 0x0B ∧
    (0x0B : BitVec 14).toNat ∈ [0x00, 0x01, 0x06, 0x07, 0x0A, 0x0B] := ⟨⟨rfl, rfl, rfl, rfl⟩, by decide, by decide⟩

/-- Loads and stores that complete, at the last address of T0, and ones whose line holds an uncorrectable codeword. -/
theorem witness_LoadsAndStores :
    let s := sq (two 0x23FFFFF8 0)
    let a := reg (seqOf s 0) 1 + (0 : BitVec 14).signExtend 64
    let u := addUser s 0 0
    let bad := { s with mem := { ue := [0x23FFFFF8] } }
    FetchesFrom s 0 0 ∧ PairFetched s 0 0 ∧ a.toNat % 8 = 0 ∧ inNode a.toNat = true ∧ mapped s a.toNat = true ∧
    protected_ s a.toNat = false ∧
    (seqLoad u 0 0x1600 a.toNat 8).ok = true ∧ (getM u (seqWho s 0 0x1B00) a.toNat 8).ok = true ∧
    FetchesFrom bad 0 0 ∧ (seqLoad (addUser bad 0 0) 0 0x1600 a.toNat 8).ok = false ∧
    (getM (addUser bad 0 0) (seqWho bad 0 0x1B00) a.toNat 8).ok = false :=
  ⟨⟨rfl, rfl, rfl, rfl⟩, ⟨rfl, rfl⟩, by decide, by decide, by decide, by decide, by decide, by decide, ⟨rfl, rfl, rfl, rfl⟩, by decide,
    by decide⟩

theorem witness_AccessTraps :
    let at_ (a : Word) : State := sq (two a 0)
    let addr (a : Word) : Nat := (reg (seqOf (at_ a) 0) 1 + (0 : BitVec 14).signExtend 64).toNat
    FetchesFrom (at_ 1) 0 0 ∧ addr 1 % 2 ≠ 0 ∧ addr 1 % 4 ≠ 0 ∧ addr 1 % 8 ≠ 0 ∧ addr (2 ^ 56) % 8 = 0 ∧
    addr (2 ^ 56) ≥ 2 ^ 56 ∧ addr 0x24000000 % 8 = 0 ∧ mapped (at_ 0x24000000) (addr 0x24000000) = false ∧
    addr 0xFFF8 % 8 = 0 ∧ mapped (at_ 0xFFF8) (addr 0xFFF8) = true ∧ protected_ (at_ 0xFFF8) (addr 0xFFF8) = true ∧
    mapped (at_ 0x100000000) (addr 0x100000000) = true ∧ protected_ (at_ 0x100000000) (addr 0x100000000) = false ∧
    area (addr 0x100000000) = .csr :=
  ⟨⟨rfl, rfl, rfl, rfl⟩, by decide⟩

theorem witness_Atomics :
    let s := sq (two 0x10000 1)
    let x := atomic (drain (addUser s 0 0) 0) (seqWho (addUser s 0 0) 0 0x1C11) 0x10000 .add true 1 0 .ok
    FetchesFrom s 0 0 ∧ (reg (seqOf s 0) 1).toNat % 8 = 0 ∧ inNode 0x10000 = true ∧ mapped s 0x10000 = true ∧
    protected_ s 0x10000 = false ∧ x.1 = .done 0 :=
  ⟨⟨rfl, rfl, rfl, rfl⟩, by decide, by decide, by decide, by decide, by decide⟩

theorem witness_FencesAndFlushes :
    let s := sq (two 0x10000 1)
    let held := { s with caches := [(1, [(0x400, ⟨true, List.replicate 64 7, 0⟩)])] }
    let busy := { s with queues := [(0x8000, { entries := [{ words := [], tenant := 0, issuer := 0, st := .queued }] })] }
    let waits := { busy with seqs := [(0, { running := true, wait := .fence 0x14 })] }
    FetchesFrom s 0 0 ∧ (seqOf s 0).stores = [] ∧ mapped s 0x10000 = true ∧ inNode 0x10000 = true ∧
    cacheGet s 1 0x400 = none ∧ FetchesFrom held 0 0 ∧ held.dir.waiting = [] ∧ cacheGet held 0 0x400 = none ∧
    cacheGet held 1 0x400 = some ⟨true, List.replicate 64 7, 0⟩ ∧ area 0x100000000 = .csr ∧ mapped s 0x100000000 = true ∧
    mapped s 0x24000000 = false ∧ FetchesFrom busy 0 0 ∧
    (∃ q e, (q, e) ∈ busy.queues ∧ qClass q = 8 ∧ ∃ d ∈ e.entries, d.issuer = 0 ∧ entryDone d = false) ∧
    (seqOf waits 0).wait = .fence 0x14 :=
  ⟨⟨rfl, rfl, rfl, rfl⟩, rfl, by decide, by decide, by decide, ⟨rfl, rfl, rfl, rfl⟩, rfl, by decide, by decide, by decide,
    by decide, by decide, ⟨rfl, rfl, rfl, rfl⟩, ⟨_, _, List.mem_cons_self, by decide, _, List.mem_cons_self, rfl, rfl⟩, rfl⟩

theorem witness_CountersAndWaits :
    let s := sq { two 0xFF00 1 with wdl := 5 }
    let late := { s with tb := { time := 5 } }
    let waits := { late with seqs := [(0, { running := true, wdl := 5, wait := .counter 3 0xFF00 1 true })] }
    FetchesFrom s 0 0 ∧ ctrExists 0xFF00 = true ∧ (ctrGet s 0xFF00 - 0).toNat < 2 ^ 63 ∧
    ¬(ctrGet s 0xFF00 - 1).toNat < 2 ^ 63 ∧ ¬(seqOf s 0).wdl.toNat ≤ s.tb.time.toNat ∧
    (seqOf late 0).wdl ≠ 0 ∧ (seqOf late 0).wdl.toNat ≤ late.tb.time.toNat ∧
    (reg (seqOf (sq (two 0x10000 1)) 0) 1).toNat ≥ 65536 ∧ (seqOf waits 0).wait = .counter 3 0xFF00 1 true ∧
    (seqOf waits 0).wdl.toNat ≤ waits.tb.time.toNat :=
  ⟨⟨rfl, rfl, rfl, rfl⟩, by decide, by decide, by decide, by decide, by decide, by decide, by decide, rfl, by decide⟩

/-- EISS of the descriptor at 0x10000: with a credit, with none, and its traps. -/
theorem witness_EngineIssue :
    let q := two 0x10000 0x1000
    let s := { sq q with mem := { cells := [(0x10000, 1)] } }
    let full := { s with queues := [(0x1000, { ctl := 0x100 })] }
    let h := seqLoad (addUser s 0 0) 0 0x2800 0x10000 8
    let r := loadWords h.s 0 0x2800 1 0x10000
    FetchesFrom s 0 0 ∧ qExists 0x1000 = true ∧ unitOffline s 1 0 = false ∧ inT0 0x10000 = true ∧ h.ok = true ∧
    hdrLen (bytesWord h.data) = 1 ∧ r.1 = true ∧ credits r.2.2 0x1000 > 0 ∧ (queueOf r.2.2 0x1000).stalled = [] ∧
    FetchesFrom full 0 0 ∧
    credits (loadWords (seqLoad (addUser full 0 0) 0 0x2800 0x10000 8).s 0 0x2800 1 0x10000).2.2 0x1000 = 0 ∧
    qExists 0x9000 = false ∧ unitOffline { s with units := [(unitKey 1 0, { mode := .retired })] } 1 0 = true ∧
    inT0 0x24000000 = false ∧ hdrLen (bytesWord (seqLoad (addUser s 0 0) 0 0x2800 0x10040 8).data) = 0 ∧
    (let w := { full with queues := [(0x1000, { stalled := [0] })],
                          seqs := [(0, { running := true, wait := .credit 3 0x1000 [1] })] }
     (queueOf w 0x1000).stalled = [0] ∧ (seqOf w 0).wait = .credit 3 0x1000 [1] ∧ credits w 0x1000 > 0 ∧
     credits { w with queues := [(0x1000, { ctl := 0, stalled := [0] })] } 0x1000 = 0) :=
  ⟨⟨rfl, rfl, rfl, rfl⟩, by decide, by decide, by decide, by decide, by decide, by decide, by decide, by decide,
    ⟨rfl, rfl, rfl, rfl⟩, by decide, by decide, by decide, by decide, by decide, rfl, rfl, by decide, by decide⟩

theorem witness_SeqRegisters :
    let q : Seq := { progver := 7, hoEntry := 0x100 }
    let s := { sq q with seqs := [(0, q)], sec := { regions := [(0, { valid := true, base := 0, units := 1, version := 8 })] } }
    let pend := { s with seqs := [(0, { q with hoPending := true, hoTmo := 1 })], tb := { time := 1000000 } }
    accOk s (.pf .a) = true ∧ accDrain s (.pf .a) = s ∧ accOk s (.seq 3) = true ∧ accDrain s (.seq 3) = s ∧
    (seqOf s 0).running = false ∧ (seqOf s 0).retired = false ∧ (seqOf s 0).hoPending = false ∧
    (seqOf (sq q) 0).running = true ∧ (seqOf s 0).progver.toNat < (8 : BitVec 16).toNat ∧
    fetchRegion s 0x100 = some 0 ∧ (tget s.sec.regions {} 0).version = 8 ∧ accOk pend (.pf .a) = true ∧
    (seqOf pend 0).hoPending = true ∧ (seqOf pend 0).hoTmo ≠ 0 ∧ 0 + 1 * 1000000 ≤ pend.tb.time.toNat :=
  ⟨rfl, rfl, rfl, rfl, rfl, rfl, rfl, rfl, by decide, rfl, rfl, rfl, rfl, by decide, by decide⟩

/-- Every instruction of chapter 03 has its Sequencer. -/
theorem witness_BranchesAndJumps_insn :
    insnOf (.add 0 1 2 3 .ok) = some 0 ∧ insnOf (.wrsr 63 0 1 2) = some 63 ∧ insnOf (.eiss 5 1 2 3 0) = some 5 := ⟨rfl, rfl, rfl⟩

theorem witness_TrapsAndReturns_handOver :
    let q := { two 1 2 with hoPending := true, hoTmo := 1 }
    (drain (addUser (sq q) 0 0) 0).tb.time.toNat < q.hoStart.toNat + q.hoTmo.toNat * 1000000 ∧
    (seqOf (sq { two 1 2 with th := true }) 0).th = true ∧ (seqOf (sq { two 1 2 with th := true }) 0).hoTmo = 0 := by decide

/-- Host memory through port A's segment 0, mapped: its host lost, or not. -/
def win (l : Bool) (q : Seq) : State :=
  { sq q with tiers := { windows := [(0, true)] }, host := [(0, { linkUp := !l, lost := l }), (1, { linkUp := true })] }

theorem segRead_ok (s : State) (w : Who) (p : HostPort) (a n : Nat) (f : t3Fault s p a n = none)
    (h : Config.hostLate s.choice = false) : (segRead s w p a n).ok = true := by simp [segRead, f, h]

theorem witness_LoadsAndStores_areas :
    let q := two 0x100000000000 0
    let c := sq (two 0x100010000 7)
    FetchesFrom (win false q) 0 0 ∧ FetchesFrom (win true q) 0 0 ∧ area 0x100000000000 = .t3 .a 0 ∧
    (∀ l, mapped (win l q) 0x100000000000 = true ∧ protected_ (win l q) 0x100000000000 = false ∧
      scatterRows (addUser (win l q) 0 0) 0x100000000000 8 = []) ∧
    (Config.hostLate (drain (addUser (win false q) 0 0) 0).choice = false →
      (t3Read (drain (addUser (win false q) 0 0) 0) (seqWho (addUser (win false q) 0 0) 0 0x1600) .a 0x100000000000 8).ok = true) ∧
    (t3Read (drain (addUser (win true q) 0 0) 0) (seqWho (addUser (win true q) 0 0) 0 0x1600) .a 0x100000000000 8).ok = false ∧
    (t3Write (drain (addUser (win false q) 0 0) 0) (seqWho (addUser (win false q) 0 0) 0 0x1B00) .a 0x100000000000 (leBytes 8 0)).1 = true ∧
    (t3Write (drain (addUser (win true q) 0 0) 0) (seqWho (addUser (win true q) 0 0) 0 0x1B00) .a 0x100000000000 (leBytes 8 0)).1 = false ∧
    FetchesFrom c 0 0 ∧ area 0x100010000 = .csr ∧ mapped c 0x100010000 = true ∧ protected_ c 0x100010000 = false ∧
    0x100010000 % 8 = 0 := by
  refine ⟨⟨rfl, rfl, rfl, rfl⟩, ⟨rfl, rfl, rfl, rfl⟩, rfl, by decide, fun h => ?_, by decide, by decide, by decide, ⟨rfl, rfl, rfl, rfl⟩,
    rfl, by decide, by decide, rfl⟩
  exact segRead_ok (drain (addUser (win false (two 0x100000000000 0)) 0 0) 0)
    (seqWho (addUser (win false (two 0x100000000000 0)) 0 0) 0 0x1600) .a 0x100000000000 8 rfl h

/-- Memory is settled and a byte is there to load; a store is buffered; a SCATTER of the row at 0x20000 runs. -/
theorem witness_LoadsAndStores_bytes :
    let b : State := { rdy with seqs := [(0, { two 0 0 with stores := [(0x10000, [5])] })] }
    let t : State := { sq (two 0x20000 7) with
      queues := [(0x4000, { entries := [en (.running (.plain 0)) [hd 2 8 false false 0 0, 0x40000, 0x41000, 0x50000, put 1 32,
        put 4 32, 0, 0]] })],
      mem := { cells := [(0x40000, 1), (0x40004, 2), (0x40006, 0x10), (0x4000A, 2)] } }
    Settled b ∧ (seqLoad b 0 0x1100 0x10000 1).ok = true ∧ Settled (held true 0) ∧
    (seqLoad (held true 0) 0 0x1600 0x10000 8).ok = true ∧ (seqLoad (held true 0) 1 0x1600 0x10000 8).ok = true ∧
    (pieceWrite b (seqWho b 0 0x1800) 0x10000 [5]).1 = true ∧
    (pieceWrite (held true 0) (seqWho (held true 0) 1 0x1B00) 0x1003F [5]).1 = true ∧
    (getS (addUser (sq (two 0x20000 7)) 0 0) (seqWho rdy 0 0x1B00) 0x20000 (partRead 0x20000 8)).ok = true ∧
    scatterRows (addUser (sq (two 0x20000 7)) 0 0) 0x20000 8 = [] ∧ scatterRows (addUser t 0 0) 0x20000 8 ≠ [] ∧
    (getS (tearRows (tick1 (addUser t 0 0)) 0x20000 8) (seqWho rdy 0 0x1B00) 0x20000 (partRead 0x20000 8)).ok = true := by
  refine ⟨settled_of _ rfl rfl rfl rfl rfl rfl, by decide, held_settled, by decide, by decide, by decide, by decide, by decide, by decide, by decide, by decide⟩

theorem witness_AccessTraps_atomics :
    let at_ (a : Word) : State := sq (two 0 a)
    (∀ a ∈ [(1 : Word), 2 ^ 56, 0x24000000, 0x100010000, 0xFFF8], FetchesFrom (at_ a) 0 0 ∧ PairFetched (at_ a) 0 0 ∧
      reg (seqOf (at_ a) 0) 2 = a) ∧
    (1 : Word).toNat % 8 ≠ 0 ∧ (1 : Word).toNat % 4 ≠ 0 ∧ (2 ^ 56 : Word).toNat ≥ 2 ^ 56 ∧ (2 ^ 56 : Word).toNat % 8 = 0 ∧
    mapped (at_ 0x24000000) 0x24000000 = false ∧ mapped (at_ 0x100010000) 0x100010000 = true ∧ inNode 0x100010000 = false ∧
    inNode 0xFFF8 = true ∧ mapped (at_ 0xFFF8) 0xFFF8 = true ∧ protected_ (at_ 0xFFF8) 0xFFF8 = true := by
  refine ⟨?_, by decide, by decide, by decide, by decide, by decide, by decide, by decide, by decide, by decide, by decide⟩
  intro a ha
  simp only [List.mem_cons, List.not_mem_nil, or_false] at ha
  rcases ha with rfl | rfl | rfl | rfl | rfl <;> exact ⟨⟨rfl, rfl, rfl, rfl⟩, ⟨rfl, rfl⟩, rfl⟩

theorem witness_Atomics_ends :
    let s := sq (two 0x10000 1)
    let u (x : State) : State := drain (addUser x 0 0) 0
    let bad := { s with mem := { ue := [0x10000] } }
    let done (x : AtomEnd × State) (v : Word) : Prop := x.1 = .done v
    FetchesFrom bad 0 0 ∧ (atomic (u bad) (seqWho (addUser bad 0 0) 0 0x1C11) 0x10000 .add true 1 0 .ok).1 = .memerr ∧
    (atomic (u s) (seqWho (addUser s 0 0) 0 0x1C11) 0x10000 .add true 1 0 (.second 1 2)).1 = .arith ∧
    Settled rdy ∧ Settled (held true 0) ∧ done (atomic rdy (seqWho rdy 0 0) 0x10000 .add true 1 0 .ok) 0 ∧
    done (atomic (held true 0) (seqWho (held true 0) 1 0) 0x1003C .cas false 1 7 .ok) 0x07070707 ∧
    leNat (seenGet (held true 0) 0x1003C 4) = 0x07070707 := by
  refine ⟨⟨rfl, rfl, rfl, rfl⟩, by decide, by decide, settled_of _ rfl rfl rfl rfl rfl rfl, held_settled, by decide, by decide, by decide⟩

/-- A line of which Sequencer 0 holds a Modified copy, and one of which it and Sequencer 1 hold clean copies. -/
theorem witness_FencesAndFlushes_lines :
    let m : State := { sq (two 0x10000 1) with caches := (held true 0).caches, dir := (held true 0).dir }
    let cl (g : Nat) : Nat × List (Nat × CLine) := (g, [(0x400, ⟨false, List.replicate 64 0, 0⟩)])
    let c : State := { sq (two 0x10000 1) with caches := [cl 0, cl 1, cl 3],
                                               dir := { slices := [(homeSlice 0x400, [(0x400, .shared [0, 1, 3])])] } }
    FetchesFrom m 0 0 ∧ Quiet m ∧ badUnits m 1 0x400 = [] ∧ cacheGet m 0 0x400 = none ∧
    cacheGet m 1 0x400 = some ⟨true, List.replicate 64 7, 0⟩ ∧ FetchesFrom c 0 0 ∧ (seqOf c 0).stores = [] ∧
    dirGet c 0x400 = some (.shared [0, 1, 3]) ∧ (∀ g d, cacheGet c g 0x400 = some d → d.modified = false) ∧
    mapped (win false (two 0x100000000000 0)) 0x100000000000 = true ∧ area 0x100000000000 = .t3 .a 0 := by
  refine ⟨⟨rfl, rfl, rfl, rfl⟩, quiet_of _ rfl rfl rfl, rfl, rfl, rfl, ⟨rfl, rfl, rfl, rfl⟩, rfl, by decide, ?_, by decide, by decide⟩
  intro g d h
  simp only [cacheGet, tget] at h
  split at h
  · cases h; rfl
  · split at h
    · cases h; rfl
    · split at h
      · cases h; rfl
      · cases h

theorem witness_CountersAndWaits_ids :
    let s (c : Word) := sq (two c 1)
    FetchesFrom (s 0x9000) 0 0 ∧ ctrExists 0x9000 = false ∧ (reg (seqOf (s 0x9000) 0) 1).toNat < 0xFF00 ∧
    FetchesFrom (s 0xFFFF) 0 0 ∧ 0xFF00 ≤ (reg (seqOf (s 0xFFFF) 0) 1).toNat ∧ (reg (seqOf (s 0xFFFF) 0) 1).toNat ≤ 0xFFFF ∧
    FetchesFrom (s 0x10000) 0 0 ∧ 0xFFFF < (reg (seqOf (s 0x10000) 0) 1).toNat :=
  ⟨⟨rfl, rfl, rfl, rfl⟩, by decide, by decide, ⟨rfl, rfl, rfl, rfl⟩, by decide, by decide, ⟨rfl, rfl, rfl, rfl⟩, by decide⟩

/-- A TRY behind a stalled request: with a credit for both, and with none. -/
theorem witness_EngineIssue_stalled :
    let q := two 0x10000 0x1000
    let s (k : Word) : State := { sq q with
      seqs := [(0, { q with running := true }), (1, { running := true, wait := .credit 3 0x1000 [1] })],
      queues := [(0x1000, { ctl := k, stalled := [1] })], mem := { cells := [(0x10000, 1)] } }
    let w (k : Word) : State := (loadWords (seqLoad (addUser (s k) 0 0) 0 0x2801 0x10000 8).s 0 0x2801 1 0x10000).2.2
    let tail := sq (two (BitVec.ofNat 64 (t0Size - 8)) 0x1000)
    (∀ d ∈ [(0x101 : Word), 0x100], FetchesFrom (s d) 0 0 ∧ (queueOf (w d) 0x1000).stalled = [1] ∧ (queueOf (w d) 0x1000).stalled.Nodup ∧
      (∀ m ∈ (queueOf (w d) 0x1000).stalled, m < 64 ∧ (seqOf (w d) (Fin.ofNat 64 m)).wait = .credit 3 0x1000 [1])) ∧
    credits (w 0x101) 0x1000 > (queueOf (w 0x101) 0x1000).stalled.length ∧
    credits (w 0x100) 0x1000 ≤ (queueOf (w 0x100) 0x1000).stalled.length ∧
    FetchesFrom tail 0 0 ∧ inT0 (t0Size - 8) = true ∧ (t0Size - 8) % 8 = 0 ∧ inT0 (t0Size - 8 + 8 * 2 - 1) = false := by
  refine ⟨?_, by decide, by decide, ⟨rfl, rfl, rfl, rfl⟩, by decide, by decide, by decide⟩
  intro d hd
  simp only [List.mem_cons, List.not_mem_nil, or_false] at hd
  rcases hd with rfl | rfl <;> exact ⟨⟨rfl, rfl, rfl, rfl⟩, by decide, by decide, by decide⟩

theorem witness_SeqRegisters_fence :
    let w : State := sq { two 1 2 with wait := .fence 0x10, stopping := true }
    accOk w (.pf .a) = true ∧ accDrain w (.pf .a) = w ∧ (2 : Word).getLsbD 1 = true ∧ (seqOf w 0).running = true ∧
    (seqOf w 0).wait = .fence 0x10 ∧ (seqOf w 0).stopping = true ∧ fenceReady w 0 0x10 = true ∧
    (3 : Word).getLsbD 0 = true ∧ (∀ m, (seqOf (sq (two 1 2)) 0).wait ≠ .fence m) :=
  ⟨rfl, rfl, rfl, rfl, rfl, rfl, by decide, rfl, fun m h => by cases h⟩


/-! ## Witnesses: queues and engines -/

/-- A MOVEL that passes every check of the head, and its faulty neighbours. -/
theorem witness_HeadChecks :
    let ok (w : Word) : Prop :=
      let s := qe 0x6000 { entries := [en .queued (w :: List.replicate 5 0)] }
      qExists 0x6000 = true ∧ bitAt (queueOf s 0x6000).ctl 0 = true ∧ (queueOf s 0x6000).halted = false ∧
      (queueOf s 0x6000).checked = false ∧ headEntry (queueOf s 0x6000) = some (en .queued (w :: List.replicate 5 0)) ∧
      (queueOf s 0x6000).entries.length < 2 ^ 64 ∧ unitOffline s 6 0 = false
    let good := hd 2 6 false false 0 0
    (∀ w ∈ [good, hd 3 6 false false 0 0, hd 2 7 false false 0 0, good ||| put 1 5, hd 2 6 false false 1 0,
      hd 2 6 false false 0 1, hd 2 7 true false 0x8FFF 0, hd 2 7 true false 0x9000 0, hd 2 7 true false 0xFEFF 0,
      hd 2 7 true false 0xFF00 0, hd 2 6 false true 0 0xFEFF, hd 2 6 false true 0 0xFF00, hd 2 6 false true 0 0xFFFF], ok w) ∧
    shapeOf 6 3 = none ∧ (shapeOf 6 2).isSome = true ∧ qExists 0x8FFF = false ∧ qExists 0x8000 = true := by
  refine ⟨?_, by decide, by decide, by decide, by decide⟩
  intro w hw
  simp only [List.mem_cons, List.not_mem_nil, or_false] at hw
  rcases hw with rfl | rfl | rfl | rfl | rfl | rfl | rfl | rfl | rfl | rfl | rfl | rfl | rfl <;>
    exact ⟨rfl, rfl, rfl, rfl, rfl, by decide, rfl⟩

theorem witness_QueueLife :
    let w := hd 2 7 true false 0xFF00 0
    let e := en .queued [w, 5]
    let s := qe 0x6000 { entries := [e], checked := true, ctl := 0x101 ||| put 1 32 }
    let late := { s with tb := { time := 1000 } }
    let met := { s with ctrs := [(0xFF00, 5)] }
    let f := qe 0x6000 { entries := [en (.finished 0x20) [0], en (.retired 0) [0], en .queued [0]] }
    let x := qe 0x6000 { entries := [en (.running (.plain 0)) [0], en .queued [0]] }
    headEntry (queueOf s 0x6000) = some e ∧ hdrWT (hdr e) = true ∧ (queueOf s 0x6000).checked = true ∧
    ¬(ctrGet s (hdrWaitCtr (hdr e)) - targetWord e).toNat < 2 ^ 63 ∧ (ctrGet met (hdrWaitCtr (hdr e)) - targetWord e).toNat < 2 ^ 63 ∧
    fld (queueOf s 0x6000).ctl 47 32 ≠ 0 ∧ 0 + 1 * 1000 ≤ late.tb.time.toNat ∧
    fld (queueOf (qe 0x6000 { entries := [e], checked := true }) 0x6000).ctl 47 32 = 0 ∧
    entryAt f 0x6000 0 = some (en (.finished 0x20) [0]) ∧ f.foot = [] ∧ qClass 0x6000 ≠ 8 ∧
    accOk x (.pf .a) = true ∧ (queueOf x 0x6000).entries.head? = some (en (.running (.plain 0)) [0]) ∧
    entryDone (en (.running (.plain 0)) [0]) = false ∧ (0xA : Word).getLsbD 1 = true ∧ (8 : Word).getLsbD 3 = true ∧
    (8 : Word).getLsbD 1 = false :=
  ⟨rfl, rfl, rfl, by decide, by decide, by decide, by decide, by decide, rfl, rfl, by decide, rfl, rfl, rfl, rfl, rfl, rfl⟩

/-- A SYNC that passes and one with a space named, each at the head of queue 0 of FLE 0. -/
theorem witness_Dispatch :
    let good := en .queued [hd 5 2 false false 0 0, 0]
    let bad := en .queued [hd 5 2 false false 0 0, put 1 52]
    let s (e : Entry) := qe 0x7000 { entries := [e], checked := true }
    serving (s good) 7 0 = some false ∧ slotsTaken (s good) 7 0 false < slotLimit (s good) 7 0 ∧
    pickQueue (s good) 7 0 = some 0x7000 ∧ headEntry (queueOf (s good) 0x7000) = some good ∧
    firstFail (bodyChecks (s good) 7 0 5 good) = none ∧ pickQueue (s bad) 7 0 = some 0x7000 ∧
    firstFail (bodyChecks (s bad) 7 0 5 bad) = some 4 ∧ pickQueue rdy 7 0 = none ∧ serving rdy 7 0 = some false ∧
    slotsTaken (qe 0x2000 { entries := [en (.running (.plain 0)) [0]] }) 2 0 false = 1 ∧
    slotLimit { rdy with gwe := [(0, { limit := 1 })] } 2 0 = 1 :=
  ⟨rfl, by decide, by decide, rfl, by decide, by decide, by decide, by decide, rfl, by decide, by decide⟩

theorem witness_UnitLoss :
      (unitOf { rdy with units := [(unitKey 7 3, { mode := .retired })] } 7 3).mode = .retired ∧ 3 < unitCount 7 ∧
    (unitOf rdy 7 3).mode ≠ .retired ∧ (unitOf rdy 7 3).spare = .none ∧ freeSpare rdy 7 = none ∧
    freeSpare rdy 1 = some 0 ∧ (unitOf rdy 1 31).spare = .none ∧ 31 < unitCount 1 ∧ (∀ q, (queueOf rdy q).entries.length < 2 ^ 64) :=
  ⟨rfl, by decide, by decide, rfl, by decide, by decide, rfl, by decide, fun _ => by show (0 : Nat) < 2 ^ 64; decide⟩

/-- Every engine opcode runs from a state of this kind. -/
def runs (k op : Nat) (w : Work) : State := qe k { entries := [en (.running w) (hd op 10 false false 0 0 :: List.replicate 9 0)] }

theorem witness_EngineWork :
    (∀ p ∈ [(0x0000, 1), (0x0000, 2), (0x0000, 3), (0x1000, 1), (0x1000, 2), (0x3000, 1), (0x4000, 1), (0x4000, 2), (0x5000, 1),
      (0x5000, 2), (0x5000, 3), (0x5000, 4), (0x6000, 1), (0x6000, 2), (0x8000, 1), (0x8000, 2), (0x8000, 3), (0x8000, 4)],
      Runs (runs p.1 p.2 (.plain 0)) p.1 0 (p.1 / 4096) p.2 (en (.running (.plain 0)) (hd p.2 10 false false 0 0 :: List.replicate 9 0))
        (.plain 0)) ∧
    nbuReady { runs 0x8000 2 (.plain 0) with chans := [(0, { mode := .proc })] } (qUnit 0x8000) = true := by
  refine ⟨?_, by decide⟩
  intro p hp
  simp only [List.mem_cons, List.not_mem_nil, or_false] at hp
  rcases hp with rfl | rfl | rfl | rfl | rfl | rfl | rfl | rfl | rfl | rfl | rfl | rfl | rfl | rfl | rfl | rfl | rfl | rfl <;>
    exact ⟨rfl, rfl, by decide, by decide, by decide⟩

/-- A CONVERT of one row of one FP32 element. -/
theorem witness_EngineResidue :
    let e := en (.running (.plain 0)) [hd 1 9 false false 0 0, put 1 32 ||| put 1 0, 0x40000, 0x50000, 0, 0, put 64 32 ||| put 64 0, 0, 0]
    let s := qe 0x5000 { entries := [e] }
    Runs s 0x5000 0 5 1 e (.plain 0) ∧ (qteD e).rows ≠ 0 ∧ (qteD e).sblk = 0 ∧
    (nodeRead s (descWho 0x5000 e) (qteD e).src ((qteD e).rows * rowBytes (qteD e).srcF (qteD e).cols)).ok = true ∧
    logOn (nodeRead s (descWho 0x5000 e) (qteD e).src ((qteD e).rows * rowBytes (qteD e).srcF (qteD e).cols)).s = false :=
  ⟨⟨rfl, rfl, by decide, by decide, by decide⟩, by decide, by decide, by decide, by decide⟩

/-- A body of each opcode of the engines that passes every check of its dispatch. -/
def passing : List (Nat × Nat × List Word) :=
  [(0x0000, 1, [put 1 32 ||| put 1 8, put 1 40 ||| put 1 36 ||| put 1 32, 0x40000, 0x40040, 0x40080, 0, 0, 0, 0,
     put 64 32 ||| put 64 0, put 64 32, 0, 0]),
   (0x0000, 2, [put 1 32 ||| put 1 8, put 1 40 ||| put 1 36 ||| put 3 32 ||| put 3 20 ||| put 1 18, 0x40000, 0x40040, 0x40080, 0, 0x400C0, 0, 0,
     put 64 32 ||| put 64 0, put 64 32, put 64 32, 0]),
   (0x0000, 3, [put 1 32 ||| put 1 0, put 1 56 ||| put 1 48 ||| put 1 36 ||| put 1 32 ||| put 1 28, put 0x3F800000 0, 0x40000, 0x40400,
     0x40800, 0x40C00, 0, put 1024 32 ||| put 1024 0, put 1024 32]),
   (0x1000, 1, List.replicate 9 0), (0x1000, 2, List.replicate 4 0),
   (0x3000, 1, [0x40000, 0x40040, 0, put 1 32 ||| put 1 24, 64, 0, 1]),
   (0x4000, 1, [BitVec.ofNat 64 t1Base, 0x40000, 0, 0x40040, put 1 32, put 64 32, put 1 40 ||| put 64 0, 0, 0]),
   (0x4000, 2, [BitVec.ofNat 64 t1Base, 0x40000, 0x40040, put 1 32, put 64 32, put 1 40 ||| put 64 0, 0]),
   (0x5000, 1, [put 1 32 ||| put 1 0, 0x40000, 0x40040, 0, 0, put 64 32 ||| put 64 0, 0, 0]),
   (0x5000, 2, [put 1 32 ||| put 1 0, 0x40000, put 3 60 ||| 0x40040, put 1 62 ||| put 1 61 ||| 0x40080, 0, put 64 32 ||| put 64 0,
     put 64 32, 0]),
   (0x5000, 3, [put 1 32 ||| put 64 0, 0x40000, 0x40100, 0, put 6 60 ||| 0x40200, put 256 32 ||| put 256 0, put 64 0, 0]),
   (0x5000, 4, [put 1 32 ||| put 1 0, 0x40000, 0x40040, 0, 0x40080, put 64 32 ||| put 64 0, put 64 0, 0]),
   (0x6000, 1, [0x40000, 0x50000, 64, 0, 0, 0, 0, 0]), (0x6000, 2, List.replicate 5 0),
   (0x8000, 1, [0x40000, 64, 0]),
   (0x8000, 2, [put 0 32 ||| put 64 0, 0, 0, put 1 48 ||| put 1 32 ||| put 1 16, put 1 60 ||| put 1 56]),
   (0x8000, 3, [put 1 0, put 0x100000 32 ||| put 1024 0, put 1 48 ||| put 1 40 ||| put 1 32 ||| put 1 20, put 0x3F800000 32]),
   (0x8000, 4, [0, put 64 0, 0, put 1 56 ||| put 1 48 ||| put 16 39, 0])]


theorem witness_EngineOutputs :
    (∀ p ∈ passing, Runs (rb p.1 p.2.1 (.plain 0) p.2.2) p.1 0 (qClass p.1) p.2.1 (ent p.2.1 (.plain 0) p.2.2) (.plain 0) ∧
      Settled (rb p.1 p.2.1 (.plain 0) p.2.2) ∧ logOn (rb p.1 p.2.1 (.plain 0) p.2.2) = false) ∧
    (passing.all (fun p => decide (firstFail (bodyChecks (rb p.1 p.2.1 (.plain 0) p.2.2) (qClass p.1) 0 p.2.1
      (ent p.2.1 (.plain 0) p.2.2)) = none))) = true ∧
    inNode (gatherD (ent 1 (.plain 0) [BitVec.ofNat 64 t1Base, 0x40000, 0, 0x40040, put 1 32, put 64 32, put 1 40 ||| put 64 0, 0, 0])).idx
      = true ∧ rdy.gte.torn = [] ∧ rdy.foot = [] ∧
    (qteD (ent 1 (.plain 0) [put 1 32 ||| put 1 0, 0x40000, 0x40040, 0, 0, put 64 32 ||| put 64 0, 0, 0])).rows ≠ 0 := by
  refine ⟨?_, by decide, by decide, rfl, rfl, by decide⟩
  intro p hp
  have hq : qExists p.1 = true ∧ hdrOp (hd p.2.1 (p.2.2.length + 1) false false 0 0) = p.2.1 := by
    revert p; decide
  exact ⟨rb_runs _ _ _ _ hq.1 hq.2, settled_of _ rfl rfl rfl rfl rfl rfl, rfl⟩

/-- A descriptor with nothing to do, of each opcode whose count may be 0. -/
theorem witness_EngineWork_empty :
    let e (op n : Nat) := ent op (.plain 0) (List.replicate n 0)
    (∀ p ∈ [(0x0000, 1, 13), (0x0000, 2, 13), (0x0000, 3, 10), (0x1000, 1, 9), (0x4000, 1, 9), (0x4000, 2, 7), (0x5000, 1, 8),
      (0x5000, 2, 8), (0x5000, 3, 8), (0x5000, 4, 8), (0x6000, 1, 8), (0x6000, 2, 5), (0x8000, 1, 3), (0x8000, 4, 5)],
      Runs (rb p.1 p.2.1 (.plain 0) (List.replicate p.2.2 0)) p.1 0 (qClass p.1) p.2.1 (e p.2.1 p.2.2) (.plain 0)) ∧
    (matD (e 1 13)).m = 0 ∧ (attD (e 3 10)).sq = 0 ∧ (distD (e 1 9)).count = 0 ∧ (gatherD (e 1 9)).nidx = 0 ∧
    (scatterD (e 2 7)).nidx = 0 ∧ (qteD (e 1 8)).rows = 0 ∧ (∀ x ∈ (moveD (e 1 8)).exts, x.size = 0) ∧
    (moveD (e 2 5)).next = 0 ∧ fld (bodyWord (e 1 3) 1) 39 0 = 0 ∧ (scanD (e 4 5)).rows = 0 := by
  refine ⟨?_, by decide, by decide, by decide, by decide, by decide, by decide, by decide, by decide, by decide, by decide⟩
  intro p hp
  have hq : qExists p.1 = true ∧ hdrOp (hd p.2.1 ((List.replicate p.2.2 (0 : Word)).length + 1) false false 0 0) = p.2.1 := by
    revert p; decide
  exact rb_runs _ _ _ _ hq.1 hq.2

/-- The round-robin: queue 0 in turn within its weight, and used up with queue 1 ready. -/
theorem witness_Dispatch_roundRobin :
    let e := en .queued [hd 5 2 false false 0 0, 0]
    let s (served : Nat) : State := { rdy with
      queues := [(0x7000, { entries := [e], checked := true }), (0x7001, { entries := [e], checked := true })],
      units := [(unitKey 7 0, { served := served })] }
    7 ≤ 8 ∧ 0 < unitCount 7 ∧ headReady (s 0) 0x7000 = true ∧ (unitOf (s 0) 7 0).served < max 1 (fld (queueOf (s 0) 0x7000).ctl 11 8) ∧
    ¬((unitOf (s 16) 7 0).served < max 1 (fld (queueOf (s 16) 0x7000).ctl 11 8)) ∧ pickQueue (s 16) 7 0 = some 0x7001 := by
  decide

theorem witness_UnitLoss_spares :
    let x := en (.running (.plain 0)) [hd 1 10 false false 0 0]
    let s (u : UnitSt) : State := { rdy with units := [(unitKey 1 3, u)], queues := [(mkQ 1 3 0, { entries := [x] })] }
    let sp : State := { s { mode := .quiescing, spare := .standIn 1 } with
      queues := [(mkQ 1 3 0, { entries := [{ x with onSpare := true }] })] }
    (unitOf (s { mode := .quiescing, spare := .standIn 1 }) 1 3).mode ≠ .retired ∧
    (unitOf (s { mode := .quiescing, spare := .standIn 1 }) 1 3).spare = .standIn 1 ∧ freeSpare (s {}) 1 = some 0 ∧
    QueuesBounded (s {}) ∧ QueuesBounded sp ∧ 1 < spareCount 1 ∧ spareLost sp 1 1 = false ∧ spareOf sp 1 1 = some 3 ∧
    (unitOf sp 1 3).mode ≠ .retired ∧ mkQ 1 3 0 ∈ unitQueues 1 3 ∧
    (∃ e ∈ (queueOf sp (mkQ 1 3 0)).entries, e.onSpare = true ∧ ∃ w, e.st = .running w) := by
  have bound : ∀ (k : Nat) (l : Queue) (u : Tbl UnitSt), l.entries.length < 2 ^ 64 →
      QueuesBounded { rdy with units := u, queues := [(k, l)] } := by
    intro k l u h n
    show (tget [(k, l)] {} n).entries.length < 2 ^ 64
    simp only [tget]
    split
    · exact h
    · decide
  exact ⟨by decide, rfl, by decide, bound _ _ _ (by decide), bound _ _ _ (by decide), by decide, by decide, by decide, by decide,
    by decide, _, List.mem_cons_self, rfl, _, rfl⟩


/-! ## Witnesses: moves, walks, reranks, commits, tiers and channels -/

theorem witness_Moves :
    let b : List Word := [0x40000, 0x50000, 8, 0, 0, 0, 0, 0]
    let x : Extent := ⟨0x40000, 0x50000, 8⟩
    let s := rb 0x6000 1 (.plain 0) b
    let e := ent 1 (.plain 0) b
    let r := anyRead (tick1 (spoilWeights s [x])) (descWho 0x6000 e) x.src x.size
    let y := anyWrite (workTally r.s 6 (descWho 0x6000 e).tenant (x.size / 64)) (descWho 0x6000 e) x.dst r.data
    let b3 : List Word := [0x40000, BitVec.ofNat 64 t3BaseA, 8, 0, 0, 0, 0, 0]
    let e3 := ent 1 (.plain 0) b3
    let r3 := anyRead (tick1 (spoilWeights (rb 0x6000 1 (.plain 0) b3) [⟨0x40000, t3BaseA, 8⟩])) (descWho 0x6000 e3) 0x40000 8
    let z := anyWrite (workTally r3.s 6 (descWho 0x6000 e3).tenant 0) (descWho 0x6000 e3) t3BaseA r3.data
    let late (o : Nat) : Entry := ent 1 (.plain 0) [0x40000, 0x50000, 0x80, 0, 0, 0, 1, put o 62]
    Runs s 0x6000 0 6 1 e (.plain 0) ∧ (moveD e).exts.filter (fun x => x.size != 0) = [x] ∧ x.src ≠ x.dst ∧
    (moveD e).deadline = 0 ∧ (moveD e).stat = 0 ∧ waitsMode (tick1 (spoilWeights s [x])) x.src x.size = false ∧
    waitsMode (tick1 (spoilWeights s [x])) x.dst x.size = false ∧ r.ok = true ∧ y.1 = true ∧
    (moveD e3).exts.filter (fun x => x.size != 0) = [⟨0x40000, t3BaseA, 8⟩] ∧ r3.ok = true ∧ z.1 = false ∧ moveEmpty 1 (moveD e) = false ∧
    (∀ o ∈ [0, 1], (moveD (late o)).deadline = 1 ∧ (moveD (late o)).onlate = o ∧ moveEmpty 1 (moveD (late o)) = false ∧
      ((moveD (late o)).exts.filter (fun x => x.size != 0)).length = 1) :=
  ⟨rb_runs _ _ _ _ rfl rfl, rfl, by decide, by decide, by decide, by decide, by decide, by decide, by decide, rfl, by decide,
    by decide, by decide, by decide⟩

/-- A walk's descriptor: beam 4, nout 2, deadline 7. -/
def walkB : List Word := [put 1 30, 0, 0x40000, 0x50000, 0x60000, 0, 0, put 4 53 ||| put 2 42 ||| put 1 36 ||| put 8 32, 7]

def walk0 : WalkCtx := {}

theorem witness_WalkSteps :
    let s : State := { rb 0x2000 1 (.walk walk0) walkB with tb := { time := 7 } }
    let e := ent 1 (.walk walk0) walkB
    Runs (rb 0x2000 1 (.plain 0) walkB) 0x2000 0 2 1 (ent 1 (.plain 0) walkB) (.plain 0) ∧ Runs s 0x2000 0 2 1 e (.walk walk0) ∧
    walk0.beam.length ≤ (walkD e).beam ∧ walk0.results.length ≤ (walkD e).nout ∧ (walkD e).deadline = 7 ∧
    (walkD e).deadline ≤ s.tb.time.toNat :=
  ⟨rb_runs _ _ _ _ rfl rfl, rb_runs _ _ _ _ rfl rfl, by decide, by decide, by decide, by decide⟩

/-- A rerank's descriptor: one entry, deadline 7. -/
def rrB : List Word := [put 1 30, 0x40000, 0x50000, 0x60000, 0, 0, put 1 53, 7]

def rr0 (st : RerankSt) : RerankCtx := { entries := [⟨0, 0, 0, 0, st⟩] }

theorem witness_RerankEntries :
    let s (st : RerankSt) : State := rb 0x1000 3 (.rerank (rr0 st)) rrB
    let e (st : RerankSt) := ent 3 (.rerank (rr0 st)) rrB
    let due (st : RerankSt) : State := { s st with tb := { time := 7 } }
    QueuesBounded (s .outstanding) ∧ QueuesBounded (due .outstanding) ∧
    Runs (rb 0x1000 3 (.plain 0) rrB) 0x1000 0 1 3 (ent 3 (.plain 0) rrB) (.plain 0) ∧
    Runs (s .outstanding) 0x1000 0 1 3 (e .outstanding) (.rerank (rr0 .outstanding)) ∧
    (rr0 .outstanding).entries[0]? = some ⟨0, 0, 0, 0, .outstanding⟩ ∧ isAbandoned (s .outstanding) 0x1000 0 0 = false ∧
    (rrD (e .outstanding)).deadline = 7 ∧ 7 ≤ (due .outstanding).tb.time.toNat ∧ allResolved (rr0 .outstanding) = false ∧
    Runs (s .resolved) 0x1000 0 1 3 (e .resolved) (.rerank (rr0 .resolved)) ∧ allResolved (rr0 .resolved) = true ∧
    isAbandoned { rdy with dse := [(0, { abandoned := [(0x1000, 0, 0)] })] } 0x1000 0 0 = true := by
  have bound : ∀ (k : Nat) (q : Queue) (t : Timebase), q.entries.length < 2 ^ 64 →
      QueuesBounded { qe k q with tb := t } := by
    intro k q t h n
    show (tget [(k, q)] {} n).entries.length < 2 ^ 64
    simp only [tget]
    split
    · exact h
    · decide
  exact ⟨bound _ _ _ (by decide), bound _ _ _ (by decide), rb_runs _ _ _ _ rfl rfl, rb_runs _ _ _ _ rfl rfl, rfl, rfl, by decide,
    by decide, rfl, rb_runs _ _ _ _ rfl rfl, rfl, rfl⟩

/-- A rerank of vectors of 16 FP16 elements, the record of slot 0 in an engine's space 0. -/
theorem witness_RerankReadData :
    let c : RerankCtx := { rr0 .outstanding with dparam := wordBytes (put 16 20) ++ List.replicate 24 0 ++ wordBytes (put 1 60) }
    let s : State := { rb 0x1000 3 (.rerank c) rrB with fle := [(0, { mounted := true, spaces := [(0, 1)] })] }
    let e := ent 3 (.rerank c) rrB
    let p := dparamOf c.dparam
    Runs s 0x1000 0 1 3 e (.rerank c) ∧ c.entries[0]? = some ⟨0, 0, 0, 0, .outstanding⟩ ∧
    isAbandoned s 0x1000 0 0 = false ∧ s.tb.time.toNat < (rrD e).deadline ∧ recSize p = 1024 ∧
    recordPlace p (vidSlot 0) = (0, 0) ∧ unitOffline s 7 0 = false ∧ (fleData (fleOf s 0) p.lbs 0 (recSize p)).isSome = true :=
  ⟨rb_runs _ _ _ _ rfl rfl, rfl, rfl, by decide, by decide, by decide, by decide, by decide⟩

theorem witness_CommitUnit :
    let last : State := { rdy with ctrs := [(0x9010, BitVec.ofNat 64 (2 ^ 48 - 3))] }
    let on : State := { rdy with cu := { ctl := 1, tail := 1 }, mem := { cells := [(4, 1)] } }
    (ctrGet last 0x9010).toNat = 2 ^ 48 - 3 ∧ accOk rdy (.pf .a) = true ∧ ((2 : BitVec 16) - rdy.cu.head).toNat > 2 ^ (rdy.cu.ctl.extractLsb' 60 4).toNat ∧
    ((1 : BitVec 16) - rdy.cu.head).toNat ≤ 2 ^ (rdy.cu.ctl.extractLsb' 60 4).toNat ∧
    (ctrGet rdy 0x9010).toNat < (1 : BitVec 48).toNat ∧ rdy.cu.horizon.toNat ≤ (0 : BitVec 48).toNat ∧
    (0 : BitVec 48).toNat ≤ (ctrGet rdy 0x9010).toNat ∧ rdy.cu.ctl.getLsbD 0 = false ∧ rdy.cu.tail = rdy.cu.head ∧
    accOk on (.pf .a) = true ∧ on.cu.ctl.getLsbD 0 = true ∧ on.cu.tail ≠ on.cu.head ∧
    ((0x40 : Word) &&& 0xF0FFFFFFFFFFFFC0) ≠ (on.cu.ctl &&& 0xFFFFFFFFFFFFFFFE) ∧
    (batchRecs 64 (on.cu.tail - on.cu.head).toNat on on.cu.head.toNat).isSome = true :=
  ⟨by decide, rfl, by decide, by decide, by decide, by decide, by decide, by decide, rfl, rfl, by decide, by decide, by decide, by decide⟩

theorem witness_TierEvents :
    let lost : State := { rdy with host := [(0, { lost := true })] }
    let b (d : Word) : List Word := [0x40000, 0x50000, 0x60000, 0x70000, 0, 0, 0, d, 0]
    let s (d : Word) := rb 0x4000 1 (.plain 0) (b d)
    hostLost lost .a = true ∧ hostLost rdy .a = false ∧ QueuesBounded rdy ∧
    Runs (s 7) 0x4000 0 4 1 (ent 1 (.plain 0) (b 7)) (.plain 0) ∧ (gatherD (ent 1 (.plain 0) (b 7))).deadline = 7 ∧
    (7 ≤ ({ s 7 with tb := { time := 7 } } : State).tb.time.toNat) ∧ (s 7).tb.time.toNat < 7 ∧
    ({ rdy with gte := { ctl := 1 }, tb := { time := 1000 } } : State).gte.ctl.getLsbD 0 = true ∧
    max 1 ((1 : Word).extractLsb' 32 16).toNat * 1000 ≤ 1000 :=
  ⟨rfl, rfl, fun _ => by show (0 : Nat) < 2 ^ 64; decide, rb_runs _ _ _ _ rfl rfl, by decide, by decide, by decide, by decide,
    by decide⟩

theorem witness_Channels :
    let c (x : Chan) : State := { rdy with chans := [(0, x)], tb := { time := 5000 } }
    let w (x : Chan) : State := { c x with queues := [(0x8000, { entries := [en (.running (.plain 0)) [hd 2 2 false false 0 0, 0]] })] }
    let r : ChanReq := { agent := 1, addr := t2Base, size := 8, data := none }
    chanReqOk 0 r = true ∧ mapped (c {}) r.addr = true ∧ (chanOf (c {}) 0).queue.length < chanDepth (c {}) ∧
    (chanOf (c {}) 0).mode = .mem ∧ nbuWaiting (w { mode := .proc }) 0 = true ∧ nbuWaiting (c { mode := .proc }) 0 = false ∧
    chanPinned (w { windowStart := some 0, nbuWait := some 0 }) 0 = false ∧
    max 0 0 + max 1 (Chan.winSlice {}) * 1000 ≤ (c {}).tb.time.toNat ∧
    (c { mode := .proc, bcast := some 0 }).tb.time.toNat < 0 + 19500 ∧ accOk (c {}) (.pf .a) = true ∧
    (queueOf (c {}) 0x8000).entries = [] ∧ (queueOf (w {}) 0x8000).entries ≠ [] :=
  ⟨by decide, by decide, by decide, rfl, by decide, by decide, by decide, by decide, by decide, rfl, rfl, by decide⟩

/-- The cells of some words. -/
def wcells (l : List (Nat × Word)) : List Host.Cell :=
  l.flatMap (fun e => (List.range 8).filterMap (fun j =>
    let b := (wordBytes e.2).getD j 0
    if b = 0 then none else some (e.1 + j, b)))

/-- Context 0 of the commit unit: its version slot, root, parameter block, head record with `n` entries of 4, recent-change
table, the state byte of slot 1, the Sprue entry at 0 for slot 1, and a record in the ring at `r`. -/
def cuS (n : Nat) (st : Byte) (r : List Word) : State :=
  let t := t1Base
  { rdy with
    cu := { ctl := put (t / 64 + 0x100) 6 ||| 1, tail := 1, vslot := [(0, BitVec.ofNat 64 t)],
            sprue := [(0, BitVec.ofNat 64 (t + 0x300))] },
    mem := { cells := wcells ([(t, BitVec.ofNat 64 (t + 0x100)), (t + 0x108, put 16 32), (t + 0x118, BitVec.ofNat 64 t2Base),
        (t + 0x120, BitVec.ofNat 64 (t2Base + 0x1000)), (t + 0x130, BitVec.ofNat 64 (t + 0x200)), (t + 0x138, BitVec.ofNat 64 (t + 0x10000)),
        (t + 0x200, put 16 35), (t + 0x300, put 1 32 ||| put 4 0), (t + 0x308, BitVec.ofNat 64 (t + 0x380)),
        (t + 0x310, 0x100000), (t + 0x320, BitVec.ofNat 64 n)] ++
        (List.range r.length).map (fun k => (t + 0x4000 + 8 * k, r.getD k 0)) ++
        [(t2Base, put st.toNat 8), (t2Base + 0x100000, put 0 48), (t2Base + 0x100008, put (2 ^ 48 - 1) 0),
         (t2Base + 0x100010, put (2 ^ 48 - 1) 0), (t2Base + 0x100018, 1)]) } }

/-- A record of operation `op` for slot 1, with the generation `gen` and word 3 as given. -/
def urec (op gen : Nat) (w3 w4 : Word) : List Word := [put op 56 ||| put 1 32, 0, put gen 32 ||| put 1 0, w3, w4, 0, 0, 0]

/-- The code of a record, and whether it may be applied. -/
def ucode (n : Nat) (st : Byte) (w : List Word) : Nat × Bool :=
  match cuRecord { s := cuS n st w } w 1 with
  | .ok d _ => (d.code, true)
  | .bad c _ => (c, false)

/-- Every operation applied, and every code that the statement names, on settled memory; the record is the batch of the ring. -/
theorem witness_CommitUnit_records :
    (∀ n st w, Settled (cuS n st w)) ∧
    ucode 1 0 (urec 5 0 0 0) = (0, true) ∧ ucode 0 0 (urec 1 0 0 0x40000) = (0, true) ∧ ucode 1 1 (urec 2 0 0 0) = (0, true) ∧
    ucode 1 2 (urec 2 0 0 0) = (1, true) ∧ ucode 1 0 (urec 2 0 (put 1 63) 0) = (0, true) ∧
    ucode 1 0 (urec 3 0 (put 1 63) 0) = (0, true) ∧ ucode 1 2 (urec 4 0 0 0) = (0, true) ∧
    ucode 1 0 (urec 6 0 0 (BitVec.ofNat 64 (t1Base + 0x100))) = (0, true) ∧ ucode 1 0 (urec 7 0 0 0) = (0x10, false) ∧
    ucode 1 0 (urec 5 0 1 0) = (0x1D, false) ∧ ucode 1 0 (urec 1 3 0 0x40000) = (0x13, false) ∧
    ucode 1 1 (urec 1 0 0 0x40000) = (0x14, false) ∧ ucode 4 0 (urec 1 0 0 0x40000) = (0x16, false) ∧
    ucode 1 1 (urec 2 1 0 0) = (0x13, false) ∧ ucode 1 2 (urec 2 1 0 0) = (0x13, false) ∧ ucode 1 3 (urec 2 0 0 0) = (0x14, false) ∧
    ucode 1 1 (urec 3 0 (put 1 63) 0) = (0x14, false) ∧ ucode 1 1 (urec 4 0 0 0) = (0x14, false) ∧
    ucode 1 2 (urec 4 1 0 0) = (0x13, false) := by
  refine ⟨fun n st w => settled_of _ rfl rfl rfl rfl rfl rfl, ?_⟩
  and_intros <;> rfl

theorem witness_CommitUnit_batch :
    let w := urec 5 0 0 0
    let s := cuS 1 0 w
    logOn s = false ∧ s.cu.ctl.getLsbD 0 = true ∧ s.cu.tail ≠ s.cu.head ∧ commitSeq s < 2 ^ 48 - 2 ∧ s.mem.ue = [] ∧
    s.mem.lostCh = [] ∧ s.dir.bad = [] ∧
    (∃ s1, batchRecs 64 1 s 0 = some ([(ringAddr s 0, some w)], s1)) ∧ (s.cu.tail - s.cu.head).toNat = 1 ∧ s.cu.head.toNat = 0 :=
  ⟨rfl, rfl, by decide, by decide, rfl, rfl, rfl, ⟨_, rfl⟩, rfl, rfl⟩

theorem witness_CommitUnit_context :
    ucode 1 0 [put 2 56 ||| put 1 32, 0, put 20 0, 0, 0, 0, 0, 0] = (0x12, false) ∧
    ucode 1 2 [put 4 56 ||| put 1 32, 0, put 1 0, 0, 0, 5, 0, 0] = (0x19, false) ∧ fld (tget rdy.cu.vslot 0 0) 55 0 = 0 ∧
    (∃ z x, readCtx { s := cuS 1 0 [] } 0 true = .ok z x ∧ z.root.slots = 16) :=
  ⟨rfl, rfl, rfl, _, _, rfl, rfl⟩

/-- Reads of one die: a rerank's waits for an earlier one. -/
theorem witness_RerankEntries_dies :
    let r (q k acc : Nat) : FleRead := { q := q, i := 0, k := k, acc := acc, locs := [0] }
    let s : State := { rb 0x1000 3 (.rerank (rr0 .outstanding)) rrB with
      fle := [(0, { mounted := true, reads := [r 0x1000 1 3, r 0x1000 0 5] })] }
    readHeld s 0x1000 0 0 = true ∧ readHeld s 0x1000 0 1 = false ∧
    readHeld (rb 0x1000 3 (.rerank (rr0 .outstanding)) rrB) 0x1000 0 0 = false := by decide

/-- A MOVE between node memory and segment 0 of port A's window, running for long, or finished and not flushed. -/
theorem witness_TierEvents_windows :
    let b : List Word := [0x100000000000, 0x40000, 64, 0, 0, 0, 0, 0]
    let d : List Word := [0x40000, 0x100000000000, 64, 0, 0, 0, 0, 0]
    let s : State := { rb 0x6000 1 (.plain 0) b with tb := { time := 1000000000 } }
    let f : State := qe 0x6000 { entries := [{ ent 1 (.plain 0) d with st := .finished 0 }] }
    let here (x : Nat × Nat) : Bool := overlaps x.1 x.2 (windowBase .a + 0 * 2 ^ 30) (2 ^ 30)
    entryAt s 0x6000 0 = some (ent 1 (.plain 0) b) ∧ (ent 1 (.plain 0) b).st = .running (.plain 0) ∧
    (∃ x ∈ t3Extents s (qClass 0x6000) (ent 1 (.plain 0) b), here x = true) ∧ ctoDue s .a (ent 1 (.plain 0) b).since = true ∧
    ctoDue { s with tb := {} } .a (ent 1 (.plain 0) b).since = false ∧ lateOn { s with tb := {} } .a (windowBase .a) (2 ^ 30) = [] ∧
    entryAt f 0x6000 0 = some { ent 1 (.plain 0) d with st := .finished 0 } ∧
    (∃ x ∈ t3Dests f (qClass 0x6000) { ent 1 (.plain 0) d with st := .finished 0 }, here x = true) := by
  refine ⟨rfl, rfl, ?_, by decide, by decide, by decide, rfl, ?_⟩
  · exact ⟨(0x100000000000, 64), by decide, by decide⟩
  · exact ⟨(0x100000000000, 64), by decide, by decide⟩

theorem witness_Channels_modes :
    let c (x : Chan) : State := { rdy with chans := [(0, x)], tb := { time := 5000 } }
    let r : ChanReq := { agent := 1, addr := t2Base, size := 8, data := none }
    (chanOf (c { mode := .toProc, more := true }) 0).mode = .toProc ∧ (chanOf (c { mode := .toMem }) 0).mode = .toMem ∧
    (chanOf (c { mode := .proc, bcast := some 0, queue := [(r, 0)] }) 0).queue ≠ [] ∧
    (chanOf (c { mode := .proc, bcast := some 0 }) 0).bcast = some 0 ∧ area t2Base = .t2 0 ∧
    (chanOf (c { upstream := [(r, 0)] }) 0).upstream ≠ [] ∧
    (chanOf (c { mode := .proc, home := false }) 0).home = false := by
  and_intros <;> first | rfl | decide


/-! ## Witnesses: flash -/

/-- A mounted engine with two superblocks, one free and one as given. -/
def fl (b : Sb) : Fle :=
  { mounted := true, gcCtl := put 1 16 ||| put 2 32, mods := [(0, { st := .inService, prsnt := true })], spaces := [(1, 8)],
    sbs := [(0, b), (1, { members := [0, 1], pages := 2 })], pool := [1], mapSize := BitVec.ofNat 64 (2 ^ 25) }

def sb0 : Sb := { members := [0, 1], pages := 2, st := .open_ }

/-- FLE 0 as given. -/
def fs (f : Fle) (s : State) : State := { s with fle := [(0, f)] }

def fb (op off size dl stat : Nat) : List Word :=
  match op with
  | 1 => [put 1 52 ||| put off 0, 0x40000, put size 32 ||| put size 0, put dl 0, put stat 0]
  | 2 => [put 1 52 ||| put off 0, 0x40000, put size 32 ||| put size 0, put stat 0]
  | _ => [put 1 52 ||| put off 0, put size 0, put stat 0]

theorem witness_FlashReads :
    let s (f : Fle) (l off size dl : Nat) : State := fs f (rb 0x7000 1 (.plain 0) (fb l off size dl 0))
    let e (off size dl : Nat) := ent 1 (.plain 0) (fb 1 off size dl 0)
    let c : FlashCtx := { acc := 0, start := 0, sectors := [.outstanding none, .outstanding (some 0), .written] }
    let x : FlashCtx := { c with acc := 1 }
    let two : State := fs (fl sb0) (qe 0x7000 { entries := [en (.running (.flash x)) [], en (.running (.flash c)) []] })
    let r : State := { fs (fl sb0) (rb 0x7000 1 (.flash c) (fb 1 0 3072 7 0)) with tb := { time := 7 } }
    let d := fleD (e 0 3072 7)
    Runs (s (fl sb0) 1 0 3072 7) 0x7000 0 7 1 (e 0 3072 7) (.plain 0) ∧ d.size ≠ 0 ∧ d.size % 1024 = 0 ∧ d.deadline = 7 ∧
        tfind (fl sb0).spaces d.lbs = some 8 ∧ tfind ({ fl sb0 with spaces := [] } : Fle).spaces d.lbs = none ∧
    accOf 0 = 0 ∧ (0 : Word).getLsbD 63 = false ∧ (put 1 63).getLsbD 63 = true ∧
    deleteBefore (s (fl sb0) 1 0 3072 7) 0 0 1 = false ∧ d.off + d.size ≤ 8 * 4096 ∧
    8 * 4096 < (fleD (e 0 (9 * 4096) 0)).off + (fleD (e 0 (9 * 4096) 0)).size ∧
    Runs r 0x7000 0 7 1 (ent 1 (.flash c) (fb 1 0 3072 7 0)) (.flash c) ∧ c.sectors[0]? = some (.outstanding none) ∧
    c.sectors[1]? = some (.outstanding (some 0)) ∧ c.sectors[2]? = some .written ∧ 7 ≤ r.tb.time.toNat ∧
    ¬(7 ≤ (s (fl sb0) 1 0 3072 7).tb.time.toNat) ∧ Quiet r ∧ dieBusy r 0 c.acc (some 0) = false ∧ dieBusy two 0 x.acc (some 0) = true ∧ d.buf % 64 = 0 ∧
    sectorOk (fl sb0) (some 0) 1 .clean = true ∧
    sectorOk (fl sb0) (some 0) 1 .lost = false ∧ inNode (d.buf + 0 * 1024) = true ∧
    (secOf (auData (fl sb0) none) 0).length = 1024 := by
  refine ⟨rb_runs _ _ _ _ rfl rfl, by decide, by decide, by decide, by decide, by decide, by decide, by decide, by decide,
    by decide, by decide, by decide, rb_runs _ _ _ _ rfl rfl, rfl, rfl, rfl, by decide, by decide, quiet_of _ rfl rfl rfl, by decide,
    by decide, by decide, by decide, by decide, by decide, ?_⟩
  show (((List.replicate 4096 (0 : Byte)).drop 0).take 1024).length = 1024
  rw [List.length_take, List.length_drop, List.length_replicate]; decide

theorem witness_FlashChange :
    let s (f : Fle) (op : Nat) : State := fs f (rb 0x7000 op (.plain 0) (fb op 0 4096 0 0))
    let e (op : Nat) := ent op (.plain 0) (fb op 0 4096 0 0)
    let fm : Fle := { fl sb0 with mapSize := 0 }
    let x := s fm 2
    Quiet x ∧ (0 : Word).getLsbD 63 = false ∧ accOf 0 = 0 ∧ (∀ op ∈ [2, 3], (fleD (e op)).size = 4096 ∧ (fleD (e op)).off = 0 ∧ (fleD (e op)).lbs = 1) ∧
    tfind (fl sb0).spaces 1 = some 8 ∧ deleteBefore x 0 0 1 = false ∧ Runs x 0x7000 0 7 2 (e 2) (.plain 0) ∧
    ({ fl sb0 with readOnly := true } : Fle).readOnly = true ∧ ({ fl sb0 with pool := [] } : Fle).pool.length ≤ reserve (fl sb0) ∧
    reserve (fl sb0) < (fl sb0).pool.length ∧ fgFree (fl sb0) ≤ (fl sb0).pool.length ∧ changeBefore x 0 0 1 0 0 = false ∧
    (∀ r, r = anyRead (mapTouch (fleReq x 0) 0 (descWho 0x7000 (e 2)).tenant (ausOf (fleD (e 2)))) (descWho 0x7000 (e 2)) 0x40000 8 → r.ok = true ∧ r.data.length = 8) ∧
    (program (fleOf (fleReq x 0) 0) false none { seq := 0, kind := 1, slots := [] }).isSome = true ∧
    Runs (s (fl sb0) 3) 0x7000 0 7 3 (e 3) (.plain 0) ∧ changeBefore (s (fl sb0) 3) 0 0 1 0 0 = false :=
  ⟨quiet_of _ rfl rfl rfl, rfl, by decide, by decide, by decide, by decide, rb_runs _ _ _ _ rfl rfl, rfl, by decide, by decide, by decide, by decide,
    by rintro _ rfl; decide, by decide, rb_runs _ _ _ _ rfl rfl, by decide⟩

theorem witness_FlashSpaces :
    let b (act lbs cap : Nat) : List Word := [put lbs 52 ||| put act 46 ||| put cap 0, 0]
    let s (act lbs cap : Nat) : State := fs (fl sb0) (rb 0x7000 4 (.plain 0) (b act lbs cap))
    let d (act lbs cap : Nat) := fleD (ent 4 (.plain 0) (b act lbs cap))
    let y : State := fs (fl sb0) (rb 0x7000 5 (.plain 0) [0])
    Quiet (s 0 2 1) ∧ Runs (s 0 2 1) 0x7000 0 7 4 (ent 4 (.plain 0) (b 0 2 1)) (.plain 0) ∧
    (∀ x ∈ [(0, 2, 1), (0, 1, 1), (0, 2, 100), (1, 1, 0), (1, 2, 0)], (d x.1 x.2.1 x.2.2).act = x.1 ∧
      (d x.1 x.2.1 x.2.2).lbs = x.2.1 ∧ (d x.1 x.2.1 x.2.2).cap = x.2.2 ∧ spaceBefore (s x.1 x.2.1 x.2.2) 0 0 = false ∧
      earlier (s x.1 x.2.1 x.2.2) 0 0 (fun op z _ => op ≤ 3 && z.lbs = x.2.1) = false) ∧
    (tfind (fl sb0).spaces 1).isSome = true ∧ tfind (fl sb0).spaces 2 = none ∧ usableAu (fl sb0) < capSum (fl sb0) + 100 ∧
    capSum (fl sb0) + 1 ≤ usableAu (fl sb0) ∧ 8 * (capSum (fl sb0) + 1) + 16 * 2 ^ 20 ≤ (fl sb0).mapSize.toNat ∧
    (0 : Word).toNat < 8 * (capSum (fl sb0) + 1) + 16 * 2 ^ 20 ∧
    (let w := qe 0x7000 { entries := [en (.running (.plain 0)) (hd 2 5 false false 0 0 :: fb 2 0 4096 0 0),
                                       en (.running (.plain 1)) (hd 4 3 false false 0 0 :: b 1 1 0)] }
     earlier w 0 1 (fun op z _ => op ≤ 3 && z.lbs = 1) = true) ∧
    Runs y 0x7000 0 7 5 (ent 5 (.plain 0) [0]) (.plain 0) :=
  ⟨quiet_of _ rfl rfl rfl, rb_runs _ _ _ _ rfl rfl, by decide, by decide, by decide, by decide, by decide, by decide, by decide,
    by decide, rb_runs _ _ _ _ rfl rfl⟩

theorem witness_FlashUpkeep :
    let pg (k : Nat) : FPage := { seq := 1, kind := k, slots := [{ a := 0, lbs := 1, lau := 0, data := [7] }] }
    let f (b : Sb) : Fle := { fl b with flash := [(0, pg 1)], map := [(auKey 1 0, 0)], seq := 1 }
    let c : FlashCtx := { acc := 0, start := 0, pages := [0] }
    let late : State := { fs (f { sb0 with done := [0] }) (rb 0x7000 2 (.flash c) (fb 2 0 4096 0 0)) with tb := { time := 1000001 } }
    let vic : State := fs { fl { sb0 with st := .victim } with flash := [] } rdy
    let gc : Fle := { f { sb0 with st := .victim } with victim := some 0, fgGc := true }
    (f sb0).mounted = true ∧ tfind (fleOf late 0).sbs (locSb 0) = some { sb0 with done := [0] } ∧
    ((fleRunning late 0).any (fun r => match r.2.2.1.st with
      | .running (.flash c) => c.start.toNat + 1000000 < late.tb.time.toNat &&
          c.pages.any (fun p => locSb p = 0 && !(isCovered (fleOf late 0) p))
      | _ => false)) = true ∧
    (relocate (f { sb0 with st := .closed }) [(0, false)]).isSome = true ∧ gc.victim = some (locSb 0) ∧
    (validAt gc 0).isSome = true ∧ gcPage gc = none ∧ (program gc true none { seq := 0, kind := 2 }).isSome = true ∧
    validAt gc 4 = none ∧ erasable vic 0 0 = true ∧ erasable (fs (f sb0) rdy) 0 0 = false ∧ sb0.members ≠ [] ∧
    fleIdle rdy 0 = true ∧ (fl sb0).lastReq.toNat + bgIdle (fl sb0) * 1000 ≤ rdy.tb.time.toNat ∧
    (fl sb0).pool.length < bgFree (fl sb0) ∧ ({ fl sb0 with pool := [] } : Fle).pool.length < fgFree (fl sb0) ∧
    fgFree (fl sb0) ≤ (fl sb0).pool.length ∧ (tfind (f sb0).flash 0).isSome = true ∧ isCovered (f sb0) 0 = false ∧
    copyOpen (f sb0) (pg 1) = true ∧ healthy (fleOf vic 0) 0 = true ∧
    healthy { fleOf vic 0 with mods := [(0, { st := .evacuating, prsnt := true })] } 0 = false ∧
    tfind (f sb0).flash 4 = none ∧ ({ fl sb0 with cutBytes := 2 ^ 30 } : Fle).cutBytes ≥ 2 ^ 30 ∧
    ¬((fl sb0).cutAt.toNat + 2000000000 ≤ rdy.tb.time.toNat) := by
  and_intros <;> first | rfl | decide

theorem witness_FlashMount :
    let r : FleRoot := { map := [(auKey 1 0, 0)], cpSeq := 5 }
    accOk rdy (.pf .a) = true ∧ bitAt 1 0 = true ∧ bitAt 1 1 = false ∧ bitAt 2 1 = true ∧ bitAt 2 0 = false ∧ bitAt 3 0 = true ∧
    bitAt 3 1 = true ∧ ({} : Fle).mounted = false ∧ ({} : Fle).busy = .idle ∧ (fl sb0).mounted = true ∧
    newestRoot none none = none ∧ newestRoot (some r) none = some r ∧ newestRoot (some r) (some { r with cpSeq := 6 }) =
      some { r with cpSeq := 6 } ∧
    fld (put 1 0 ||| put 1 16) 31 16 ≤ fld (put 1 0 ||| put 1 16) 15 0 ∧
    fld (put 1 16 ||| put 1 32) 15 0 < fld (put 1 16 ||| put 1 32) 31 16 ∧
    fld (put 1 16 ||| put 1 32) 31 16 ≤ fld (put 1 16 ||| put 1 32) 47 32 ∧
    fld (put 2 16 ||| put 1 32) 47 32 < fld (put 2 16 ||| put 1 32) 31 16 :=
  ⟨rfl, rfl, rfl, rfl, rfl, rfl, rfl, rfl, rfl, rfl, rfl, rfl, rfl, by decide, by decide, by decide, by decide⟩

theorem witness_FlashModules :
    let m (st : ModSt) (p : Bool) : Fle := { fl sb0 with mods := [(0, { st := st, prsnt := p })] }
    let reads : FlashCtx := { acc := 0, start := 0, sectors := [.outstanding (some 0)] }
    let full : Fle := { m .inService true with map := [(auKey 1 0, 0)], sbs := [] }
    accOk rdy (.pf .a) = true ∧
    (∀ st ∈ [ModSt.absent, .present, .admitting, .inService, .evacuating, .empty, .poweredOff, .failed],
      (modOf (m st true) 0).st = st ∧ (modOf (m st true) 0).prsnt = true ∧ (modOf (m st false) 0).prsnt = false) ∧
    (validOn (m .inService true) 0 true + validOn (m .inService true) 0 false
      ≤ healthyAus (m .inService true) (some 0) * 93 / 100) ∧
    ¬(validOn full 0 true + validOn full 0 false ≤ healthyAus full (some 0) * 93 / 100) ∧
    validOn (m .evacuating true) 0 true = 0 ∧ validOn full 0 true ≠ 0 ∧ geo0.wf = true ∧ ({ geo0 with dies := 3 } : Geometry).wf = false ∧
    needed (fs (m .evacuating true) rdy) 0 (fun l => sbModule (locSb l) = 0) = false ∧
    needed (fs (m .evacuating true) (qe 0x7000 { entries := [en (.running (.flash reads)) []] })) 0 (fun l => sbModule (locSb l) = 0) = true :=
  ⟨rfl, by decide, by decide, by decide, by decide, by decide, by decide, by decide, by decide, by decide⟩

/-- The last sector of a READ, served, behind an earlier read, lost and late; and a space deleted and created again. -/
theorem witness_FlashReads_last :
    let c : FlashCtx := { acc := 1, start := 0, sectors := [.outstanding (some 0), .written] }
    let x : FlashCtx := { c with acc := 0, sectors := [.outstanding (some 0)] }
    let s : State := fs (fl sb0) (rb 0x7000 1 (.flash c) (fb 1 0 2048 7 0x60000))
    let b : State := fs (fl sb0) (qe 0x7000 { entries := [ent 1 (.flash c) (fb 1 0 2048 7 0x60000), en (.running (.flash x)) []] })
    let e := ent 1 (.flash c) (fb 1 0 2048 7 0x60000)
    let g : Fle := { fl sb0 with gone := [(1, (2, 5))] }
    let bad : Fle := { fl sb0 with mods := [(0, { st := .failed, prsnt := true })] }
    Runs s 0x7000 0 7 1 e (.flash c) ∧ Quiet s ∧ c.sectors[0]? = some (.outstanding (some 0)) ∧
    (∀ j l, j ≠ 0 → c.sectors[j]? ≠ some (.outstanding l)) ∧ (fleD e).deadline ≠ 0 ∧
    ¬((fleD e).deadline ≤ s.tb.time.toNat) ∧ (fleD e).deadline ≤ ({ s with tb := { time := 7 } } : State).tb.time.toNat ∧
    dieBusy s 0 c.acc (some 0) = false ∧ dieBusy b 0 c.acc (some 0) = true ∧ sectorOk (fl sb0) (some 0) 0 .clean = true ∧
    sectorOk bad (some 0) 0 .clean = false ∧ inNode ((fleD e).buf + 0 * 1024) = true ∧
    overlaps (fleD e).stat 16 ((fleD e).buf + 0 * 1024) 1024 = false ∧ spaceGone g 1 3 = true ∧ spaceGone g 1 1 = false ∧
    spaceGone g 1 7 = false ∧ spaceGone (fl sb0) 1 0 = false := by
  refine ⟨rb_runs _ _ _ _ rfl rfl, quiet_of _ rfl rfl rfl, rfl, ?_, by decide, by decide, by decide, by decide, by decide, by decide,
    by decide, by decide, by decide, rfl, rfl, rfl, rfl⟩
  intro j l hj
  rcases j with _ | _ | j
  · exact absurd rfl hj
  · simp
  · simp

/-- DELETE waits for a WRITE of its space that has not retired, and not for one that has. -/
theorem witness_FlashSpaces_delete :
    let d := hd 4 3 false false 0 0 :: [put 1 52 ||| put 1 46, 0]
    let w (st : EntrySt) : State := fs (fl sb0) (qe 0x7000 { entries :=
      [en st (hd 2 5 false false 0 0 :: fb 2 0 4096 0 0), { en (.running (.plain 1)) d with acc := 1 }] })
    (∀ st ∈ [EntrySt.running (.plain 0), .finished 0], unretired (w st) 0 1 (fun op x => op ≤ 3 && x.lbs = 1) = true) ∧
    unretired (w (.retired 0)) 0 1 (fun op x => op ≤ 3 && x.lbs = 1) = false ∧ spaceBefore (w (.retired 0)) 0 1 = false ∧
    (fleD (en .queued d)).act = 1 ∧ (tfind (fl sb0).spaces (fleD (en .queued d)).lbs).isSome = true := by
  and_intros <;> first | rfl | decide

theorem witness_FlashUpkeep_modules :
    let pg : FPage := { seq := 1, kind := 1, slots := [{ a := 0, lbs := 1, lau := 0, data := [7] }] }
    let f (b : Sb) (m : ModSt) : Fle := { fl b with flash := [(0, pg)], map := [(auKey 1 0, 0)], seq := 1, mods := [(0, { st := m, prsnt := true })] }
    let cl := f { sb0 with st := .closed } .inService
    let gone := f { sb0 with st := .closed } .failed
    let par : Fle := { f { sb0 with done := [0], parity := [(0, { seq := 2, covers := [0] })] } .inService with mounted := true }
    sbServes cl 0 = true ∧ sbServes gone 0 = false ∧ locLost cl 0 = false ∧ locLost gone 0 = true ∧
    (relocate cl (weakAus cl 0 [(0, true)])).isSome = true ∧ (modOf (f sb0 .evacuating) (sbModule (locSb 0))).st = .evacuating ∧
    mayFail (fs cl rdy) 0 0 pg = true ∧ mayFail (fs par rdy) 0 0 pg = false ∧ unverifiedSb sb0 = true ∧ copyOpen cl pg = true ∧
    copyOpen cl { pg with kind := 2, slots := [{ a := 0, lbs := 1, lau := 0, src := 0, data := [8] }] } = false := by
  and_intros <;> rfl


/-! ## Witnesses: coherence, mailboxes, host ports, the fabric -/

theorem witness_Directory :
    let mode (m : Nat) : State := { rdy with dir := { ctl := BitVec.ofNat 64 m } }
    Coherent (held true 0) ∧ Coherent (held false 0) ∧ Coherent rdy ∧
    Quiet (held true 0) ∧ Quiet (held false 0) ∧ Quiet rdy ∧
    (∀ s ∈ [held true 0, held false 0, rdy], lineOk s 0x400 = true ∧ heldByOther s 3 0x400 = false ∧ ueIn s (0x400 * 64) 64 = none ∧ s.mem.ce = [] ∧ cacheGet s 3 0x400 = none ∧ cacheGet s 0 0x400 = none ∧
      protected_ s 0x10010 = false ∧ ueIn s 0x10010 8 = none) ∧
    dirGet rdy 0x400 = none ∧ dirGet (held false 0) 0x400 = some (.shared [1]) ∧ dirGet (held true 0) 0x400 = some (.owned 1) ∧
    cacheLines 3 ≠ 0 ∧ holdsM 3 = true ∧ isAgent 151 = true ∧ isInsnCache 3 = false ∧ 0x10010 / 64 = 0x400 ∧
    0x10010 % 64 + 8 ≤ 64 ∧ 0x10010 % 8 = 0 ∧ logOn rdy = false ∧ 128 ≤ (150 : Nat) ∧ runsNear (mode 1) 0x10010 = true ∧
    runsNear (mode 2) 0x10010 = false :=
  ⟨held_coherent _ _, held_coherent _ _, coherent_of _ rfl rfl, quiet_of _ rfl rfl rfl, quiet_of _ rfl rfl rfl,
    quiet_of _ rfl rfl rfl, by decide⟩

theorem witness_DirectoryHolds :
    let c (m : Bool) (e : Nat) : CLine := ⟨m, List.replicate 64 7, e⟩
    let r : DirWait := { agent := 3, line := 0x400, stamp := 0, cmd := .getm 3 0x400 }
    let w : State := { held true 0 with dir := { (held true 0).dir with waiting := [r] } }
    let late : State := { w with tb := { time := BitVec.ofNat 64 (ageNs w + 1) } }
    (∀ m, cacheGet (held m 5) 1 0x400 = some (c m 5)) ∧ (c true 5).data.length = 64 ∧ (held true 5).dir.waiting = [] ∧
    (c true 0).holdEnd ≤ (held true 0).tb.time.toNat ∧ (held true 5).tb.time.toNat < (c true 5).holdEnd ∧
    dirGet (held false 5) 0x400 = some (.shared [1]) ∧ dirGet (held true 5) 0x400 = some (.owned 1) ∧
    lineOk (held true 5) 0x400 = true ∧ holdsM 3 = true ∧ cacheGet (held true 5) 3 0x400 = none ∧
    w.dir.waiting = [r] ∧ cacheGet w 1 0x400 = some (c true 0) ∧ (0 : Word).toNat + ageNs w < late.tb.time.toNat ∧
    ChannelsQuiet (held true 0) ∧ w.tb.time.toNat ≤ (0 : Word).toNat + ageNs w :=
  ⟨fun m => by cases m <;> rfl, rfl, rfl, by decide, by decide, by decide, by decide, by decide, by decide, by decide, rfl, rfl,
    by decide, (quiet_of _ rfl rfl rfl).1, by decide⟩

theorem witness_Mailboxes :
    let s (x : Mbx) : State := { rdy with mbx := [(5, { x with cfg := put 12 32 })], seqs := [(9, { tenant := 12 })] }
    let full : List Word := List.replicate 16 0
    (∀ a ∈ [Acc.pf .a, .seq 9], mbxReach (s {}) a = true ∧ mbxTenant (s {}) a 5 = true ∧ accDrain (s {}) a = s {}) ∧
    mbxTenant (s {}) (.seq 8) 5 = false ∧ mbxReach (s {}) (.seq 8) = true ∧ mbxReach (s {}) (.vf .a 0) = false ∧
    accDrain (s {}) (.seq 8) = s {} ∧ (mbxOf (s {}) 5).owner = 0 ∧ (mbxOf (s { owner := 10 }) 5).owner = accNumber (.seq 9) ∧
    (mbxOf (s { owner := 11 }) 5).owner ≠ accNumber (.pf .a) ∧ (mbxOf (s {}) 5).ab.length < 16 ∧
    16 ≤ (mbxOf (s { ab := full, ba := full }) 5).ab.length ∧ 16 ≤ (mbxOf (s { ab := full, ba := full }) 5).ba.length ∧
    (mbxOf (s { ab := [7], ba := [8] }) 5).ab = [7] ∧ (mbxOf (s { ab := [7], ba := [8] }) 5).ba = [8] ∧ (mbxOf (s {}) 5).ab = [] ∧
    (mbxOf (s { pendAB := true, doneBA := true }) 5).pendAB = true ∧ (mbxOf (s {}) 5).pendBA = false ∧ isPF (.seq 9) = false ∧
    isPF (.pf .a) = true :=
  ⟨by decide, by decide, by decide, by decide, rfl, rfl, rfl, by decide, by decide, by decide, by decide, rfl, rfl, rfl, rfl, rfl,
    rfl, rfl⟩

/-- Sequencer 9 of another tenant has its stores performed before its access; the mailbox then sees it as any other. -/
def hm : State := { held true 0 with host := [(0, { linkUp := true, vf := [(0, put 1 12 ||| put 1 16)] })] }

theorem witness_HostMemory :
    let hostPba : List Nat := [msixKey 0 1]
    hostServed hm (.pf .a) = true ∧ hostServed hm (.vf .a 0) = true ∧ inNode 0x10010 = true ∧ mapped hm 0x10010 = true ∧
    0x10010 < aperGib (vfCfg hm .a 0) * 2 ^ 30 ∧ fld (vfCfg hm .a 0) 55 30 = 0 ∧ hostAt hm (.pf .a) 2 0x10010 = .mem 0x10010 ∧
    hostAt hm (.vf .a 0) 2 0x10010 = .mem 0x10010 ∧ hostAt hm (.pf .a) 2 t0Size = .unmapped ∧ Coherent hm ∧ Quiet hm ∧ msixKey 0 1 ∈ hostPba ∧ msixKey 0 2 ∉ hostPba ∧
    hm.mem.ce = [] ∧ tlpOk 0x10010 8 512 = true ∧ tlpOk 0x10000 4096 4096 = true ∧ ueIn hm 0x10010 8 = none ∧
    protected_ hm 0x10010 = false ∧ protected_ (sq {}) 0x10 = true ∧ hostAt (sq {}) (.pf .a) 2 0x10 = .mem 0x10 ∧
    hostServed (sq {}) (.pf .a) = true ∧ 0x10010 % amoSize true = 0 ∧ t0Size % amoSize false = 0 :=
  ⟨by decide, by decide, by decide, by decide, by decide, by decide, by decide, by decide, by decide, held_coherent true 0, quiet_of _ rfl rfl rfl,
    by decide, by decide, rfl, by decide, by decide, by decide, by decide, by decide, by decide, by decide, by decide, by decide⟩

/-- A ring pair of function 0 of port A as given. -/
def rp (r : Ring) : State := { rdy with host := [(0, { linkUp := true, rings := [(0, r)] })], tiers := { windows := [(segKey .a 0, true)] } }

theorem witness_PortEvents :
    let lost : State := { rdy with host := [(0, { lost := true })] }
    let r : Ring := { owner := .a, cfg := 1, fetch := 1 }
    let b : List Word := [BitVec.ofNat 64 t3BaseA, 0x50000, 8, 0, 0, 0, 0, 0]
    let f : State := rb 0x6000 1 (.plain 0) b
    let alive : State := { lost with boot := { ready := true, alive := true } }
    hostLost rdy .a = false ∧ hostLost lost .a = true ∧ QueuesBounded rdy ∧ alive.boot.alive = true ∧
    (hostOf alive .a).dead = false ∧ linkWidthOk 8 = true ∧ (6 : BitVec 4) ≠ 0 ∧ (6 : BitVec 4).toNat ≤ 6 ∧
    (hostOf alive .a).linkUp = false ∧ (ringOf (rp r) .a 0).owner = .a ∧ ringOn (ringOf (rp r) .a 0) = true ∧
    (ringOf (rp r) .a 0).fetch ≠ (ringOf (rp r) .a 0).sqTail ∧ ringFunc (ringOf (rp { r with cfg := put 1 40 ||| 1 }) .a 0) = 1 ∧
    entryAt f 0x6000 0 = some (ent 1 (.plain 0) b) ∧ (ent 1 (.plain 0) b).st = .running (.plain 0) ∧
    t3Running f .a = [] ∧ t3Running { f with tb := { time := 10000000000 } } .a = [(0x6000, 0)] ∧
    fetchLate (rp r) .a .a 0 = false ∧ fetchLate { rp r with tb := { time := 10000000000 } } .a .a 0 = true ∧
    (t3Extents f 6 (ent 1 (.plain 0) b)).any (fun y => overlaps y.1 y.2 (windowBase .a) (2 ^ 44)) = true :=
  ⟨rfl, rfl, fun _ => by show (0 : Nat) < 2 ^ 64; decide, rfl, rfl, by decide, by decide, by decide, rfl, rfl, rfl, by decide, by decide,
    rfl, rfl, by decide⟩

theorem witness_RingPairs :
    let r : Ring := { owner := .a, cfg := 1 ||| put 1 16 }
    let on : State := rp { r with fetch := 1, posted := 0, cqTail := 1 }
    let full : State := rp { r with posted := BitVec.ofNat 16 (cqLen r), cqTail := 1 }
    let off : State := rp { r with cfg := 0 }
    let due : State := { rp { r with uncovered := 1 } with tb := { time := 0 } }
    let x := ringOf on .a 0
    let b : State := { rp r with host := [(0, { linkUp := true }), (1, { linkUp := true, rings := [(0, { owner := .b, cfg := put 1 38 })] })] }
    doorReach on (.pf .a) .a = true ∧ accDrain on (.pf .a) = on ∧ ownsRing x (.pf .a) = true ∧ ringOn x = true ∧
    ((1 : BitVec 16) - x.sqHead).toNat ≤ sqLen x ∧ ((1 : BitVec 16) - x.sqTail).toNat ≤ sqLen x ∧
    ((1 : BitVec 16) - x.cqHead).toNat ≤ cqLen x ∧ ((1 : BitVec 16) - x.posted).toNat ≤ cqLen x ∧
    sqLen x < ((0xFFFF : BitVec 16) - x.sqHead).toNat ∧ cqLen x < ((0xFFFF : BitVec 16) - x.cqHead).toNat ∧
    hostLost on x.owner = false ∧ x.fetch ≠ x.sqTail ∧ x.mirror.toNat % 64 = 0 ∧ Quiet on ∧
    ueIn on (x.mirror.toNat + x.sqTail.toNat % sqLen x * 64) 64 = none ∧ (ringOf off .a 0).fetch = (ringOf off .a 0).sqTail ∧
    accOk on (.pf .a) = true ∧ x.posted ≠ x.cqTail ∧ (x.posted - x.cqHead).toNat < cqLen x ∧
    (nodeRead on (portWho x.owner) (x.stage.toNat + x.posted.toNat % cqLen x * 64) 56).ok = true ∧
    (ringOf full .a 0).posted ≠ (ringOf full .a 0).cqTail ∧
    cqLen (ringOf full .a 0) ≤ ((ringOf full .a 0).posted - (ringOf full .a 0).cqHead).toNat ∧ fld x.cfg 23 16 ≠ 0 ∧
    (ringOf due .a 0).uncovered ≠ 0 ∧
    (ringOf due .a 0).firstAt.toNat + fld (ringOf due .a 0).cfg 31 24 * 1000 ≤ due.tb.time.toNat ∧
    fld (put 1 8) 15 8 ≠ fld x.cfg 15 8 ∧ ringOn (ringOf off .a 0) = false ∧ ringBufsOk off (ringOf off .a 0) 1 = true ∧
    ringBufsOk off { (ringOf off .a 0) with mirror := BitVec.ofNat 64 t0Size } 1 = false ∧ fld (1 : Word) 15 8 = 0 ∧
    fld (1 : Word) 5 0 ≠ 0 ∧ (.b = otherPort .a) ∧ (ringOf b .a 0).owner = .a ∧ mayTake b .a .b 0 = true ∧
    mayTake { b with host := [(1, { linkUp := true, rings := [(0, { owner := .b })] })] } .a .b 0 = false :=
  ⟨rfl, rfl, by decide, by decide, by decide, by decide, by decide, by decide, by decide, by decide, rfl, by decide, by decide, quiet_of _ rfl rfl rfl,
    by decide, rfl, rfl, by decide, by decide, by decide, by decide, by decide, by decide, by decide, by decide, by decide, rfl,
    by decide, by decide, by decide, by decide, rfl, rfl, by decide, by decide⟩

theorem witness_RegisterSpace :
    accOk rdy (.pf .a) = true ∧ csrAddr 0x100010001 = false ∧ csrAddr 0x1000D0000 = false ∧ csrWin 0x100090000 ≠ 8 ∧
    hasRc (csrWin 0x100010000) (csrOff 0x100010000) = false ∧ 15 < 16 ∧ 31 < 32 ∧ 63 < 64 :=
  ⟨rfl, by decide, by decide, by decide, by decide, by decide, by decide, by decide⟩

theorem witness_RegisterWriters :
    let s : State := sq { two 1 2 with stores := [(0x20000, [1])] }
    accOk s (.seq 0) = true ∧ accOk (accDrain s (.seq 0)) (.pf .a) = true ∧ bitAt 0xF 0 = true ∧ bitAt 0xF 1 = true ∧
    bitAt 0xF 3 = true := ⟨rfl, rfl, rfl, rfl, rfl⟩

/-- A Hawser port 0 that is up and routes to node 2, and this node as node 1. -/
def hw (x : HPort) : State :=
  { rdy with cmp := { node := 1 }, hws := { routeBase := 0x80000, ports := [(0, { x with up := true, width := 4, partner := some 2 })] },
             mem := { cells := [(0x80008, 1)] } }

/-- With one live port in its mask a message leaves there, whatever the hash. -/
theorem egress_one (s : State) (m : Msg) (p : Nat)
    (h : (List.range 16).filter (fun q => (routeMask s m).1.testBit q && portLive (routeMask s m).2 q) = [p]) :
    (egressPort s m).1 = some p := by
  simp only [egressPort, h, List.length_cons, List.length_nil, Nat.zero_add, Nat.mod_one]
  rfl

theorem witness_HawserSend :
    let s : State := { hw {} with hws := { (hw {}).hws with sends := [(0, { cfg := 1, tail := 1 })] },
                                  mem := { cells := [(1, 0x21), (6, 2), (0x80008, 1)] } }
    let x := sendOf s 0
    let r := nodeRead s (hwsWho 0 (fld x.cfg 43 32)) (x.base.toNat + x.head.toNat % snLen x * 64) 64
    let e := sendEntry r.data
    let d := nodeRead r.s (hwsWho 0 (fld x.cfg 43 32)) e.at_ e.len
    let m : Msg := { e.m with src := nodeNum s, tenant := fld x.cfg 43 32, payload := d.data }
    let q : State := hw { egress := [(1, [⟨m, 0, true⟩])] }
    accOk s (.pf .a) = true ∧ ((1 : BitVec 16) - x.head).toNat ≤ snLen x ∧ snOn x = true ∧
    fld (put 1 8) 11 8 ≠ fld x.cfg 11 8 ∧ snOn (sendOf (hw {}) 0) = false ∧ x.head ≠ x.tail ∧ s.boot.ready = true ∧ r.ok = true ∧
    e.bad = false ∧ e.len = 0 ∧ nodeNum s ≠ 0xFFFF ∧ d.ok = true ∧ (sendEntry (List.replicate 64 0)).bad = true ∧
    t0Size < (sendOf { s with hws := { sends := [(0, { base := BitVec.ofNat 64 t0Size, tail := 1 })] } } 0).base.toNat + 64 ∧
    (egressPort (sendPass d.s 0) m).1 = some 0 ∧ (portOf rdy 0).up = false ∧ (portOf q 0).up = true ∧
    (2 : BitVec 8).getLsbD 1 = true ∧ tget (portOf q 0).egress [] 1 = [⟨m, 0, true⟩] ∧
    (∀ j, j < 1 → (2 : BitVec 8).getLsbD j = true → tget (portOf q 0).egress [] j = []) :=
  ⟨rfl, by decide, by decide, by decide, by decide, by decide, rfl, by decide, by decide, by decide, by decide, by decide, by decide,
    by decide, egress_one _ _ _ (by decide), rfl, rfl, by decide, rfl, by decide⟩

theorem witness_HawserControl :
    let z : State := { hw {} with hws := { (hw {}).hws with zones := [(0, { src := 2, st := .armed })] } }
    let late : State := { z with tb := { time := 1000000 }, cmp := { grace := true } }
    (∀ w ∈ [(1 : BitVec 4), 2, 4], w = 1 ∨ w = 2 ∨ w = 4) ∧ (portOf rdy 0).up = false ∧ (portOf rdy 0).dead = false ∧
    tfind rdy.tst.drops 0 = none ∧ (portOf z 0).up = true ∧ (portOf z 0).spare = false ∧
    (portOf (hw { spare := true }) 0).spare = true ∧ 1 < (portOf (hw { spare := true }) 0).width.toNat ∧
    (portOf rdy 0).partner = none ∧ (portOf z 0).partner = some 2 ∧
    z.tb.time.toNat < (portOf z 0).lastSample.toNat + max 1 (fld z.hws.ctl 15 0) * 1000 ∧
    (portOf late 0).lastSample.toNat + max 1 (fld late.hws.ctl 15 0) * 1000 ≤ late.tb.time.toNat ∧ accOk z (.pf .a) = true ∧
    bitAt 3 0 = true ∧ bitAt 3 1 = true ∧ bitAt 1 1 = false ∧ bitAt 2 0 = false ∧ late.cmp.grace = true ∧
    late.cmp.changed.toNat + 500000 ≤ late.tb.time.toNat :=
  ⟨by decide, rfl, rfl, rfl, rfl, rfl, rfl, by decide, rfl, rfl, by decide, by decide, rfl, rfl, rfl, rfl, rfl, rfl, by decide⟩

theorem witness_HawserReceive :
    let m (k : Nat) (l : List Byte) : Msg := { dst := 1, src := 2, kind := k, hops := 1, payload := l }
    let s : State := { hw {} with hws := { (hw {}).hws with
      recvs := [(0, { base := 0x60000, cfg := 1 ||| put 6 12 })], zones := [(0, { base := 0x50000, size := 2, src := 2, st := .armed })] } }
    let sc : State := { s with hws := { s.hws with recvs := [(0, { base := 0x60000, cfg := 3 })] } }
    let pol : State := { s with hws := { s.hws with polProf := [(0, put 1 32)], buckets := [(0, (0, 0))] } }
    let out : Msg := { m 1 [] with dst := 2 }
    Quiet s ∧ (egressPort (police s 0 out).2 { out with hops := 0 }).1 = some 0 ∧
    s.mem.ue = [] ∧ s.mem.ce = [] ∧ s.mem.lostCh = [] ∧ (∀ k ∈ [1, 2, 3, 8, 9, 0xA], arrives s 0 (m k []) k = true) ∧
    arrives s 0 (m 1 []) 2 = false ∧ (police s 0 (m 1 [])).1 = true ∧ epochCode s (m 1 []) = none ∧
    rqOn (recvOf s 0) = true ∧ rqTenant (recvOf s 0) 0 = true ∧ rqFull (recvOf s 0) = false ∧ bitAt (recvOf s 0).cfg 1 = false ∧
    msgLen (m 1 []) ≤ rqSlot (recvOf s 0) ∧ (zoneOf s 0).st = .armed ∧ (zoneOf s 0).src = 2 ∧ arrives s 0 (m 2 [1]) 2 = true ∧
    (∀ l ∈ [[(1 : Byte)], [1, 2]], 0 + l.length ≤ (zoneOf s 0).size ∧ l.length ≠ 0) ∧ bufArea 0x50000 false = true ∧
    withinTier s 0x50000 2 = true ∧ bitAt (recvOf sc 0).cfg 1 = true ∧ rqOn (recvOf rdy 0) = false ∧ 2 ≠ nodeNum s ∧
    (police pol 0 { m 1 [] with cls := 1 }).1 = false ∧ epochCode s { m 1 [] with routed := true, epoch := 5 } = some 2 ∧
    epochCode s { m 1 [] with routed := true, epoch := 0xFFFF } = some 1 ∧ out.dst ≠ nodeNum s ∧ out.hops ≠ 0 :=
  ⟨quiet_of _ rfl rfl rfl, egress_one _ _ _ (by decide), by decide⟩

/-- A SCATTER of no row for a table of one row of one FP32 element, at the start of T1. -/
theorem witness_ScatterReceive :
    let head : List Byte := wordBytes (BitVec.ofNat 64 t1Base) ++ wordBytes 0 ++ wordBytes (put 1 40) ++ List.replicate 40 0
    let m : Msg := { dst := 1, src := 2, kind := 3, hops := 1, payload := head }
    let cells : List Host.Cell := [(t1Base, 1), (t1Base + 4, 1), (t1Base + 7, 1), (t1Base + 12, 0x10), (t1Base + 23, 0x20)]
    let s : State := { hw {} with
      hws := { (hw {}).hws with recvs := [(0, { base := 0x60000, cfg := 3 })] },
      mem := { cells := cells } }
    let h := scatHead m.payload
    let b := nodeRead (police s 0 m).2 { cls := 4, unit := scatGte s, op := 2, tenant := 0, agent := engineAgent 4 (scatGte s) } h.table 64
    let tab := tableOf b.data
    Quiet s ∧ s.dir.bad = [] ∧ arrives s 0 m 3 = true ∧ (police s 0 m).1 = true ∧ epochCode s m = none ∧
    rqOn (recvOf s 0) = true ∧ bitAt (recvOf s 0).cfg 1 = true ∧ rqTenant (recvOf s 0) 0 = true ∧
    scatOk s h m.payload.length = true ∧ tableBad b.s tab = false ∧ tab.dim = h.dim ∧ h.mode = 0 ∧ tierOf tab.base ≠ some 3 :=
  ⟨quiet_of _ rfl rfl rfl, by decide⟩

theorem witness_Directory_settled :
    (held true 0).dir.bad = [] ∧ (held false 0).dir.bad = [] ∧ hm.dir.bad = [] ∧ rdy.dir.bad = [] := ⟨rfl, rfl, rfl, rfl⟩

/-- A port with no read of host memory outstanding, another descriptor beside the one with an access to its window, and the
rings whose owner it is. -/
theorem witness_PortEvents_rest :
    let b : List Word := [BitVec.ofNat 64 t3BaseA, 0x50000, 8, 0, 0, 0, 0, 0]
    let d : List Word := [0x40000, 0x50000, 8, 0, 0, 0, 0, 0]
    let s : State := qe 0x6000 { entries := [ent 1 (.plain 0) b, ent 1 (.plain 0) d] }
    (s.queues.map Prod.fst).Nodup ∧ meets s 0x6000 (ent 1 (.plain 0) b) (windowBase .a) (2 ^ 44) = true ∧
    meets s 0x6000 (ent 1 (.plain 0) d) (windowBase .a) (2 ^ 44) = false ∧ entryAt s 0x6000 1 = some (ent 1 (.plain 0) d) ∧
    logOn s = false ∧ (∀ q, fetchLate rdy .a q 0 = false) ∧ (t3Running { s with tb := { time := 10000000000 } } .a) ≠ [] := by
  refine ⟨by decide, by decide, by decide, rfl, rfl, ?_, by decide⟩
  intro q; cases q <;> decide

/-- Every test of an arriving message that fails, one by one: its ring off, of another tenant, full, its slot too short. -/
theorem witness_HawserReceive_refused :
    let m (k : Nat) (l : List Byte) : Msg := { dst := 1, src := 2, kind := k, hops := 1, payload := l }
    let s (r : RecvRing) : State := { hw {} with hws := { (hw {}).hws with recvs := [(0, r)] } }
    let ok : RecvRing := { base := 0x60000, cfg := 1 ||| put 6 12 }
    let code (r : RecvRing) (x : Msg) := firstCode [(!(rqOn r) || bitAt r.cfg 1, 5), (!(rqTenant r x.tenant), 6), (rqFull r, 7),
      (decide (rqSlot r < msgLen x), 8)]
    let z : State := { s ok with hws := { (s ok).hws with zones := [(0, { base := 0x50000, size := 2, src := 2, tenant := 9, st := .armed })] } }
    code {} (m 1 []) = some 5 ∧ code { ok with cfg := ok.cfg ||| 2 } (m 1 []) = some 5 ∧ code ok { m 1 [] with tenant := 7 } = some 6 ∧
    code { ok with tail := 1 } (m 1 []) = some 7 ∧ code ok (m 1 [1]) = some 8 ∧ code ok (m 1 []) = none ∧
    (∀ k ∈ [1, 2, 3, 0xA], arrives (s ok) 0 (m k []) k = true ∧ isNotice (m k []) = false) ∧ (police (s ok) 0 (m 1 [])).1 = true ∧
    epochCode (s ok) (m 1 []) = none ∧ (zoneOf z 0).tenant ≠ (m 2 []).tenant ∧ (zoneOf (s ok) 0).st ≠ .armed ∧
    scatOk (s ok) (scatHead []) 0 = false ∧ evtRing (s ok) = 0 ∧ (m 1 []).src ≠ nodeNum (s ok) ∧
    (egressPort (tick1 (s ok)) (refusal (s ok) (m 1 []) 5)).1 = some 0 ∧ rqOn (recvOf (s ok) 0) = true ∧
    (∀ k ∈ [8, 9], arrives (s ok) 0 (m k []) k = true) := by
  refine ⟨by decide, by decide, by decide, by decide, by decide, by decide, by decide, by decide, by decide, by decide, by decide,
    by decide, by decide, by decide, egress_one _ _ _ (by decide), by decide, by decide⟩


/-! ## Witnesses: errors, metering, power-up, service, security, Shake-out -/

theorem witness_ErrorRecords :
    let s (ce ue : List Nat) : State := { rdy with err := { ctl := 1 }, mem := { ce := ce, ue := ue } }
    let on : State := { rdy with err := { base := 0x40000, lost := 3 } }
    (bitAt (s [] []).err.ctl 0 = true ∧ (s [] []).boot.ready = true ∧ scrubOk (s [] []) 0x10000 = true) ∧
    scrubOk (s [] []) 0x100000000 = false ∧ cwBad (s [] []) (cwBase 0x10000) = false ∧ cwBase 0x10000 ∉ (s [] []).mem.ce ∧
    cwBase 0x10000 ∈ (s [0x10000] []).mem.ce ∧ cwBad (s [0x10000] []) (cwBase 0x10000) = false ∧
    cwBad (s [] [0x10000]) (cwBase 0x10000) = true ∧ logOn (s [] []) = false ∧ on.err.lost ≠ 0 ∧ on.err.queue.length < 224 ∧
    logOn on = true ∧ rdy.err.lost = 0 ∧ accOk on (.pf .a) = true ∧ accDrain on (.pf .a) = on ∧ fld 0 31 0 = 0 ∧ fld 1 31 0 ≠ 0 ∧
    t0Size < fld (BitVec.ofNat 64 t0Size) 55 18 * 2 ^ 18 + 2 ^ 18 ∧
    fld (BitVec.ofNat 64 (t0Size - 2 ^ 18)) 55 18 * 2 ^ 18 + 2 ^ 18 ≤ t0Size :=
  by and_intros <;> first | rfl | decide

def pt : State := { rdy with err := { ppCtl := 0x03E800320003FE01#64, packVer := 1 } }

theorem nextUnit_first (s : State) (h : s.err.walkAt = 0) (hw : walkable s 0 = true) : nextUnit s = some 0 := by
  have e : ∀ l : List Nat, (0 :: l).find? (fun k => decide (s.err.walkAt ≤ k) && walkable s k) = some 0 := by
    intro l; simp [h, hw]
  have r : List.range (9 * 1024) = 0 :: (List.range 9215).map Nat.succ := List.range_succ_eq_map
  unfold nextUnit
  rw [r]
  generalize (List.range 9215).map Nat.succ = l
  simp only [e]

theorem nextUnit_none (s : State) (h : ∀ k, walkable s k = false) : nextUnit s = none := by
  have e : ∀ l : List Nat, l.find? (fun k => decide (s.err.walkAt ≤ k) && walkable s k) = none := by
    intro l; exact List.find?_eq_none.mpr (by simp [h])
  have e2 : ∀ l : List Nat, l.find? (walkable s) = none := by
    intro l; exact List.find?_eq_none.mpr (by simp [h])
  unfold nextUnit
  generalize List.range (9 * 1024) = l
  simp only [e, e2]

theorem witness_PatternTests :
    let test (m t : Nat) : State :=
      { rdy with err := { ppCtl := BitVec.ofNat 64 (m + 1) ||| put 1 32, packVer := 1, testing := true, curClass := 7, curUnit := 1 },
                 units := [(unitKey 7 1, { mode := .testing, check := true, spare := .standIn 0 })], tb := { time := BitVec.ofNat 64 t } }
    (bitAt pt.err.ppCtl 0 = true ∧ pt.err.packVer ≠ 0 ∧ pt.err.testing = false ∧ pt.boot.ready = true ∧
      ∀ t, pt.err.lastTest = some t → t.toNat + periodNs pt ≤ pt.tb.time.toNat) ∧
    nextUnit pt = some 0 ∧ nextUnit { pt with err := { pt.err with ppCtl := 1 } } = none ∧ bitAt rdy.err.ppCtl 0 = false ∧
    (test 0 0).err.testing = true ∧ (unitOf (test 0 0) 7 1).check = true ∧ (unitOf rdy 7 1).check = false ∧
    (checksPass [check0] = true ∧ (test 0 1000000).tb.time.toNat ≤ (test 0 1000000).err.testStart.toNat + testNs (test 0 1000000)) ∧
    ¬((test 0 1000001).tb.time.toNat ≤ (test 0 1000001).err.testStart.toNat + testNs (test 0 1000001)) ∧
    checksPass [{ check0 with what := .count 1 2 }] = false ∧ bitAt (test 0 0).err.ppCtl 1 = false ∧ autoRetire (test 2 0) 7 1 = true ∧
    accOk pt (.pf .a) = true ∧ (fld (put 2 32 ||| put 2 0) 47 32 ≤ fld (put 2 32 ||| put 2 0) 15 0) ∧
    ¬(fld (put 2 32 ||| put 1 0) 47 32 ≤ fld (put 2 32 ||| put 1 0) 15 0 ∨ fld (put 2 32 ||| put 1 0) 47 32 < 2) ∧
    bitAt 1 0 = true ∧ bitAt 2 0 = false ∧ rdy.err.packVer = 0 := by
  refine ⟨⟨rfl, by decide, rfl, rfl, (by intro t h; cases h)⟩, ?_, ?_, rfl, rfl, rfl, rfl, ⟨by decide, by decide⟩, by decide, by decide,
    by decide, by decide, rfl, by decide, by decide, rfl, rfl, rfl⟩
  · exact nextUnit_first _ rfl (by decide)
  · refine nextUnit_none _ fun k => ?_
    have hb : bitAt (1 : Word) (9 + k / 1024) = false :=
      Nat.testBit_lt_two_pow (Nat.one_lt_two_pow (by omega : 9 + k / 1024 ≠ 0))
    simp only [walkable, hb, Bool.and_false, Bool.false_and]

theorem witness_MeteringFeed :
    let up : State := { rdy with feed := { linkUp := true, cache := [(3, 9)] }, tb := { time := 100000 } }
    let soon : State := { up with tb := { time := 99999 } }
    let ends : State := { up with boot := { entered := true, scope := some (.cold, 2) } }
    let s : State := sq { two 1 2 with tenant := 7 }
    up.feed.linkUp = true ∧ up.feed.lastSend.toNat + 100000 ≤ up.tb.time.toNat ∧
    ¬(soon.feed.lastSend.toNat + 100000 ≤ soon.tb.time.toNat ∨ 62 ≤ soon.feed.cache.length) ∧
    62 ≤ ({ cache := List.replicate 62 (0, 1) } : Feed).cache.length ∧
    (ends.boot.entered = true ∧ ends.feed.linkUp = true ∧
      ∃ sc c, ends.boot.scope = some (sc, c) ∧ sc ≠ .power ∧ c ≠ 4) ∧ up.boot.entered = false ∧
    accOk s (.seq 0) = true ∧ accTenant s (.seq 0) = some 7 ∧ 2 ≤ fld (put 2 56) 57 56 ∧ fld (put 1 56) 57 56 < 2 :=
  ⟨rfl, by decide, by decide, by decide, ⟨rfl, rfl, _, _, rfl, by decide, by decide⟩, rfl, rfl, rfl, by decide, by decide⟩

theorem witness_IslandFrames :
    let fr (seq kind : Nat) (bad : Nat) : Frame :=
      { frame0 with seq := seq, mac := Config.feedMac 0 (frameWords kind { frame0 with seq := seq }) + bad }
    let x (p o : Bool) : Island := { presented := p, openS := o, fed := true, last := 5, kept := { clock := 10000 } }
    (x false true).up = true ∧ ({ up := false } : Island).up = false ∧ (fr 1 1 0).seq = 1 ∧
    (∀ n k, (fr n k 0).mac = Config.feedMac 0 (frameWords k (fr n k 0))) ∧
    (∀ n k, (fr n k 1).mac ≠ Config.feedMac 0 (frameWords k (fr n k 1))) ∧ (fr 5 2 0).seq = (x false true).last ∧
    (fr 4 2 0).seq < (x false true).last ∧ (x false true).last < (fr 6 2 0).seq ∧ (x false false).openS = false ∧
    (x true false).presented = true ∧ (x true false).fed = true ∧ (fr 6 1 0).seq ≠ 1 ∧ (x false true).lastAt + 10000 ≤ (x false true).kept.clock ∧
    ¬((x false true).lastAt + 10000 ≤ ({ clock := 9999 } : Kept).clock) :=
  ⟨rfl, rfl, rfl, fun _ _ => rfl, fun _ _ => Nat.succ_ne_self _, rfl, by decide, by decide, rfl, rfl, rfl, by decide, by decide, by decide⟩

theorem witness_IslandKeeps :
    let x : Island := { kept := { clock := 1000000 }, weights := [(0, 3), (7, 1)] }
    x.energyAt + 1000 ≤ x.kept.clock ∧ ({ clock := 999 } : Kept).clock < x.energyAt + 1000 ∧ x.energyOpen = [] ∧
    x.up = true ∧ ({ up := false } : Island).up = false ∧ x.committed.clock + 1000000 ≤ x.kept.clock ∧
    ({ clock := 999999 } : Kept).clock < x.committed.clock + 1000000 ∧ x.presented = false ∧
    ({ presented := true } : Island).presented = true ∧ x.inService = false ∧ ({ inService := true } : Island).inService = true :=
  ⟨by decide, by decide, rfl, rfl, rfl, by decide, by decide, rfl, rfl, rfl, rfl⟩

/-- Whether a sealed bundle is good rests on the functions of Config, which have no body: one that they call good, with the
change of constant 3 to 5, and one that is not whole. -/
theorem witness_Sideband :
    let x : Island := { inService := true, snapAt := some 0, kept := { clock := 100000 } }
    let p : List Byte := leBytes 8 3 ++ leBytes 8 5
    let soon (t : Nat) : Bool := match x.snapAt with | some a => decide (t < a + 100000) | none => false
    x.up = true ∧ ({ up := false } : Island).up = false ∧ soon 99999 = true ∧ soon 100000 = false ∧
    ¬(soon 100000 = true ∨ (256 : BitVec 16).toNat = 0 ∨ 256 < (256 : BitVec 16).toNat ∨
      4096 < (3840 : BitVec 16).toNat + (256 : BitVec 16).toNat) ∧ 4096 < (3841 : BitVec 16).toNat + (256 : BitVec 16).toNat ∧
    ({ snap := some [] } : Island).snap = some [] ∧ x.snap = none ∧ ([] ++ List.replicate 289 (0 : Word)).length = 289 ∧
    ([] : List Word).length ≠ 289 ∧ x.sealLog.length < 1024 ∧ sealedOk (bundleOf []) = false ∧ sealedPairs p = [(3, 5)] ∧
    (∀ b : Bundle, b.payload = p → bheadOk b.h [0x10] = true → b.signer.ok = true → Config.sha384 b.payload = b.h.hash →
      signerHash b.signer = Config.authorityKey → signatures b.signer b.head = rOk → sealedOk b = true) :=
  ⟨rfl, rfl, rfl, rfl, by decide, by decide, rfl, rfl,
    by rw [List.nil_append, List.length_replicate], by decide, by decide, by decide, by decide,
    fun b _ h1 h2 h3 h4 h5 => by simp [sealedOk, h1, h2, h3, h4, h5]⟩

theorem witness_RailController :
    let s (mode sp : Nat) : State := { rdy with rail := { ctl := BitVec.ofNat 64 mode ||| put 80 4 ||| put 700 12 ||| put 750 22,
                                                          setpoint := BitVec.ofNat 10 sp, tjQc := 330, on := true } }
    let lim (w : Word) : Nat := max 660 (min 800 w.toNat)
    (s 0 720).rail.on = true ∧ rdy.rail.on = false ∧ rdy.err.queue.length < 224 ∧
    lim (((s 0 720).rail.ctl.extractLsb' 12 10).zeroExtend 64) = 700 ∧ lim (((s 0 720).rail.ctl.extractLsb' 22 10).zeroExtend 64) = 750 ∧
    (s 1 720).rail.ctl.extractLsb' 0 2 = 1 ∧ (s 0 720).rail.ctl.extractLsb' 0 2 ≠ 1 ∧ (s 0 699).rail.setpoint.toNat < 700 ∧
    750 < (s 0 751).rail.setpoint.toNat ∧ 705 ≤ (s 0 720).rail.setpoint.toNat ∧ (s 0 720).rail.setpoint.toNat ≤ 750 ∧
    (s 0 720).rail.tjQc.toInt > 4 * (min 105 ((s 0 720).rail.ctl.extractLsb' 4 8).toNat : Nat) ∧
    (∀ x, (s 0 720).rail.lastStep = some x → x.toNat + 50000 ≤ (s 0 720).tb.time.toNat) ∧
    ¬(∀ x, (some 0 : Option Word) = some x → x.toNat + 50000 ≤ 49999) ∧ accOk (s 0 720) (.pf .a) true = true ∧
    lim (((put 701 12 ||| put 700 22).extractLsb' 12 10).zeroExtend 64) > lim (((put 701 12 ||| put 700 22).extractLsb' 22 10).zeroExtend 64) ∧
    (10001 : Word).toNat > 10000 ∧ (10000 : Word).toNat ≤ 10000 ∧ logOn { rdy with err := { base := 0x40000 } } = true :=
  ⟨rfl, rfl, by decide, by decide, by decide, by decide, by decide, by decide, by decide, by decide, by decide, by decide, (by intro x h; cases h),
    fun h => absurd (h 0 rfl) (by decide), rfl, by decide, by decide, by decide, by decide⟩

theorem witness_TimebaseAlignment :
    let s (mode : Nat) (t : Timebase) : State := { rdy with tb := { t with ctl := BitVec.ofNat 64 mode } }
    accOk rdy (.pf .a) = true ∧ (∀ m ∈ [0, 1, 2, 3], ((s m {}).tb.ctl.extractLsb' 0 3).toNat = m) ∧ (1 : Word) ≠ 0 ∧
    (0 : BitVec 8) = (s 2 {}).tb.ctl.extractLsb' 56 8 ∧ (s 2 { agree := [0, 100, 50], hops := 1 }).tb.agree = [0, 100, 50] ∧
    min 15 ((0 : BitVec 4).toNat + 1) = (s 2 { hops := 1 }).tb.hops.toNat ∧
    min 15 ((0 : BitVec 4).toNat + 1) < (s 2 { hops := 2 }).tb.hops.toNat ∧
    (s 2 { hops := 1 }).tb.hops.toNat < min 15 ((1 : BitVec 4).toNat + 1) ∧
    (∀ i ∈ [(0 : Int), 100, 50, 20], ∀ j ∈ [(0 : Int), 100, 50, 20], i - j ≤ 100) ∧ (-10 : Int) ≤ 10 ∧ (10 : Int) < 11 ∧
    (s 3 { missed := 2, locked := true }).tb.missed = 2 ∧ (s 3 { missed := 2, locked := true }).tb.locked = true ∧
    (s 1 { released := true }).tb.released = true ∧ (s 1 { released := true }).tb.lastSync = none :=
  ⟨rfl, by decide, by decide, by decide, rfl, by decide, by decide, by decide, by decide, by decide, by decide, rfl, rfl, rfl,
    rfl⟩

theorem witness_ResetCauses :
    let s (b : Boot) : State := { rdy with boot := b }
    let b : Boot := { state := 1, railsEn := [.core], railsGood := [] }
    let g : Boot := { state := 1, railsEn := [.core, .nt], railsGood := [.core] }
    let low : Boot := { rstN := false, entered := true, scope := some (.cold, 1), railsGood := [.core, .nt] }
    (low.rstLowAt + 100 ≤ ({ clock := 100 } : Kept).clock ∧ low.railsGood.getLast? = some .nt ∧ low.entered = true) ∧
    ({ aonGood := true } : Boot).aonGood = true ∧ ({ aonGood := false } : Boot).aonGood = false ∧
    railOrder.find? (fun z => !(b.railsEn.contains z)) = some .nt ∧ (s b).boot.state = 1 ∧
    Rail.core ∈ b.railsEn ∧ Rail.core ∉ b.railsGood ∧ (∀ y ∈ b.railsEn, y ∈ b.railsGood ++ [.core]) ∧
    (∃ y ∈ g.railsEn, y ∉ g.railsGood) ∧ g.railsEn.find? (fun y => !(g.railsGood.contains y)) = some .nt ∧ Rail.core ∈ g.railsGood ∧
    (s { state := 7 }).boot.state ≠ 1 ∧ (s {}).boot.rstN = true ∧ (s { rstN := false }).boot.rstN = false ∧
    (s { scope := some (.warm, 2) }).boot.scope = some (.warm, 2) ∧ scopeRank .warm < scopeRank .cold ∧
    scopeRank .cold < scopeRank .power ∧ (480 : Int) ≤ (480 : BitVec 16).toInt ∧ ¬((480 : Int) ≤ (479 : BitVec 16).toInt) ∧
    (440 : Int) < (441 : BitVec 16).toInt ∧ accOk rdy (.pf .a) true = true ∧ fld (put 0xB007 48 ||| 1) 63 48 = 0xB007 ∧
    fld (put 0xB007 48 ||| 1) 1 0 = 1 ∧ fld (put 0xB007 48 ||| 2) 1 0 = 2 ∧ fld (put 0xB007 48 ||| 3) 1 0 = 3 ∧
    fld (1 : Word) 63 48 ≠ 0xB007 ∧ accOk rdy (.seq 0) true = true := by
  decide

/-- A node in RAILS that the board holds, or not; every rail up. -/
theorem witness_ResetCauses_held :
    let held (b : Boot) : Bool := b.state = 1 && !(b.aonGood && b.asyGood && b.rstN)
    let all : Boot := { state := 7, railsEn := railOrder, railsGood := railOrder }
    held { state := 1, aonGood := true, asyGood := true, rstN := false } = true ∧
    held { state := 1, aonGood := true, asyGood := true, rstN := true } = false ∧
    held { state := 7, rstN := false } = false ∧ (∀ y ∈ railOrder, y ∈ all.railsGood) ∧
    (∃ y ∈ railOrder, y ∉ ({ state := 1 } : Boot).railsGood) ∧ ({ all with scope := some (.power, 0) } : Boot).scope = some (.power, 0) ∧
    scopeRank .warm ≤ scopeRank .power := by decide


/-- A node held in reset by nothing, in scope `sc`, in state `st`. -/
def bt (sc : Option (ResetScope × Nat)) (e : Bool) (st : Nat) (good : List Rail) : State :=
  { boot := { state := st, scope := sc, entered := e, railsEn := good, railsGood := good }, island := { presented := true } }

theorem witness_ResetAndPowerUp :
    (bt (some (.warm, 2)) false 7 []).boot.entered = false ∧ (bt none false 1 []).boot.scope = none ∧
    mayRun (bt none false 1 []) = true ∧ mayRun { bt none false 1 [] with island := {} } = false ∧
    railsUp (bt none false 1 []) = false ∧ (∀ y ∈ (bt none false 1 []).boot.railsEn, y ∈ (bt none false 1 []).boot.railsGood) ∧
    (∃ x, railOrder.find? (fun z => !((bt none false 1 []).boot.railsEn.contains z)) = some x) ∧
    mayRun (bt none false 1 railOrder) = true ∧ railsUp (bt none false 1 railOrder) = true ∧
    (bt (some (.cold, 1)) true 2 []).boot.state = 2 ∧ mayRun (bt (some (.cold, 1)) true 2 []) = true ∧
    (bt (some (.warm, 2)) true 7 []).boot.entered = true ∧ mayRun (bt (some (.warm, 2)) true 7 []) = true ∧
    report0.fuseOk = true ∧ report0.t0Ok = true ∧ report0.t0Test = true ∧ ({ report0 with t0Test := false } : PowerReport).t0Test = false ∧ strayLines rdy = [] ∧ abandonedExts rdy = [] ∧ inRegion { units := 1 } 65535 = true ∧ accOk rdy (.pf .a) true = true ∧ ResetScope.cold ≠ .warm :=
  ⟨rfl, rfl, by decide, by decide, by decide, by decide, ⟨_, rfl⟩, by decide, by decide, rfl, by decide, rfl, by decide, rfl, rfl, rfl, rfl, rfl,
    rfl, by decide, rfl, by decide⟩

theorem witness_ServiceCommands :
    let v (a c t : Nat) : Word := put a 60 ||| put c 56 ||| put t 46
    let s (m : UnitMode) (w : SvcWork) : State :=
      { rdy with units := [(unitKey 6 1, { mode := m })], boot := { ready := true, svc := w, chSpares := [(1, 40)] } }
    let ch (m : UnitMode) : State := { s m .idle with units := [(unitKey 8 3, { mode := m }), (unitKey 8 35, { mode := m })] }
    let busy : State := { s .quiescing (.quiesce 6 1) with queues := [(mkQ 6 1 0, { entries := [en (.running (.plain 0)) [0]] })] }
    accOk (s .inService .idle) (.pf .a) true = true ∧ fld (v 1 6 1) 63 60 = 1 ∧ fld (v 1 6 1) 59 56 = 6 ∧ fld (v 1 6 1) 55 46 = 1 ∧
    (∀ a ∈ [1, 2, 3, 4, 5, 6, 7, 8, 9], fld (v a 8 3) 63 60 = a ∧ fld (v a 8 3) 55 46 = 3) ∧
    (s .inService (.link 6 1 0)).boot.svc ≠ .idle ∧ unitNamed 9 0 = false ∧ unitNamed 6 1023 = false ∧ unitNamed 6 1 = true ∧
    underPattern (s .inService .idle) 6 1 = false ∧ (unitOf (s .quiesced .idle) 6 1).mode ≠ .inService ∧
    (unitOf (s .inService .idle) 6 1).mode = .inService ∧ (unitOf (s .inService .idle) 1 0).spare = .none ∧
    freeSpare (s .inService .idle) 1 = some 0 ∧ slotsUsed (s .quiescing (.quiesce 6 1)) 6 1 false = 0 ∧
    slotsUsed busy 6 1 false ≠ 0 ∧ (unitOf (s .quiesced .idle) 6 1).mode = .quiesced ∧
    slotsUsed (s .quiesced .idle) 6 1 true = 0 ∧
    slotsUsed { busy with queues := [(mkQ 6 1 0, { entries := [{ en (.running (.plain 0)) [0] with onSpare := true }] })] } 6 1 true ≠ 0 ∧
    (s .testing (.reload 6 1)).boot.svc = .reload 6 1 ∧ checksPass [check0] = true ∧ checksPass [{ check0 with what := .count 1 2 }] = false ∧
    (unitOf (ch .inService) 8 3).mode ≠ .quiesced ∧ (unitOf (ch .quiesced) 8 3).mode = .quiesced ∧
    chSpareFree (ch .quiesced) (3 / 32) = true ∧ chSpareFree (ch .quiesced) (35 / 32) = false ∧
    (s .inService (.migrate 3)).boot.svc = .migrate 3 ∧ fld (put 3 32) 39 32 ≤ 3 ∧ (portOf rdy 0).spare = false ∧
    (s .inService (.link 8 1 3)).boot.svc = .link 8 1 3 ∧ rdy.mem.retiredCh.contains 3 = false ∧
    ({ rdy with mem := { retiredCh := [3] } } : State).mem.retiredCh.contains 3 = true ∧ rdy.boot.ready = true :=
  by and_intros <;> first | rfl | decide

theorem witness_SecurityCommands :
    let v (a i addr : Nat) : Word := put a 60 ||| put i 56 ||| put addr 0
    let s (w : SecWork) : State := { rdy with sec := { work := w } }
    let reg (u : List Nat) : State := { rdy with sec := { work := .release 1, regions := [(1, { valid := true, base := 0, units := 1, users := u })] } }
    let leaf (live : Bool) (b t : Nat) : State :=
      { rdy with sec := { work := .attest 0x40000, bottomLive := live, bottomLeaf := b, topLeaf := t } }
    let en : State := { s (.enrollFirst 0x40000) with mem := { cells := [(0x40038, 8)] } }
    let x := anyRead en loaderWho 0x40000 64
    (∀ a ∈ [1, 2, 3, 4], fld (v a 1 0x40000) 63 60 = a ∧ fld (v a 1 0x40000) 59 56 = 1 ∧ fld (v a 1 0x40000) 55 0 = 0x40000) ∧
    accOk rdy (.pf .a) = true ∧ accOk rdy (.seq 0) = true ∧ (seqOf rdy 0).stores = [] ∧ (s (.attest 0)).sec.work ≠ .idle ∧
    (s .idle).sec.work = .idle ∧ peekHead rdy 0x40000 = none ∧
    (s (.load 1 0x40000 0 true)).sec.work = .load 1 0x40000 0 true ∧ regionRefuse rdy 1 0x10000 64 = 0 ∧
    (reg []).sec.work = .release 1 ∧ (regionOf rdy 1).units = 0 ∧ (regionOf (reg []) 1).units ≠ 0 ∧ (regionOf (reg [5]) 1).users ≠ [] ∧
    (regionOf (reg []) 1).users = [] ∧ (0x40000 % 64 = 0 ∧ (inT0 0x40000 = true ∨ area 0x40000 = .t1) ∧ withinTier rdy 0x40000 8896 = true) ∧
    0x40001 % 64 ≠ 0 ∧ refill (leaf false 0 1048576).sec = none ∧ (leaf true 1023 0).sec.bottomLive = true ∧
    (leaf true 1023 0).sec.bottomLeaf < 1024 ∧ (leaf false 0 1048575).sec.topLeaf < 1048576 ∧
    srcOk en 0x40000 64 = true ∧ ({ everOwner := true } : Sec).everOwner = true ∧ en.sec.everOwner = false ∧ x.ok = true ∧
    enrolSlot x.data < 8 ∧ (slotOf en (enrolSlot x.data)).programmed = false :=
  ⟨by decide, rfl, rfl, rfl, by decide, rfl, by decide +kernel, rfl, by decide, rfl, by decide, by decide, by decide, by decide,
    ⟨by decide, by decide, by decide⟩, by decide, by decide, rfl, by decide, by decide, by decide, rfl, rfl, by decide, by decide,
    by decide⟩

/-- LOAD of a program whose header is right. -/
theorem witness_SecurityCommands_load :
    let s : State := { rdy with mem := { cells := [(0x40000, 1), (0x40001, 1), (0x40010, 64)] } }
    (match peekHead s 0x40000 with
      | some h => h.kind = 1 && regionRefuse s 1 0x50000 h.psize = 0
      | none => false) = true := by decide +kernel

theorem witness_ShakeOut :
    let t (x : Tst) : State := { rdy with tst := x }
    let o : Tst := { unlockEnd := some 5, allow := 31 }
    accOk rdy (.pf .a) = true ∧ o.unlockEnd ≠ none ∧ ({ check := some 0x40000 } : Tst).check ≠ none ∧ rdy.tst.unlockEnd = none ∧
    rdy.tst.check = none ∧ (seqOf rdy 0).stores = [] ∧ ({ check := some 0x40000 } : Tst).check = some 0x40000 ∧ bitAt 1 0 = true ∧
    bitAt 2 0 = false ∧ (5 : Word).toNat ≤ ({ t o with tb := { time := 5 } } : State).tb.time.toNat ∧
    (t o).tb.time.toNat < (5 : Word).toNat ∧ fld (put 1 0) 31 0 ≠ 0 ∧ fld (put 1 48) 31 0 = 0 ∧ (∀ k ∈ [0, 1, 2, 3, 4], o.allow.testBit k = true) ∧
    (∀ k ∈ [0, 1, 2, 3, 4], ({ o with allow := 0 } : Tst).allow.testBit k = false) ∧
    tfind ({ drops := [(3, 5)] } : Tst).drops 3 = some 5 ∧ tfind rdy.tst.drops 3 = none :=
  ⟨rfl, by decide, by decide, rfl, rfl, rfl, rfl, rfl, rfl, by decide, by decide, by decide, by decide, by decide, by decide, rfl, rfl⟩

/-- The signing unit takes a token check and a command of the loader in the order in which they began (R482). -/
theorem witness_ShakeOut_turns :
    let s (first : Bool) (w : SecWork) : State := { rdy with tst := { check := some 0x40000, checkFirst := first }, sec := { work := w } }
    (s true (.release 1)).tst.check ≠ none ∧ (s false (.release 1)).sec.work ≠ .idle ∧ tokenTurn (s false (.release 1)) = false ∧
    secTurn (s true (.release 1)) = false ∧ tokenTurn (s true (.release 1)) = true ∧ secTurn (s false (.release 1)) = true ∧
    (s false .idle).sec.work = .idle :=
  ⟨by decide, by decide, rfl, rfl, rfl, rfl, rfl⟩

/-- LOAD of a program whose region is refused: below T0's end it fits, and beyond its end it does not. -/
theorem witness_SecurityCommands_refused :
    let s : State := { rdy with mem := { cells := [(0x40000, 1), (0x40001, 1), (0x40010, 64)] },
                                sec := { dst := BitVec.ofNat 64 t0Size } }
    (match peekHead s 0x40000 with
      | some h => decide (regionRefuse s 1 s.sec.dst.toNat h.psize ≠ 0)
      | none => false) = true ∧ Quiet s ∧ (2 : Word).getLsbD 1 = true := by
  refine ⟨by decide +kernel, quiet_of _ rfl rfl rfl, rfl⟩

/-- Before the end of the time the registers are open, at it and after it they are not. -/
theorem witness_ShakeOut_time :
    let s (n : Nat) : State := { rdy with tst := { unlockEnd := some 5, allow := 31 }, tb := { time := BitVec.ofNat 64 n } }
    let free (n : Nat) : Prop := ∃ e, (s n).tst.unlockEnd = some e ∧ (s n).tb.time.toNat < e.toNat
    free 4 ∧ ¬free 5 ∧ (¬∃ e, rdy.tst.unlockEnd = some e ∧ rdy.tb.time.toNat < e.toNat) ∧
    (∀ j, (portOf rdy j).egress = [] ∧ (portOf rdy j).replay = []) := by
  refine ⟨⟨5, rfl, by decide⟩, ?_, ?_, fun j => ⟨rfl, rfl⟩⟩
  · rintro ⟨e, h, l⟩; cases h; exact absurd l (by decide)
  · rintro ⟨e, h, -⟩; cases h

end Sys2Proof.Tests
end

/-! # The value each scalar instruction writes (O8: R50 to R52) -/

section
namespace Sys2Proof.Machine
open Sys2Proof

/-! ## The values are the ones BitVec names -/

theorem shamt_eq (b : Word) : shamt b = (b.extractLsb' 0 6).toNat := by
  rw [BitVec.extractLsb'_toNat, Nat.shiftRight_zero, shamt]

theorem slt_iff (a b : Word) : slt a b = true ↔ a.toInt < b.toInt := decide_eq_true_iff

theorem ult_iff (a b : Word) : ult a b = true ↔ a.toNat < b.toNat := decide_eq_true_iff

theorem flag_slt (a b : Word) : flag (slt a b) = if a.toInt < b.toInt then 1 else 0 := by
  simp only [flag, slt_iff]

theorem flag_ult (a b : Word) : flag (ult a b) = if a < b then 1 else 0 := by
  simp only [flag, ult_iff, BitVec.lt_def]

theorem minS_eq (a b : Word) : minS a b = BitVec.ofInt 64 (min a.toInt b.toInt) := by
  by_cases h : a.toInt < b.toInt
  · rw [minS, if_pos ((slt_iff a b).2 h), Int.min_eq_left (Int.le_of_lt h), BitVec.ofInt_toInt]
  · rw [minS, if_neg (mt (slt_iff a b).1 h), Int.min_eq_right (Int.not_lt.1 h), BitVec.ofInt_toInt]

theorem maxS_eq (a b : Word) : maxS a b = BitVec.ofInt 64 (max a.toInt b.toInt) := by
  by_cases h : a.toInt < b.toInt
  · rw [maxS, if_pos ((slt_iff a b).2 h), Int.max_eq_right (Int.le_of_lt h), BitVec.ofInt_toInt]
  · rw [maxS, if_neg (mt (slt_iff a b).1 h), Int.max_eq_left (Int.not_lt.1 h), BitVec.ofInt_toInt]

theorem minU_eq (a b : Word) : minU a b = BitVec.ofNat 64 (min a.toNat b.toNat) := by
  by_cases h : a.toNat < b.toNat
  · rw [minU, if_pos ((ult_iff a b).2 h), Nat.min_eq_left (Nat.le_of_lt h), BitVec.ofNat_toNat, BitVec.setWidth_eq]
  · rw [minU, if_neg (mt (ult_iff a b).1 h), Nat.min_eq_right (Nat.not_lt.1 h), BitVec.ofNat_toNat, BitVec.setWidth_eq]

theorem maxU_eq (a b : Word) : maxU a b = BitVec.ofNat 64 (max a.toNat b.toNat) := by
  by_cases h : a.toNat < b.toNat
  · rw [maxU, if_pos ((ult_iff a b).2 h), Nat.max_eq_right (Nat.le_of_lt h), BitVec.ofNat_toNat, BitVec.setWidth_eq]
  · rw [maxU, if_neg (mt (ult_iff a b).1 h), Nat.max_eq_left (Nat.not_lt.1 h), BitVec.ofNat_toNat, BitVec.setWidth_eq]

/-- Sign extension of a field is BitVec's (R47). -/
theorem sext_toNat {w : Nat} (x : BitVec w) (h64 : w ≤ 64) : sext w x.toNat = x.signExtend 64 := by
  have hx : x.toNat % 2 ^ w = x.toNat := Nat.mod_eq_of_lt x.isLt
  have hle : 2 ^ w ≤ 2 ^ 64 := Nat.pow_le_pow_right (by decide) h64
  apply BitVec.eq_of_toNat_eq
  rw [BitVec.toNat_signExtend, BitVec.toNat_setWidth_of_le h64, BitVec.msb_eq_decide, sext]
  simp only [hx, decide_eq_true_eq, BitVec.toNat_ofNat]
  have := x.isLt
  split <;> exact Nat.mod_eq_of_lt (by omega)

theorem imm14_eq (i : BitVec 14) : imm14 i = i.signExtend 64 := sext_toNat i (by decide)

theorem imm40_eq (i : BitVec 40) : imm40 i = i.signExtend 64 := sext_toNat i (by decide)

theorem toInt_imm14 (i : BitVec 14) : (imm14 i).toInt = i.toInt := by
  rw [imm14_eq, BitVec.toInt_signExtend_of_le (by decide)]

/-! ## Products and quotients (R50, R51) -/

/-- The upper half of the signed product: the 128-bit product is the integers' product modulo 2^128. -/
theorem mulh_eq (a b : Word) : mulh a b = (a.signExtend 128 * b.signExtend 128).extractLsb' 64 64 := by
  have hp : a.signExtend 128 * b.signExtend 128 = BitVec.ofInt 128 (a.toInt * b.toInt) := (BitVec.ofInt_mul ..).symm
  apply BitVec.eq_of_toNat_eq
  rw [hp, mulh, BitVec.extractLsb'_toNat, BitVec.toNat_ofInt, BitVec.toNat_ofInt, Nat.shiftRight_eq_div_pow]
  generalize a.toInt * b.toInt = p
  omega

theorem mulhu_eq (a b : Word) : mulhu a b = (a.zeroExtend 128 * b.zeroExtend 128).extractLsb' 64 64 := by
  have hp : (a.zeroExtend 128 * b.zeroExtend 128).toNat = a.toNat * b.toNat % 2 ^ 128 := by
    rw [BitVec.toNat_mul, BitVec.toNat_setWidth_of_le (by decide), BitVec.toNat_setWidth_of_le (by decide)]
  apply BitVec.eq_of_toNat_eq
  rw [mulhu, BitVec.extractLsb'_toNat, hp, BitVec.toNat_ofNat, Nat.shiftRight_eq_div_pow]
  generalize a.toNat * b.toNat = p
  omega

theorem divS_eq (a b : Word) : divS a b = if b = 0 then BitVec.allOnes 64 else a.sdiv b := by
  have hq : BitVec.ofInt 64 (a.toInt.tdiv b.toInt) = a.sdiv b :=
    BitVec.eq_of_toInt_eq (by rw [BitVec.toInt_ofInt, BitVec.toInt_sdiv])
  rw [divS, hq]; rfl

theorem divU_eq (a b : Word) : divU a b = if b = 0 then BitVec.allOnes 64 else a / b := by
  rw [divU, ← BitVec.toNat_udiv, BitVec.ofNat_toNat, BitVec.setWidth_eq]; rfl

theorem remS_eq (a b : Word) : remS a b = if b = 0 then a else a.srem b := by
  rw [remS, ← BitVec.toInt_srem, BitVec.ofInt_toInt]

theorem remU_eq (a b : Word) : remU a b = if b = 0 then a else a % b := by
  rw [remU, ← BitVec.toNat_umod, BitVec.ofNat_toNat, BitVec.setWidth_eq]

/-- The quotient that does not fit, -2^63 by -1, wraps to -2^63 (R51). -/
theorem divS_overflow : divS (BitVec.intMin 64) (BitVec.allOnes 64) = BitVec.intMin 64 := by decide

theorem remS_overflow : remS (BitVec.intMin 64) (BitVec.allOnes 64) = 0 := by decide

/-! ## Bit counts (R50) -/

/-- Counting down from bit `n`, as BitVec does, is counting over the low `n + 1` bits with the bits above known to be 0. -/
theorem clzAuxRec_eq_clzN {w : Nat} (x : BitVec w) (n : Nat) (h : n < w) :
    x.clzAuxRec n = BitVec.ofNat w (w - 1 - n + clzN (n + 1) x.toNat) := by
  induction n with
  | zero =>
    rw [BitVec.clzAuxRec_zero, ← BitVec.testBit_toNat, clzN, clzN]
    split
    · rfl
    · congr 1; omega
  | succ n ih =>
    rw [BitVec.clzAuxRec_succ, ← BitVec.testBit_toNat, clzN]
    split
    · rfl
    · rw [ih (by omega)]; congr 1; omega

theorem clz_eq (a : Word) : clz a = a.clz := by
  rw [BitVec.clz, clzAuxRec_eq_clzN a 63 (by decide), clz, Nat.sub_self, Nat.zero_add]

/-- Trailing zeros are the leading zeros of the bits in reverse. -/
theorem ctzN_eq_clzN_of_reverse {n u v : Nat} (h : ∀ i < n, u.testBit i = v.testBit (n - 1 - i)) :
    ctzN n v = clzN n u := by
  induction n generalizing v with
  | zero => rfl
  | succ n ih =>
    have top : u.testBit n = v.testBit 0 := by rw [h n n.lt_succ_self]; congr 1; omega
    have rest : ∀ i < n, u.testBit i = (v / 2).testBit (n - 1 - i) := fun i hi => by
      rw [Nat.testBit_div_two, h i (by omega)]; congr 1; omega
    rw [ctzN, clzN, top, ih rest]

theorem ctz_eq (a : Word) : ctz a = a.ctz := by
  have bits : ∀ i < 64, a.reverse.toNat.testBit i = a.toNat.testBit (64 - 1 - i) := fun i hi => by
    rw [BitVec.testBit_toNat, BitVec.testBit_toNat, BitVec.getLsbD_reverse, BitVec.getMsbD]
    simp only [hi, decide_true, Nat.add_one_sub_one, Bool.true_and]
  rw [BitVec.ctz, ← clz_eq, ctz, clz, ctzN_eq_clzN_of_reverse bits]

theorem popN_eq_countP (n v : Nat) : popN n v = (List.finRange n).countP (fun i => v.testBit i.val) := by
  induction n generalizing v with
  | zero => rfl
  | succ n ih =>
    have low : v % 2 = if v.testBit 0 then 1 else 0 := by
      rw [Nat.testBit_zero]; rcases Nat.mod_two_eq_zero_or_one v with h | h <;> (rw [h]; rfl)
    rw [popN, ih, List.finRange_succ, List.countP_cons, List.countP_map, low, Nat.add_comm]
    simp only [Nat.testBit_div_two]
    rfl

theorem popc_eq (a : Word) : popc a = BitVec.ofNat 64 ((List.finRange 64).countP (fun i => a.getLsb i)) := by
  rw [popc, popN_eq_countP]; rfl

/-! ## LIHX (R52) -/

/-- Replacing the field [63:40] puts the new field above the low 40 bits. -/
theorem setFld_upper24 (d : Word) (h : BitVec 24) : setFld d 63 40 h.toNat = h ++ d.setWidth 40 := by
  have hmask : mask 63 40 = BitVec.allOnes 64 <<< 40 := by decide
  have hput : put (h.toNat % 2 ^ (63 + 1 - 40)) 40 = h.setWidth 64 <<< 40 := by
    apply BitVec.eq_of_toNat_eq
    rw [Nat.mod_eq_of_lt h.isLt, put, BitVec.toNat_ofNat, BitVec.toNat_shiftLeft, BitVec.toNat_setWidth_of_le (by decide)]
  rw [setFld, merge, hmask, hput]
  apply BitVec.eq_of_getLsbD_eq
  intro i hi
  simp only [BitVec.getLsbD_append, BitVec.getLsbD_or, BitVec.getLsbD_and, BitVec.getLsbD_not, BitVec.getLsbD_shiftLeft,
    BitVec.getLsbD_allOnes, BitVec.getLsbD_setWidth]
  by_cases hi40 : i < 40
  · simp only [hi, decide_true, hi40, Bool.not_true, Bool.and_false, Bool.false_and, Bool.not_false, Bool.and_self,
      Bool.and_true, Bool.or_false, if_true, Bool.true_and]
  · simp only [hi, decide_true, hi40, decide_false, Bool.not_false, Bool.and_self, show i - 40 < 64 by omega,
      Bool.not_true, Bool.and_false, Bool.true_and, Bool.and_true, Bool.false_or, if_false]

/-! ## Where the instruction is fetched, it retires with its value -/

section
variable {s : State} {n : Fin 64} {k : Nat} (h : FetchesFrom s n k)
include h

theorem aluR_retires {funct : Nat} {rd rs1 rs2 : BitVec 6} {f : Word → Word → Word} {v : Word}
    (hv : f (reg (seqOf s n) rs1) (reg (seqOf s n) rs2) = v) :
    (.next (aluR s n funct rd rs1 rs2 false .ok f) : Ans) = .next (retired s n k rd v 4) := by
  rw [aluR, runInsn_fetched h, ← hv]; rfl

theorem aluI_retires {op imm : Nat} {rd rs1 : BitVec 6} {f : Word → Word} {v : Word}
    (hv : f (reg (seqOf s n) rs1) = v) :
    (.next (aluI s n op rd rs1 imm false .ok f) : Ans) = .next (retired s n k rd v 4) := by
  rw [aluI, runInsn_fetched h, ← hv]; rfl

/-- A shift whose amount is below 64 has a legal encoding. -/
theorem shiftI_retires (kind : Nat) (rd rs1 m : BitVec 6) (f : Word → Nat → Word) :
    (.next (shiftI s n kind rd rs1 (m.setWidth 12) f) : Ans) =
      .next (retired s n k rd (f (reg (seqOf s n) rs1) m.toNat) 4) := by
  have hm : (m.setWidth 12).toNat = m.toNat := BitVec.toNat_setWidth_of_le (by decide)
  have legal : (m.toNat / 64 != 0) = false := by rw [Nat.div_eq_of_lt m.isLt]; rfl
  rw [shiftI, hm, legal]
  exact aluI_retires h (congrArg (f _) (Nat.mod_eq_of_lt m.isLt))

theorem aluX_retires (h2 : PairFetched s n k) {xop : Nat} {rd rs1 : BitVec 6} {imm : BitVec 40} {bad : Bool}
    {f : Word → Word → Word} {v : Word} (legal : bad = false)
    (hv : f (reg (seqOf s n) rs1) (reg (seqOf s n) rd) = v) :
    (.next (aluX s n xop rd rs1 imm bad .ok f) : Ans) = .next (retired s n k rd v 8) := by
  rw [aluX, runPair_fetched h h2, ← hv, legal]; rfl

theorem lihx_retires (h2 : PairFetched s n k) (rd : BitVec 6) (x : BitVec 24) :
    exec (.lihx n rd 0 (x.setWidth 40)) s =
      .next (retired s n k rd (x ++ (reg (seqOf s n) rd).setWidth 40) 8) := by
  have hx : (x.setWidth 40).toNat = x.toNat := BitVec.toNat_setWidth_of_le (by decide)
  refine aluX_retires h h2 ?_ ?_
  · rw [hx, Nat.div_eq_of_lt x.isLt]; rfl
  · rw [hx, Nat.mod_eq_of_lt x.isLt, setFld_upper24]

end

/-- Settles O8: running an instruction that is fetched writes the model's value, which the lemmas above say in BitVec's
words. -/
theorem scalarResults : Obligations.ScalarResults := by
  refine ⟨?_, ?_, ?_⟩
  · intro s n k rd rs1 rs2 h a b
    exact ⟨aluR_retires h rfl, aluR_retires h rfl, aluR_retires h rfl, aluR_retires h rfl, aluR_retires h rfl,
      aluR_retires h (congrArg (a <<< ·) (shamt_eq b)), aluR_retires h (congrArg (a >>> ·) (shamt_eq b)),
      aluR_retires h (congrArg a.sshiftRight (shamt_eq b)), aluR_retires h (flag_slt a b), aluR_retires h (flag_ult a b),
      aluR_retires h (minS_eq a b), aluR_retires h (maxS_eq a b), aluR_retires h (minU_eq a b), aluR_retires h (maxU_eq a b)⟩
  · intro s n k rd rs1 rs2 h a b
    have corner (ha : a = BitVec.intMin 64) (hb : b = BitVec.allOnes 64) :
        divS a b = BitVec.intMin 64 ∧ remS a b = 0 := by
      rw [ha, hb]; exact ⟨divS_overflow, remS_overflow⟩
    exact ⟨aluR_retires h rfl, aluR_retires h (mulh_eq a b), aluR_retires h (mulhu_eq a b), aluR_retires h (divS_eq a b),
      aluR_retires h (divU_eq a b), aluR_retires h (remS_eq a b), aluR_retires h (remU_eq a b),
      fun ha hb => ⟨aluR_retires h (corner ha hb).1, aluR_retires h (corner ha hb).2⟩,
      aluR_retires h (clz_eq a), aluR_retires h (ctz_eq a), aluR_retires h (popc_eq a)⟩
  · intro s n k rd rs1 i x h a
    have sltImm : flag (slt a (imm14 i)) = if a.toInt < i.toInt then 1 else 0 := by rw [flag_slt, toInt_imm14]
    have sltuImm : flag (ult a (imm14 i)) = if a < i.signExtend 64 then 1 else 0 := by rw [flag_ult, imm14_eq]
    exact ⟨aluI_retires h (congrArg (a + ·) (imm14_eq i)), aluI_retires h (congrArg (a &&& ·) (imm14_eq i)),
      aluI_retires h (congrArg (a ||| ·) (imm14_eq i)), aluI_retires h (congrArg (a ^^^ ·) (imm14_eq i)),
      aluI_retires h sltImm, aluI_retires h sltuImm,
      fun m => ⟨shiftI_retires h 0 rd rs1 m _, shiftI_retires h 1 rd rs1 m _, shiftI_retires h 2 rd rs1 m _⟩,
      fun h2 => ⟨aluX_retires h h2 rfl (imm40_eq x), fun y => lihx_retires h h2 rd y,
        aluX_retires h h2 rfl (congrArg (a + ·) (imm40_eq x)), aluX_retires h h2 rfl (congrArg (a &&& ·) (imm40_eq x))⟩⟩

end Sys2Proof.Machine
end

/-! # Head time-outs, retirement in order, FLUSH and RESUME (O21: R86, R87, R97, R98, R101) -/

section
namespace Sys2Proof.Machine
open Sys2Proof

/-! ## Register words -/

theorem bitAt_stick_same (w : Word) {i : Nat} (h : i < 64) : bitAt (stick w i) i = true := by
  have hput : (put 1 i).getLsbD i = true := by
    rw [put, BitVec.getLsbD_ofNat, Nat.one_shiftLeft, Nat.testBit_two_pow_self]
    simp only [h, decide_true, Bool.and_self]
  change (w ||| put 1 i).getLsbD i = true
  rw [BitVec.getLsbD_or, hput, Bool.or_true]

theorem bitAt_stick_of_bitAt {w : Word} {i : Nat} (j : Nat) (h : bitAt w i = true) : bitAt (stick w j) i = true := by
  change (w ||| put 1 j).getLsbD i = true
  rw [BitVec.getLsbD_or, show w.getLsbD i = true from h, Bool.true_or]

/-- The two fields of Q_LASTERR as one number. -/
theorem put_index_or_put_code (i : Nat) {code : Nat} (h : code < 256) :
    put i 8 ||| put code 0 = BitVec.ofNat 64 (i * 256 + code) := by
  rw [put, put, Nat.shiftLeft_zero, ← BitVec.ofNat_or, ← Nat.shiftLeft_add_eq_or_of_lt (i := 8) h, Nat.shiftLeft_eq]

theorem lset_eq_set {α : Type} (l : List α) (i : Nat) (v : α) : lset l i v = l.set i v := by
  induction l generalizing i with
  | nil => rfl
  | cons x r ih =>
    cases i with
    | zero => rfl
    | succ i => rw [lset, ih, List.set_cons_succ]

/-! ## Operations beside the queues -/

/-- What flushes of windows and the end of a service command leave: the queues, the Sequencers, memory and the counters of
software (R63). -/
structure Aside (s t : State) : Prop where
  queues : t.queues = s.queues
  seqs : t.seqs = s.seqs
  mem : t.mem = s.mem
  soft : ∀ c, 0xFF00 ≤ c → tget t.ctrs 0 c = tget s.ctrs 0 c

theorem Aside.refl (s : State) : Aside s s := ⟨rfl, rfl, rfl, fun _ _ => rfl⟩

theorem Aside.trans {s t u : State} (h : Aside s t) (k : Aside t u) : Aside s u :=
  ⟨k.queues.trans h.queues, k.seqs.trans h.seqs, k.mem.trans h.mem, fun c hc => (k.soft c hc).trans (h.soft c hc)⟩

/-- An update of none of those banks. -/
theorem Aside.of_eq {s t : State} (hq : t.queues = s.queues) (hs : t.seqs = s.seqs) (hm : t.mem = s.mem)
    (hc : t.ctrs = s.ctrs) : Aside s t := ⟨hq, hs, hm, fun _ _ => by rw [hc]⟩

theorem ctrAdd_aside (s : State) {k : Nat} (n : Nat) (h : k < 0xFF00) : Aside s (ctrAdd s k n) :=
  ⟨rfl, rfl, rfl, fun _ hc => ctrs_ctrAdd_other s n (Nat.ne_of_gt (Nat.lt_of_lt_of_le h hc))⟩

theorem errFlag_aside (s : State) (i : Nat) : Aside s (errFlag s i) := .of_eq rfl rfl rfl rfl

theorem Aside.foldl {α : Type} {f : Bool × State → α → Bool × State} (h : ∀ r x, Aside r.2 (f r x).2) (l : List α)
    (r : Bool × State) : Aside r.2 (l.foldl f r).2 := by
  induction l generalizing r with
  | nil => exact .refl r.2
  | cons x l ih => exact (h r x).trans (ih _)

theorem tally_aside (s : State) (t r n : Nat) : Aside s (tally s t r n) := by
  unfold tally; split
  · exact .refl s
  · exact .of_eq rfl rfl rfl rfl

theorem tierTouch_t3_aside (s : State) (t n : Nat) : Aside s (tierTouch s t 3 n) := by
  refine ((ctrAdd_aside s n (by decide)).trans (tally_aside (ctrAdd s (0x9120 + 3) n) t (0x10 + 3) n)).trans ?_
  unfold tierTouch
  dsimp only
  split
  · exact .refl _
  · split
    · refine Aside.trans ?_ (ctrAdd_aside _ 1 (by decide))
      exact .of_eq rfl rfl rfl rfl
    · exact .of_eq rfl rfl rfl rfl

/-- A record of SEV below 3 joins the log writer's queue, or is dropped: it waits for no place there. -/
theorem recQueue_aside (s : State) {r : LogRec} (h : r.sev ≠ 3) : Aside s (recQueue s r) := by
  unfold recQueue
  dsimp only
  split
  · next hn =>
    have free : s.err.queue.length < 224 := by simpa only [h, decide_false, Bool.false_or, decide_eq_true_eq] using hn
    have room : logRoom s = s := by
      unfold logRoom; split
      · rfl
      · rw [if_pos (Nat.lt_trans free (by decide))]
    rw [room]
    exact .of_eq rfl rfl rfl rfl
  · refine Aside.trans (Aside.trans ?_ (ctrAdd_aside _ 1 (by decide))) (errFlag_aside _ 9)
    exact .of_eq rfl rfl rfl rfl

/-- The record of a failed access to a window has SEV 2, and nothing else counts it. -/
theorem t3Loss_aside (s : State) (w : Who) (p : HostPort) (c : Nat) : Aside s (t3Loss s w p c) := by
  have note : noteKind s 8 = s := rfl
  unfold t3Loss logRec
  rw [note]
  dsimp only
  split
  · split
    · exact .of_eq rfl rfl rfl rfl
    · exact recQueue_aside s (by decide : kindSev 8 ≠ 3)
  · exact .refl s

theorem segRead_aside (s : State) (w : Who) (p : HostPort) (a n : Nat) : Aside s (segRead s w p a n).s := by
  unfold segRead; split
  · exact t3Loss_aside s w p _
  · split
    · exact Aside.trans (t := hostFlag (tick1 s) p 3) (.of_eq rfl rfl rfl rfl) (t3Loss_aside _ w p 1)
    · exact Aside.trans (t := tick1 s) (.of_eq rfl rfl rfl rfl) (tierTouch_t3_aside _ w.tenant n)

theorem t3Flush_aside (s : State) (q : Nat) (e : Entry) : Aside s (t3Flush s q e).2 := by
  refine Aside.foldl (fun r p => ?_) _ (true, s)
  refine Aside.trans ?_ (segRead_aside _ _ p _ _)
  split
  · exact .refl r.2
  · exact .of_eq rfl rfl rfl rfl

theorem svcEnd_aside (s : State) (r : Nat) : Aside s (svcEnd s r) := by
  refine Aside.trans ?_ (ctrAdd_aside _ 1 (by decide))
  exact .of_eq rfl rfl rfl rfl

theorem settleUnit_aside (s : State) (c u : Nat) : Aside s (settleUnit s c u) := by
  have ended {t : State} (h : Aside s t) : Aside s (if t.boot.svc = .resume c u then svcEnd t 0 else t) := by
    split
    · exact h.trans (svcEnd_aside t 0)
    · exact h
  unfold settleUnit
  dsimp only
  split
  · split
    · split
      · exact ended (.of_eq rfl rfl rfl rfl)
      · exact ended (.refl s)
    · exact .refl s
  · split
    · exact .of_eq rfl rfl rfl rfl
    · exact .refl s
  · exact .refl s

/-! ## Operations on one queue -/

/-- Of the queues only `q` may have changed, and neither a Sequencer nor memory has. -/
structure OnlyQueue (s t : State) (q : Nat) : Prop where
  others : OtherQueues s t q
  seqs : t.seqs = s.seqs
  mem : t.mem = s.mem

theorem OnlyQueue.refl (s : State) (q : Nat) : OnlyQueue s s q := ⟨fun _ _ => rfl, rfl, rfl⟩

theorem OnlyQueue.trans {s t u : State} {q : Nat} (h : OnlyQueue s t q) (k : OnlyQueue t u q) : OnlyQueue s u q :=
  ⟨fun j hj => (k.others j hj).trans (h.others j hj), k.seqs.trans h.seqs, k.mem.trans h.mem⟩

theorem OnlyQueue.foldl {α : Type} {f : State → α → State} {q : Nat} (h : ∀ s x, OnlyQueue s (f s x) q) (l : List α)
    (s : State) : OnlyQueue s (l.foldl f s) q := by
  induction l generalizing s with
  | nil => exact .refl s q
  | cons x l ih => exact (h s x).trans (ih _)

theorem queueOf_congr {s t : State} (h : t.queues = s.queues) (q : Nat) : queueOf t q = queueOf s q := by
  rw [queueOf, queueOf, h]

theorem Aside.onlyQueue {s t : State} (h : Aside s t) (q : Nat) : OnlyQueue s t q :=
  ⟨fun j _ => queueOf_congr h.queues j, h.seqs, h.mem⟩

theorem updQueue_onlyQueue (s : State) (q : Nat) (f : Queue → Queue) : OnlyQueue s (updQueue s q f) q :=
  ⟨fun _ hj => queueOf_updQueue_other s f hj, rfl, rfl⟩

theorem ctrAdd_onlyQueue (s : State) (k n q : Nat) : OnlyQueue s (ctrAdd s k n) q := ⟨fun _ _ => rfl, rfl, rfl⟩

theorem signal_onlyQueue (s : State) (e : Entry) (q : Nat) : OnlyQueue s (signal s e) q := by
  unfold signal; dsimp only; split
  · exact ctrAdd_onlyQueue ..
  · exact .refl s q

theorem noteResult_onlyQueue (s : State) (q : Nat) (i : Word) (code : Nat) : OnlyQueue s (noteResult s q i code) q := by
  unfold noteResult; split
  · exact (updQueue_onlyQueue s q _).trans (ctrAdd_onlyQueue ..)
  · split
    · exact .refl s q
    · exact updQueue_onlyQueue s q _

theorem passPrefix_onlyQueue (k : Nat) (s : State) (q : Nat) : OnlyQueue s (passPrefix k s q) q := by
  induction k generalizing s with
  | zero => exact .refl s q
  | succ k ih =>
    unfold passPrefix; split
    · split
      · exact ((updQueue_onlyQueue s q _).trans (signal_onlyQueue _ _ q)).trans (ih _)
      · exact .refl s q
    · exact .refl s q

theorem retireEntry_onlyQueue (s : State) (q : Nat) (i : Word) (code : Nat) : OnlyQueue s (retireEntry s q i code) q := by
  unfold retireEntry; split
  · exact .refl s q
  · exact ((updQueue_onlyQueue s q _).trans (noteResult_onlyQueue _ q i code)).trans (passPrefix_onlyQueue _ _ q)

/-! ## The note of a result (R97) -/

/-- The queue once the result of descriptor `i` has been noted. -/
def noted (x : Queue) (i : Word) (code : Nat) : Queue :=
  if code = 0 then { x with completed := x.completed + 1 }
  else if code = cCancelled then x
  else { x with
    rejects := x.rejects + 1, sticky := stick x.sticky 1, lastErr := put (i.toNat % 2 ^ 40) 8 ||| put code 0,
    halted := x.halted || bitAt x.ctl 2 }

@[simp] theorem queueOf_noteResult (s : State) (q : Nat) (i : Word) (code : Nat) :
    queueOf (noteResult s q i code) q = noted (queueOf s q) i code := by
  unfold noteResult noted; split
  · rw [queueOf_congr (ctrAdd_queues ..), queueOf_updQueue_same]
  · split
    · rfl
    · rw [queueOf_updQueue_same]

@[simp] theorem noted_entries (x : Queue) (i : Word) (code : Nat) : (noted x i code).entries = x.entries := by
  unfold noted; split
  · rfl
  · split <;> rfl

@[simp] theorem noted_retired (x : Queue) (i : Word) (code : Nat) : (noted x i code).retired = x.retired := by
  unfold noted; split
  · rfl
  · split <;> rfl

@[simp] theorem noted_cancelled (x : Queue) (i : Word) : noted x i cCancelled = x := rfl

/-- Q_STATUS's sticky bits stay as a result is noted. -/
theorem bitAt_noted_sticky {x : Queue} {j : Nat} (i : Word) (code : Nat) (h : bitAt x.sticky j = true) :
    bitAt (noted x i code).sticky j = true := by
  unfold noted; split
  · exact h
  · split
    · exact h
    · exact bitAt_stick_of_bitAt 1 h

theorem ctrGet_soft (s : State) {c : Nat} (h : 0xFF00 ≤ c) : ctrGet s c = tget s.ctrs 0 c := by
  rw [ctrGet, if_neg (by omega), if_neg (by omega)]

theorem Aside.ctrGet {s t : State} (h : Aside s t) {c : Nat} (lo : 0xFF00 ≤ c) : ctrGet t c = ctrGet s c := by
  rw [ctrGet_soft _ lo, ctrGet_soft _ lo, h.soft c lo]

/-- A result is counted per class, in no counter of software. -/
theorem ctrGet_noteResult (s : State) (q : Nat) (i : Word) (code : Nat) {c : Nat} (h : 0xFF00 ≤ c) :
    ctrGet (noteResult s q i code) c = ctrGet s c := by
  have hq : qClass q < 16 := Nat.mod_lt _ (by decide)
  rw [ctrGet_soft _ h, ctrGet_soft _ h]
  unfold noteResult; split
  · exact ctrs_ctrAdd_other _ 1 (by omega)
  · split <;> rfl

/-! ## The retire counter passes the descriptors retired at the front (R86, R87) -/

/-- The number of retired descriptors at the front. -/
def doneCount (l : List Entry) : Nat := (l.takeWhile entryDone).length

/-- The queue once its retire counter has passed them. -/
def passDone (x : Queue) : Queue :=
  { x with entries := x.entries.drop (doneCount x.entries), retired := x.retired + BitVec.ofNat 64 (doneCount x.entries) }

/-- The passing of `e` increments counter `c`. -/
def signalsTo (c : Nat) (e : Entry) : Bool := hdrSG (hdr e) && hdrSigCtr (hdr e) = c

theorem passDone_of_takeWhile_nil {x : Queue} (h : x.entries.takeWhile entryDone = []) : passDone x = x := by
  simp only [passDone, doneCount, h, List.length_nil, List.drop_zero, BitVec.add_zero]

theorem passDone_cons {x : Queue} {e : Entry} {rest : List Entry} (h : x.entries = e :: rest) (he : entryDone e = true) :
    passDone x = passDone { x with entries := rest, retired := x.retired + 1 } := by
  have counts (r : Word) (n : Nat) : r + BitVec.ofNat 64 (n + 1) = r + 1 + BitVec.ofNat 64 n := by
    rw [Nat.add_comm n 1, BitVec.ofNat_add, ← BitVec.add_assoc]; rfl
  simp only [passDone, doneCount, h, List.takeWhile_cons, he, if_true, List.length_cons, List.drop_succ_cons, counts]

theorem queueOf_signal (s : State) (e : Entry) (q : Nat) : queueOf (signal s e) q = queueOf s q := by
  unfold signal; dsimp only; split <;> rfl

theorem ctrGet_signal (s : State) (e : Entry) {c : Nat} (lo : 0xFF00 ≤ c) (hi : c ≤ 0xFFFF) :
    ctrGet (signal s e) c = ctrGet s c + BitVec.ofNat 64 (bit (signalsTo c e)) := by
  rw [ctrGet_soft _ lo, ctrGet_soft _ lo]
  unfold signal signalsTo
  dsimp only
  by_cases hc : hdrSigCtr (hdr e) = c
  · have soft : softCtr (hdrSigCtr (hdr e)) = true := by simp only [softCtr, hc, lo, hi, decide_true, Bool.and_self]
    rw [soft, Bool.and_true, hc, decide_eq_true rfl, Bool.and_true]
    cases hdrSG (hdr e)
    · exact (BitVec.add_zero _).symm
    · exact ctrs_ctrAdd_same s c 1
  · have other : tget (ctrAdd s (hdrSigCtr (hdr e)) 1).ctrs 0 c = tget s.ctrs 0 c := ctrs_ctrAdd_other s 1 (Ne.symm hc)
    simp only [hc, decide_false, Bool.and_false, bit, Bool.false_eq_true, if_false, BitVec.add_zero]
    split
    · exact other
    · rfl

/-- The retire counter of `q` passes the descriptors retired at its front, and each passing increments its counter of software. -/
def PassesPrefix (s t : State) (q : Nat) : Prop :=
  queueOf t q = passDone (queueOf s q) ∧
  ∀ c, 0xFF00 ≤ c → c ≤ 0xFFFF → ctrGet t c =
    ctrGet s c + BitVec.ofNat 64 (((queueOf s q).entries.takeWhile entryDone).countP (signalsTo c))

theorem PassesPrefix.of_takeWhile_nil {s : State} {q : Nat} (h : (queueOf s q).entries.takeWhile entryDone = []) :
    PassesPrefix s s q :=
  ⟨(passDone_of_takeWhile_nil h).symm, fun c _ _ => by rw [h, List.countP_nil]; exact (BitVec.add_zero _).symm⟩

/-- With fuel for every entry the counter passes all of them. -/
theorem passPrefix_passes (k : Nat) (s : State) (q : Nat) (hk : (queueOf s q).entries.length ≤ k) :
    PassesPrefix s (passPrefix k s q) q := by
  induction k generalizing s with
  | zero =>
    exact .of_takeWhile_nil (by rw [List.eq_nil_of_length_eq_zero (Nat.le_zero.1 hk), List.takeWhile_nil])
  | succ k ih =>
    unfold passPrefix
    split
    · next e rest hes =>
      split
      · next he =>
        have step : queueOf (signal (updQueue s q (fun x => { x with entries := rest, retired := x.retired + 1 })) e) q =
            { queueOf s q with entries := rest, retired := (queueOf s q).retired + 1 } := by
          rw [queueOf_signal, queueOf_updQueue_same]
        rw [hes, List.length_cons] at hk
        obtain ⟨hq, hc⟩ := ih _ (by rw [step]; exact Nat.le_of_succ_le_succ hk)
        refine ⟨by rw [hq, step, passDone_cons hes he], fun c lo hi => ?_⟩
        have kept : ctrGet (updQueue s q (fun x => { x with entries := rest, retired := x.retired + 1 })) c = ctrGet s c := by
          rw [ctrGet_soft _ lo, ctrGet_soft _ lo]; rfl
        rw [hc c lo hi, ctrGet_signal _ e lo hi, kept, step, hes, List.takeWhile_cons, if_pos he, List.countP_cons,
          BitVec.add_assoc, ← BitVec.ofNat_add, Nat.add_comm]
      · next he => exact .of_takeWhile_nil (by rw [hes, List.takeWhile_cons, if_neg he])
    · next hes => exact .of_takeWhile_nil (by rw [hes, List.takeWhile_nil])

/-! ## The retirement of one descriptor -/

/-- The queue with the result of descriptor `i`, whose entry is `e`, entered and noted, before the counter passes any. -/
def resultIn (x : Queue) (i : Word) (e : Entry) (code : Nat) : Queue :=
  noted { x with entries := x.entries.set (i - x.retired).toNat { e with st := .retired code } } i code

/-- The state at that moment. -/
def entered (s : State) (q : Nat) (i : Word) (e : Entry) (code : Nat) : State :=
  noteResult (setEntry s q i { e with st := .retired code }) q i code

theorem queueOf_entered (s : State) (q : Nat) (i : Word) (e : Entry) (code : Nat) :
    queueOf (entered s q i e code) q = resultIn (queueOf s q) i e code := by
  rw [entered, queueOf_noteResult, queueOf_setEntry_same, lset_eq_set, resultIn]

theorem ctrGet_entered (s : State) (q : Nat) (i : Word) (e : Entry) (code : Nat) {c : Nat} (lo : 0xFF00 ≤ c) :
    ctrGet (entered s q i e code) c = ctrGet s c := by
  rw [entered, ctrGet_noteResult _ _ _ _ lo, ctrGet_soft _ lo, ctrGet_soft _ lo]; rfl

theorem retireEntry_of_entryAt {s : State} {q : Nat} {i : Word} {e : Entry} (he : entryAt s q i = some e) (code : Nat) :
    retireEntry s q i code =
      passPrefix (queueOf (entered s q i e code) q).entries.length (entered s q i e code) q := by
  unfold retireEntry; rw [he]; rfl

/-- What the retirement of a descriptor makes of its queue and of the counters of software. -/
theorem retireEntry_spec {s : State} {q : Nat} {i : Word} {e : Entry} (he : entryAt s q i = some e) (code : Nat) :
    queueOf (retireEntry s q i code) q = passDone (resultIn (queueOf s q) i e code) ∧
    ∀ c, 0xFF00 ≤ c → c ≤ 0xFFFF → ctrGet (retireEntry s q i code) c = ctrGet s c + BitVec.ofNat 64
      (((resultIn (queueOf s q) i e code).entries.takeWhile entryDone).countP (signalsTo c)) := by
  obtain ⟨passed, signalled⟩ := passPrefix_passes _ (entered s q i e code) q (Nat.le_refl _)
  rw [← retireEntry_of_entryAt he, queueOf_entered] at passed signalled
  exact ⟨passed, fun c lo hi => by rw [signalled c lo hi, ctrGet_entered _ _ _ _ _ lo]⟩

/-- A code that is neither OK nor CANCELLED is a rejection or a failure, and is noted as one. -/
theorem retireEntry_rejected {s : State} {q : Nat} {i : Word} {e : Entry} (he : entryAt s q i = some e) {code : Nat}
    (ok : code ≠ 0) (cancelled : code ≠ cCancelled) (small : code < 0x100) :
    Rejected s (retireEntry s q i code) q i code := by
  have hq := (retireEntry_spec he code).1
  unfold Rejected
  dsimp only
  rw [hq, resultIn, noted, if_neg ok, if_neg cancelled]
  exact ⟨rfl, bitAt_stick_same _ (by decide), put_index_or_put_code _ small, rfl, rfl⟩

/-- What is noted shows in the queue alone. -/
theorem Rejected.congr {s s' t t' : State} {q : Nat} {i : Word} {code : Nat} (h : Rejected s t q i code)
    (hs : queueOf s' q = queueOf s q) (ht : queueOf t' q = queueOf t q) : Rejected s' t' q i code := by
  unfold Rejected at h ⊢
  rw [hs, ht]
  exact h

/-! ## WAIT_TIMEOUT (R101) -/

theorem entryAt_eq (s : State) (q : Nat) (i : Word) :
    entryAt s q i = (queueOf s q).entries[(i - (queueOf s q).retired).toNat]? := rfl

/-- The index of the head names the head. -/
theorem entryAt_headIndex {s : State} {q : Nat} {e : Entry} (h : headEntry (queueOf s q) = some e)
    (bounded : (queueOf s q).entries.length < 2 ^ 64) : entryAt s q (headIndex (queueOf s q)) = some e := by
  have inside : headPos (queueOf s q) < (queueOf s q).entries.length := (List.getElem?_eq_some_iff.1 h).1
  have pos : (headIndex (queueOf s q) - (queueOf s q).retired).toNat = headPos (queueOf s q) := by
    rw [headIndex, BitVec.add_comm, BitVec.add_sub_cancel, BitVec.toNat_ofNat, Nat.mod_eq_of_lt (Nat.lt_trans inside bounded)]
  rw [entryAt_eq, pos]
  exact h

theorem headWaits_of_head {s : State} {x : Queue} {e : Entry} (head : headEntry x = some e) :
    headWaits s x = (x.checked && hdrWT (hdr e) && !(satisfies (ctrGet s (hdrWaitCtr (hdr e))) (targetWord e))) := by
  unfold headWaits; rw [head]

/-- Where nothing holds the head, or no time-out is set, none comes. -/
theorem execWaitTimeout_waits {s : State} {q : BitVec 16}
    (h : fld (queueOf s q.toNat).ctl 47 32 = 0 ∨ headWaits s (queueOf s q.toNat) = false) :
    execWaitTimeout q s = .next s := by
  unfold execWaitTimeout
  dsimp only
  rw [if_neg]
  rcases h with tmo | met
  · simp [tmo]
  · simp [met]

section
variable {s : State} {q : BitVec 16} (named : qExists q.toNat = true) (enabled : bitAt (queueOf s q.toNat).ctl 0 = true)
  (running : (queueOf s q.toNat).halted = false) (waits : headWaits s (queueOf s q.toNat) = true)
  (tmo : fld (queueOf s q.toNat).ctl 47 32 ≠ 0)
  (late : (queueOf s q.toNat).waitStart.toNat + fld (queueOf s q.toNat).ctl 47 32 * 1000 ≤ s.tb.time.toNat)
include named enabled running waits tmo late

/-- Where the wait of an enabled queue's head has lasted its time, the head is rejected. -/
theorem execWaitTimeout_expires :
    execWaitTimeout q s = .next (retireEntry
      (updQueue s q.toNat (fun x => { x with checked := false, sticky := stick x.sticky 2 })) q.toNat
      (headIndex (queueOf s q.toNat)) cWaitTimeout) := by
  unfold execWaitTimeout
  dsimp only
  rw [if_pos]
  simp [named, qEnabled, enabled, running, waits, tmo, now, late]

/-- A wait that has lasted WAIT_TMO_US µs ends in a rejection. -/
theorem waitTimeout_expires {e : Entry} (head : headEntry (queueOf s q.toNat) = some e)
    (bounded : (queueOf s q.toNat).entries.length < 2 ^ 64) :
    Completes (.waitTimeout q) s (fun t =>
      Rejected s t q.toNat (headIndex (queueOf s q.toNat)) 0x0D ∧ bitAt (queueOf t q.toNat).sticky 2 = true ∧
      OtherQueues s t q.toNat ∧ t.seqs = s.seqs) := by
  refine ⟨_, execWaitTimeout_expires named enabled running waits tmo late, ?_⟩
  generalize hk : q.toNat = k at *
  generalize hu : updQueue s k (fun x => { x with checked := false, sticky := stick x.sticky 2 }) = u
  have marked : queueOf u k = { queueOf s k with checked := false, sticky := stick (queueOf s k).sticky 2 } := by
    rw [← hu, queueOf_updQueue_same]
  have found : entryAt u k (headIndex (queueOf s k)) = some e := by
    rw [entryAt_eq, marked]
    exact entryAt_headIndex head bounded
  have frame : OnlyQueue s (retireEntry u k (headIndex (queueOf s k)) cWaitTimeout) k :=
    (hu ▸ updQueue_onlyQueue s k _).trans (retireEntry_onlyQueue u k _ _)
  refine ⟨?_, ?_, frame.others, frame.seqs⟩
  · have rejected := retireEntry_rejected found (code := cWaitTimeout) (by decide) (by decide) (by decide)
    unfold Rejected at rejected ⊢
    rw [marked] at rejected
    exact rejected
  · rw [(retireEntry_spec found cWaitTimeout).1]
    refine bitAt_noted_sticky _ _ ?_
    rw [marked]
    exact bitAt_stick_same _ (by decide)

end

/-! ## DESC_RETIRE (R86, R87, R97, R261) -/

/-- A finished descriptor of an engine but an NBU flushes the windows that it wrote, and retires. -/
theorem execDescRetire_finished {s : State} {q : BitVec 16} {i : Word} {e : Entry} {code : Nat} (named : qExists q.toNat = true)
    (engine : qClass q.toNat ≠ 8) (he : entryAt s q.toNat i = some e) (done : e.st = .finished code) :
    execDescRetire q i s = .next (settleUnit (retireEntry (t3Flush s q.toNat e).2 q.toNat i
      (if code = 0 ∧ (t3Flush s q.toNat e).1 = false then cMemerr else code)) (qClass q.toNat) (qUnit q.toNat)) := by
  have idle : banksBusy s q.toNat e = false := by simp [banksBusy, engine]
  unfold execDescRetire
  simp [he, done, named, idle, engine]

/-- A finished descriptor retires with its code. -/
theorem descRetire_finished {s : State} {q : BitVec 16} {i : Word} {e : Entry} {code : Nat} (named : qExists q.toNat = true)
    (engine : qClass q.toNat ≠ 8) (he : entryAt s q.toNat i = some e) (done : e.st = .finished code) (small : code < 0x100)
    (notCancelled : code ≠ cCancelled) :
    let k := q.toNat
    let x := queueOf s k
    let last := if code = 0 ∧ (t3Flush s k e).1 = false then cMemerr else code
    let es := lset x.entries (i - x.retired).toNat { e with st := .retired last }
    Completes (.descRetire q i) s (fun t =>
      let y := queueOf t k
      y.entries = es.drop (doneCount es) ∧ y.retired = x.retired + BitVec.ofNat 64 (doneCount es) ∧
      (∀ c, 0xFF00 ≤ c → c ≤ 0xFFFF →
        ctrGet t c = ctrGet s c + BitVec.ofNat 64 ((es.takeWhile entryDone).countP (signalsTo c))) ∧
      (last = 0 → y.completed = x.completed + 1 ∧ y.rejects = x.rejects ∧ y.lastErr = x.lastErr) ∧
      (last ≠ 0 → Rejected s t k i last) ∧ OnlyQueue s t k) := by
  intro k x last es
  have flushed := t3Flush_aside s k e
  have settled := settleUnit_aside (retireEntry (t3Flush s k e).2 k i last) (qClass k) (qUnit k)
  have before : queueOf (t3Flush s k e).2 k = x := queueOf_congr flushed.queues k
  have found : entryAt (t3Flush s k e).2 k i = some e := by
    rw [entryAt_eq, before]
    exact he
  obtain ⟨passed, signalled⟩ := retireEntry_spec found last
  rw [before] at passed signalled
  have after := (queueOf_congr settled.queues k).trans passed
  have entered : (resultIn x i e last).entries = es := (noted_entries ..).trans (lset_eq_set ..).symm
  refine ⟨_, execDescRetire_finished named engine he done, ?_, ?_, fun c lo hi => ?_, fun ok => ?_, fun bad => ?_,
    ((flushed.onlyQueue k).trans (retireEntry_onlyQueue _ k i last)).trans (settled.onlyQueue k)⟩
  · rw [after, passDone, entered]
  · rw [after, passDone, entered, resultIn, noted_retired]
  · change ctrGet (settleUnit (retireEntry _ k i last) _ _) c = _
    rw [settled.ctrGet lo, signalled c lo hi, entered, flushed.ctrGet lo]
  · rw [after, ok]
    exact ⟨rfl, rfl, rfl⟩
  · have codes : last < 0x100 ∧ last ≠ cCancelled := by
      unfold last
      split
      · decide
      · exact ⟨small, notCancelled⟩
    exact (retireEntry_rejected found bad codes.2 codes.1).congr before.symm (queueOf_congr settled.queues k)

/-! ## FLUSH (R98) -/

/-- A descriptor not yet dispatched is cancelled; any other is as it was. -/
def cancelled (e : Entry) : Entry := if e.st = .queued then { e with st := .retired cCancelled } else e

/-- Queue `x`, its entries turned into `l`, has passed descriptors retired at its front; all of them, unless its head was
retired before. -/
def Flushed (x : Queue) (l : List Entry) (y : Queue) : Prop :=
  ∃ gone rest, l = gone ++ rest ∧ (∀ e ∈ gone, entryDone e = true) ∧
    y = { x with entries := rest, retired := x.retired + BitVec.ofNat 64 gone.length } ∧
    ((∀ e, x.entries.head? = some e → entryDone e = false) → rest.takeWhile entryDone = [])

theorem Flushed.refl (x : Queue) : Flushed x x.entries x := by
  refine ⟨[], x.entries, rfl, fun _ h => absurd h List.not_mem_nil, by rw [List.length_nil, BitVec.add_zero], fun h => ?_⟩
  cases hx : x.entries with
  | nil => rfl
  | cons e r => rw [List.takeWhile_cons, h e (by rw [hx]; rfl)]; rfl

theorem drop_doneCount (l : List Entry) : l.drop (doneCount l) = l.dropWhile entryDone := by
  have h := List.drop_left (l₁ := l.takeWhile entryDone) (l₂ := l.dropWhile entryDone)
  rwa [List.takeWhile_append_dropWhile] at h

theorem takeWhile_dropWhile_entryDone (l : List Entry) : (l.dropWhile entryDone).takeWhile entryDone = [] := by
  induction l with
  | nil => rfl
  | cons e r ih =>
    by_cases he : entryDone e = true
    · rw [List.dropWhile_cons_of_pos he, ih]
    · rw [List.dropWhile_cons_of_neg he, List.takeWhile_cons_of_neg he]

/-- Once the retire counter passes what it can, nothing retired is left at the front. -/
theorem Flushed.of_passDone (x : Queue) {gone : List Entry} (rest : List Entry) (hg : ∀ e ∈ gone, entryDone e = true) :
    Flushed x (gone ++ rest)
      (passDone { x with entries := rest, retired := x.retired + BitVec.ofNat 64 gone.length }) := by
  refine ⟨gone ++ rest.takeWhile entryDone, rest.dropWhile entryDone, ?_, fun e he => ?_, ?_, fun _ => ?_⟩
  · rw [List.append_assoc, List.takeWhile_append_dropWhile]
  · exact (List.mem_append.1 he).elim (hg e) (List.all_eq_true.1 List.all_takeWhile e)
  · rw [passDone, drop_doneCount, List.length_append, BitVec.ofNat_add, ← BitVec.add_assoc, doneCount]
  · exact takeWhile_dropWhile_entryDone rest

/-- What is gone lies before a descriptor that is not retired. -/
theorem Flushed.before_not_done {x y : Queue} {before after : List Entry} {e : Entry} (h : Flushed x (before ++ e :: after) y)
    (he : entryDone e = false) : ∃ gone kept, before = gone ++ kept ∧ (∀ d ∈ gone, entryDone d = true) ∧
      y = { x with entries := kept ++ e :: after, retired := x.retired + BitVec.ofNat 64 gone.length } := by
  obtain ⟨gone, rest, hl, hg, hy, -⟩ := h
  rcases List.append_eq_append_iff.1 hl with ⟨more, rfl, hrest⟩ | ⟨kept, rfl, rfl⟩
  · cases more with
    | nil => exact ⟨before, [], (List.append_nil _).symm, fun d hd => hg d (List.mem_append_left _ hd),
        by rw [hy, List.append_nil, hrest]; rfl⟩
    | cons d more =>
      have : entryDone e = true := by
        rw [(List.cons.inj hrest).1]
        exact hg d (List.mem_append_right _ List.mem_cons_self)
      exact absurd this (by rw [he]; decide)
  · exact ⟨gone, kept, rfl, hg, hy⟩

theorem cancelled_of_queued {e : Entry} (h : e.st = .queued) : cancelled e = { e with st := .retired cCancelled } := if_pos h

theorem cancelled_of_not_queued {e : Entry} (h : e.st ≠ .queued) : cancelled e = e := if_neg h

theorem entryDone_of_queued {e : Entry} (h : e.st = .queued) : entryDone e = false := by unfold entryDone; rw [h]

/-- The cancellation of a queued descriptor that `before.length` others precede. -/
theorem Flushed.cancel {s : State} {q : Nat} {x : Queue} {before after : List Entry} {e : Entry}
    (h : Flushed x (before ++ e :: after) (queueOf s q)) (he : e.st = .queued) (bounded : before.length < 2 ^ 64) :
    Flushed x (before ++ cancelled e :: after)
      (queueOf (retireEntry s q (x.retired + BitVec.ofNat 64 before.length) cCancelled) q) := by
  obtain ⟨gone, kept, rfl, hg, hy⟩ := h.before_not_done (entryDone_of_queued he)
  have pos : (x.retired + BitVec.ofNat 64 (gone ++ kept).length - (queueOf s q).retired).toNat = kept.length := by
    have : x.retired + BitVec.ofNat 64 (gone ++ kept).length - (queueOf s q).retired = BitVec.ofNat 64 kept.length := by
      have passed : (queueOf s q).retired = x.retired + BitVec.ofNat 64 gone.length := by rw [hy]
      rw [passed, List.length_append, BitVec.ofNat_add, ← BitVec.add_assoc, BitVec.add_comm, BitVec.add_sub_cancel]
    rw [List.length_append] at bounded
    rw [this, BitVec.toNat_ofNat, Nat.mod_eq_of_lt (by omega)]
  have found : entryAt s q (x.retired + BitVec.ofNat 64 (gone ++ kept).length) = some e := by
    rw [entryAt_eq, pos, hy, List.getElem?_append_right (Nat.le_refl _), Nat.sub_self]
    rfl
  have entered : resultIn (queueOf s q) (x.retired + BitVec.ofNat 64 (gone ++ kept).length) e cCancelled =
      { x with entries := kept ++ cancelled e :: after, retired := x.retired + BitVec.ofNat 64 gone.length } := by
    rw [resultIn, noted_cancelled, pos, hy, List.set_append_right _ _ (Nat.le_refl _), Nat.sub_self, List.set_cons_zero,
      cancelled_of_queued he]
  rw [(retireEntry_spec found cCancelled).1, entered, List.append_assoc]
  exact .of_passDone x _ hg

theorem indicesOf_append_singleton (x : Queue) (l : List Entry) (e : Entry) (p : Entry → Bool) :
    indicesOf { x with entries := l ++ [e] } p =
      indicesOf { x with entries := l } p ++ if p e then [x.retired + BitVec.ofNat 64 l.length] else [] := by
  have same : ∀ k ∈ List.range l.length, (l ++ [e])[k]? = l[k]? := fun k hk =>
    List.getElem?_append_left (List.mem_range.1 hk)
  unfold indicesOf
  dsimp only
  rw [List.length_append, List.length_singleton, List.range_succ, List.filter_append, List.map_append]
  congr 1
  · refine congrArg (List.map _) (List.filter_congr fun k hk => ?_)
    rw [same k hk]
  · cases h : p e <;> simp [h]

/-- The oldest `n` descriptors, those of them that are queued cancelled one after the other, with the retire counter passing
what it can each time. -/
theorem cancelOldest_flushed {s : State} {q : Nat} {x : Queue} (hx : queueOf s q = x) (bounded : x.entries.length < 2 ^ 64)
    {n : Nat} (hn : n ≤ x.entries.length) :
    Flushed x ((x.entries.take n).map cancelled ++ x.entries.drop n)
      (queueOf ((indicesOf { x with entries := x.entries.take n } (fun e => e.st = .queued)).foldl
        (fun s i => retireEntry s q i cCancelled) s) q) := by
  induction n with
  | zero =>
    change Flushed x x.entries (queueOf s q)
    rw [hx]
    exact .refl x
  | succ n ih =>
    have h := ih (Nat.le_of_succ_le hn)
    have count : ((x.entries.take n).map cancelled).length = n := by
      rw [List.length_map, List.length_take, Nat.min_eq_left (Nat.le_of_succ_le hn)]
    rw [List.drop_eq_getElem_cons hn] at h
    rw [List.take_succ_eq_append_getElem hn, indicesOf_append_singleton, List.foldl_append, List.map_append,
      List.append_assoc, List.map_singleton, List.singleton_append]
    by_cases he : x.entries[n].st = .queued
    · rw [if_pos (decide_eq_true he)]
      have step := Flushed.cancel h he (by rw [count]; exact Nat.lt_trans hn bounded)
      rw [List.length_map] at step
      exact step
    · rw [if_neg (by rwa [decide_eq_true_eq]), cancelled_of_not_queued he]
      exact h

theorem cancelled_not_queued (e : Entry) : (cancelled e).st ≠ .queued := by
  by_cases h : e.st = .queued
  · rw [cancelled_of_queued h]; exact EntrySt.noConfusion
  · rwa [cancelled_of_not_queued h]

theorem filter_inFlight_map_cancelled (l : List Entry) : (l.map cancelled).filter inFlight = l.filter inFlight := by
  induction l with
  | nil => rfl
  | cons e r ih =>
    by_cases h : e.st = .queued
    · have waits : inFlight e = false := by unfold inFlight; rw [h]
      have ended : inFlight (cancelled e) = false := by rw [cancelled_of_queued h]; rfl
      rw [List.map_cons, List.filter_cons_of_neg (by rw [ended]; decide), List.filter_cons_of_neg (by rw [waits]; decide), ih]
    · rw [List.map_cons, cancelled_of_not_queued h, List.filter_cons, List.filter_cons, ih]

theorem not_inFlight_of_entryDone {e : Entry} (h : entryDone e = true) : inFlight e = false := by
  unfold entryDone at h
  unfold inFlight
  split at h
  · next c hst => rw [hst]
  · cases h

/-- What a flushed queue holds: nothing that is queued, and every descriptor that was dispatched. -/
theorem Flushed.entries {x y : Queue} (h : Flushed x (x.entries.map cancelled) y) :
    (∀ e ∈ y.entries, e.st ≠ .queued) ∧ y.entries.filter inFlight = x.entries.filter inFlight := by
  obtain ⟨gone, rest, hl, hg, hy, -⟩ := h
  rw [hy]
  constructor
  · intro e he
    have : e ∈ x.entries.map cancelled := hl ▸ List.mem_append_right gone he
    obtain ⟨d, -, rfl⟩ := List.mem_map.1 this
    exact cancelled_not_queued d
  · have allDone : gone.filter inFlight = [] :=
      List.filter_eq_nil_iff.2 fun e he => by rw [not_inFlight_of_entryDone (hg e he)]; decide
    rw [← filter_inFlight_map_cancelled x.entries, hl, List.filter_append, allDone, List.nil_append]

/-- Where the head was not retired, all that is now retired at the front is gone, and nothing else. -/
theorem Flushed.passed {x y : Queue} {l : List Entry} (h : Flushed x l y)
    (head : ∀ e, x.entries.head? = some e → entryDone e = false) :
    y.entries = l.drop (doneCount l) ∧ y.retired = x.retired + BitVec.ofNat 64 (doneCount l) := by
  obtain ⟨gone, rest, rfl, hg, rfl, all⟩ := h
  have count : doneCount (gone ++ rest) = gone.length := by
    rw [doneCount, List.takeWhile_append_of_pos hg, all head, List.append_nil]
  rw [count, List.drop_left]
  exact ⟨rfl, rfl⟩

theorem flushQueue_onlyQueue (s : State) (q : Nat) : OnlyQueue s (flushQueue s q) q :=
  (OnlyQueue.foldl (fun s i => retireEntry_onlyQueue s q i cCancelled) _ s).trans (updQueue_onlyQueue _ q _)

/-- FLUSH cancels every descriptor that is queued, and the next head is yet to be checked. -/
theorem flushQueue_flushed {s : State} {q : Nat} (bounded : (queueOf s q).entries.length < 2 ^ 64) :
    ∃ y, Flushed (queueOf s q) ((queueOf s q).entries.map cancelled) y ∧
      queueOf (flushQueue s q) q = { y with checked := false } := by
  have h := cancelOldest_flushed (s := s) (q := q) rfl bounded (Nat.le_refl _)
  rw [List.take_length, List.drop_length, List.append_nil] at h
  exact ⟨_, h, queueOf_updQueue_same ..⟩

/-! ## QCTL written by a function (R102) -/

/-- QCTL's own bits are written, and RESUME ends HALTED. -/
def qctlWritten (v : Word) (x : Queue) : Queue := { x with ctl := v &&& qctlMask, halted := x.halted && !(bitAt v 3) }

section
variable {s : State} {p : HostPort} {q : BitVec 16} {v : Word} (ok : accOk s (.pf p) = true)
  (named : qExists q.toNat = true)
include ok named

theorem execFlush_pf (flush : bitAt v 1 = true) :
    execFlush (.pf p) q v s = .next (flushQueue (updQueue s q.toNat (qctlWritten v)) q.toNat) := by
  have both : (qExists q.toNat && bitAt v 1) = true := by rw [named, flush]; rfl
  rw [execFlush, accDo_ok _ ok, accDrain_pf, if_pos both, wrQctl, if_pos flush]
  rfl

theorem execQueueResume_pf (resume : bitAt v 3 = true) (flush : bitAt v 1 = false) :
    execQueueResume (.pf p) q v s = .next (updQueue s q.toNat (qctlWritten v)) := by
  have both : (qExists q.toNat && bitAt v 3) = true := by rw [named, resume]; rfl
  rw [execQueueResume, accDo_ok _ ok, accDrain_pf, if_pos both, wrQctl, if_neg (by rw [flush]; decide)]
  rfl

end

theorem qctlWritten_resume {v : Word} (resume : bitAt v 3 = true) (x : Queue) :
    qctlWritten v x = { x with ctl := v &&& 0x0000FFFF00000F05#64, halted := false } := by
  have writable : qctlMask = 0x0000FFFF00000F05#64 := by decide
  rw [qctlWritten, resume, writable, Bool.not_true, Bool.and_false]

/-- FLUSH by a function that reaches the registers. -/
theorem flush_pf {s : State} {p : HostPort} {q : BitVec 16} {v : Word} (ok : accOk s (.pf p) = true)
    (named : qExists q.toNat = true) (flush : bitAt v 1 = true)
    (bounded : (queueOf s q.toNat).entries.length < 2 ^ 64) :
    let x := queueOf s q.toNat
    let es := x.entries.map cancelled
    Completes (.flush (.pf p) q v) s (fun t =>
      let y := queueOf t q.toNat
      ((∀ e, x.entries.head? = some e → entryDone e = false) →
        y.entries = es.drop (doneCount es) ∧ y.retired = x.retired + BitVec.ofNat 64 (doneCount es)) ∧
      (∀ e ∈ y.entries, e.st ≠ .queued) ∧ y.entries.filter inFlight = x.entries.filter inFlight ∧
      y.rejects = x.rejects ∧ y.lastErr = x.lastErr ∧ y.completed = x.completed ∧ y.sticky = x.sticky ∧
      y.halted = (x.halted && !(bitAt v 3)) ∧ OnlyQueue s t q.toNat) := by
  intro x es
  have written : queueOf (updQueue s q.toNat (qctlWritten v)) q.toNat = qctlWritten v x := queueOf_updQueue_same ..
  obtain ⟨z, flushed, hy⟩ := flushQueue_flushed (s := updQueue s q.toNat (qctlWritten v)) (q := q.toNat)
    (by rw [written]; exact bounded)
  rw [written] at flushed
  refine ⟨_, execFlush_pf ok named flush, ?_⟩
  have frame := (updQueue_onlyQueue s q.toNat (qctlWritten v)).trans
    (flushQueue_onlyQueue (updQueue s q.toNat (qctlWritten v)) q.toNat)
  obtain ⟨unqueued, kept⟩ := flushed.entries
  have passed := flushed.passed
  obtain ⟨gone, rest, -, -, rfl, -⟩ := flushed
  dsimp only
  rw [hy]
  exact ⟨passed, unqueued, kept, rfl, rfl, rfl, rfl, rfl, frame⟩

/-! ## The obligation -/

/-- Settles O21: a time-out is the rejection of a head that its wait still holds; a retirement enters the code, notes it and
passes what has retired at the front; FLUSH is the retirement of each queued descriptor, oldest first, with CANCELLED. -/
theorem queueLife : Obligations.QueueLife := by
  refine ⟨?_, ?_, ?_⟩
  · intro s q e k x w tmo named enabled running checked head bounded wt met
    have held : headWaits s x = !(satisfies (ctrGet s (hdrWaitCtr w)) (targetWord e)) := by
      rw [headWaits_of_head head, checked, wt, Bool.true_and, Bool.true_and]
    refine ⟨fun h => ?_, fun h => execWaitTimeout_waits (.inl h), fun unmet htmo late => ?_⟩
    · exact execWaitTimeout_waits (.inr (by rw [held, satisfies, decide_eq_true h]; rfl))
    · have waits : headWaits s x = true := by rw [held, satisfies, decide_eq_false unmet]; rfl
      exact waitTimeout_expires named enabled running waits htmo late head bounded
  · intro s q i e code k x named engine he done small notCancelled last es passed
    obtain ⟨t, step, entries, retired, signals, counts, rejected, frame⟩ :=
      descRetire_finished named engine he done small notCancelled
    exact ⟨t, step, entries, retired, signals, counts, rejected, frame.others, frame.seqs, frame.mem⟩
  · intro s p q v ok named x
    refine ⟨fun flush bounded => ?_, fun resume flush => ?_⟩
    · obtain ⟨t, step, passed, unqueued, kept, rejects, lastErr, completed, sticky, halted, frame⟩ :=
        flush_pf ok named flush bounded
      exact ⟨t, step, passed, unqueued, kept, rejects, lastErr, completed, sticky, halted, frame.others,
        frame.seqs, frame.mem⟩
    · refine (execQueueResume_pf ok named resume flush).trans ?_
      rw [show qctlWritten v = _ from funext (qctlWritten_resume resume)]

end Sys2Proof.Machine
end

/-! # The Cleat, the channel and the doorbells of a mailbox (O40: R351 to R357) -/

section
namespace Sys2Proof.Machine
open Sys2Proof

/-! ## Flags and interrupts of a mailbox -/

theorem stick_eq_or_two_pow (w : Word) (i : Nat) : stick w i = w ||| BitVec.ofNat 64 (2 ^ i) := by
  rw [stick, put, Nat.one_shiftLeft]

/-- A mailbox with one more sticky bit. -/
def Mbx.flagged (x : Mbx) (i : Nat) : Mbx := { x with sticky := x.sticky ||| BitVec.ofNat 64 (2 ^ i) }

theorem mbxFlag_eq_updMbx (s : State) (k i : Nat) : mbxFlag s k i = updMbx s k (·.flagged i) := by
  simp only [Mbx.flagged, ← stick_eq_or_two_pow]; rfl

@[simp] theorem mbxOf_mbxFlag_same (s : State) (k i : Nat) : mbxOf (mbxFlag s k i) k = (mbxOf s k).flagged i := by
  rw [mbxFlag_eq_updMbx, mbxOf_updMbx_same]

/-- A raised vector shows in the host ports and the outbox alone. -/
theorem raiseIrq_eq_with_host_out (s : State) (p : HostPort) (fn vec : Nat) :
    ∃ h o, raiseIrq s p fn vec = { s with host := h, out := o } := by
  unfold raiseIrq; split
  · exact ⟨s.host, s.out, rfl⟩
  · split
    · exact ⟨_, s.out, rfl⟩
    · exact ⟨s.host, _, rfl⟩

theorem mbxIrq_eq_with_host_out (s : State) (k i : Nat) : ∃ h o, mbxIrq s k i = { s with host := h, out := o } := by
  unfold mbxIrq; dsimp only; split
  · exact raiseIrq_eq_with_host_out ..
  · exact ⟨s.host, s.out, rfl⟩

/-! ## One mailbox changes -/

/-- Of the mailboxes only `k` may have changed, and neither memory, a Sequencer nor a queue has. -/
structure OnlyMbx (s t : State) (k : Nat) : Prop where
  others : ∀ j, j ≠ k → mbxOf t j = mbxOf s j
  mem : t.mem = s.mem
  seqs : t.seqs = s.seqs
  queues : t.queues = s.queues

theorem OnlyMbx.frame {s t : State} {k : Nat} (h : OnlyMbx s t k) :
    (∀ j, j ≠ k → mbxOf t j = mbxOf s j) ∧ t.mem = s.mem ∧ t.seqs = s.seqs ∧ t.queues = s.queues :=
  ⟨h.others, h.mem, h.seqs, h.queues⟩

theorem OnlyMbx.refl (s : State) (k : Nat) : OnlyMbx s s k := ⟨fun _ _ => rfl, rfl, rfl, rfl⟩

theorem updMbx_onlyMbx (s : State) (k : Nat) (f : Mbx → Mbx) : OnlyMbx s (updMbx s k f) k :=
  ⟨fun _ hj => mbxOf_updMbx_other s f hj, rfl, rfl, rfl⟩

theorem mbxFlag_onlyMbx (s : State) (k i : Nat) : OnlyMbx s (mbxFlag s k i) k := updMbx_onlyMbx s k _

/-- The answer to a read leaves all mailboxes. -/
theorem OnlyMbx.emit {s t : State} {k : Nat} (h : OnlyMbx s t k) (o : Output) : OnlyMbx s (emit t o) k :=
  ⟨h.others, h.mem, h.seqs, h.queues⟩

/-- Counter `c` of mailbox `k` has counted one event (R357). -/
def CountsOnce (s t : State) (k c : Nat) : Prop :=
  tget t.ctrs 0 (0x9400 + k * 8 + c) = tget s.ctrs 0 (0x9400 + k * 8 + c) + 1

/-- A counted event made mailbox `k` into `x`. -/
structure MbxEvent (s t : State) (k c : Nat) (x : Mbx) : Prop where
  only : OnlyMbx s t k
  here : mbxOf t k = x
  counts : CountsOnce s t k c

theorem mbxCount_event (s : State) (k c : Nat) (f : Mbx → Mbx) :
    MbxEvent s (mbxCount (updMbx s k f) k c) k c (f (mbxOf s k)) :=
  ⟨⟨fun _ hj => mbxOf_updMbx_other s f hj, rfl, rfl, rfl⟩, mbxOf_updMbx_same .., ctrs_ctrAdd_same ..⟩

/-- The interrupt of an event (R359) leaves what the event did. -/
theorem MbxEvent.mbxIrq {s t : State} {k c : Nat} {x : Mbx} (h : MbxEvent s t k c x) (i : Nat) :
    MbxEvent s (mbxIrq t k i) k c x := by
  obtain ⟨hosts, out, irq⟩ := mbxIrq_eq_with_host_out t k i
  rw [irq]
  obtain ⟨⟨others, mem, seqs, queues⟩, here, counts⟩ := h
  exact ⟨⟨others, mem, seqs, queues⟩, here, counts⟩

theorem MbxEvent.mbxIrq_if {s t : State} {k c : Nat} {x : Mbx} (h : MbxEvent s t k c x) (p : Prop) [Decidable p] (i : Nat) :
    MbxEvent s (if p then Machine.mbxIrq t k i else t) k c x := by
  split
  · exact h.mbxIrq i
  · exact h

/-! ## Operations that are taken or refused: pushes, rings and acknowledgements (R355, R356) -/

/-- Where `p` holds the operation is an event that counter `c` counts and that makes the mailbox into `x`; elsewhere it sets
sticky bit `i` and does no more. -/
structure TakenIf (p : Prop) (s t : State) (k c i : Nat) (x : Mbx) : Prop where
  only : OnlyMbx s t k
  taken : p → mbxOf t k = x ∧ CountsOnce s t k c
  refused : ¬p → mbxOf t k = (mbxOf s k).flagged i ∧ t.ctrs = s.ctrs

theorem MbxEvent.takenIf {p : Prop} {s t : State} {k c : Nat} {x : Mbx} (h : MbxEvent s t k c x) (hp : p) (i : Nat) :
    TakenIf p s t k c i x :=
  ⟨h.only, fun _ => ⟨h.here, h.counts⟩, fun n => absurd hp n⟩

theorem mbxFlag_takenIf {p : Prop} (hp : ¬p) (s : State) (k c i : Nat) (x : Mbx) : TakenIf p s (mbxFlag s k i) k c i x :=
  ⟨mbxFlag_onlyMbx s k i, fun h => absurd h hp, fun _ => ⟨mbxOf_mbxFlag_same s k i, rfl⟩⟩

theorem pushAB_takenIf (s : State) (k : Nat) (v : Word) :
    TakenIf ((mbxOf s k).ab.length < 16) s (pushAB s k v) k 0 0 { mbxOf s k with ab := (mbxOf s k).ab ++ [v] } := by
  unfold pushAB; dsimp only; split
  · next full => exact mbxFlag_takenIf (Nat.not_lt.2 full) ..
  · next room => exact ((mbxCount_event ..).mbxIrq_if _ 5).takenIf (Nat.not_le.1 room) 0

theorem pushBA_takenIf (s : State) (k : Nat) (v : Word) :
    TakenIf ((mbxOf s k).ba.length < 16) s (pushBA s k v) k 2 1 { mbxOf s k with ba := (mbxOf s k).ba ++ [v] } := by
  unfold pushBA; dsimp only; split
  · next full => exact mbxFlag_takenIf (Nat.not_lt.2 full) ..
  · next room => exact ((mbxCount_event ..).mbxIrq_if _ 1).takenIf (Nat.not_le.1 room) 1

theorem ringAB_takenIf (s : State) (k : Nat) (v : Word) :
    TakenIf (¬((mbxOf s k).pendAB = true ∨ (mbxOf s k).doneAB = true)) s (ringAB s k v) k 4 4
      { mbxOf s k with dbAB := v.setWidth 32, pendAB := true } := by
  unfold ringAB; dsimp only; split
  · next busy => exact mbxFlag_takenIf (not_not_intro (Bool.or_eq_true_iff.1 busy)) ..
  · next idle => exact ((mbxCount_event ..).mbxIrq 7).takenIf (fun h => idle (Bool.or_eq_true_iff.2 h)) 4

theorem ringBA_takenIf (s : State) (k : Nat) (v : Word) :
    TakenIf (¬((mbxOf s k).pendBA = true ∨ (mbxOf s k).doneBA = true)) s (ringBA s k v) k 6 5
      { mbxOf s k with dbBA := v.setWidth 32, pendBA := true } := by
  unfold ringBA; dsimp only; split
  · next busy => exact mbxFlag_takenIf (not_not_intro (Bool.or_eq_true_iff.1 busy)) ..
  · next idle => exact ((mbxCount_event ..).mbxIrq 3).takenIf (fun h => idle (Bool.or_eq_true_iff.2 h)) 5

theorem ackAB_takenIf (s : State) (k : Nat) (v : Word) :
    TakenIf ((mbxOf s k).pendAB = true) s (ackAB s k v) k 5 4
      { mbxOf s k with codeAB := BitVec.ofNat 16 (fld v 47 32), doneAB := true, pendAB := false } := by
  unfold ackAB; split
  · next rung => exact ((mbxCount_event ..).mbxIrq 2).takenIf rung 4
  · next idle => exact mbxFlag_takenIf idle ..

theorem ackBA_takenIf (s : State) (k : Nat) (v : Word) :
    TakenIf ((mbxOf s k).pendBA = true) s (ackBA s k v) k 7 5
      { mbxOf s k with codeBA := BitVec.ofNat 16 (fld v 47 32), doneBA := true, pendBA := false } := by
  unfold ackBA; split
  · next rung => exact ((mbxCount_event ..).mbxIrq 6).takenIf rung 5
  · next idle => exact mbxFlag_takenIf idle ..

/-! ## Writes of the Cleat and of MBX_CFG (R351, R354) -/

theorem cleatWrite_onlyMbx (s : State) (a : Acc) (k : Nat) (v : Word) : OnlyMbx s (cleatWrite s a k v) k := by
  unfold cleatWrite; dsimp only; split
  · exact ⟨fun _ hj => (mbxFlag_onlyMbx _ k 9).others _ hj |>.trans (mbxOf_updMbx_other s _ hj), rfl, rfl, rfl⟩
  · split
    · exact updMbx_onlyMbx ..
    · exact mbxFlag_onlyMbx ..

section
variable {s : State} {a : Acc} {k : Nat} {v : Word}

theorem cleatWrite_of_owner (free : fld v 7 0 = 0) (own : (mbxOf s k).owner = accNumber a) (guest : isPF a = false) :
    cleatWrite s a k v = updMbx s k (fun x => { x with owner := 0 }) := by
  simp [cleatWrite, free, own, guest]

theorem cleatWrite_of_pf (free : fld v 7 0 = 0) (pf : isPF a = true) :
    cleatWrite s a k v = mbxFlag (updMbx s k (fun x => { x with owner := 0 })) k 9 := by
  simp [cleatWrite, free, pf]

theorem cleatWrite_refused (h : fld v 7 0 ≠ 0 ∨ ((mbxOf s k).owner ≠ accNumber a ∧ isPF a = false)) :
    cleatWrite s a k v = mbxFlag s k 8 := by
  obtain held | ⟨other, guest⟩ := h
  · simp [cleatWrite, held]
  · simp [cleatWrite, other, guest]

/-- The tenant check rests on TENANT, which no sticky bit changes. -/
theorem mbxTenant_mbxFlag (s : State) (a : Acc) (k i : Nat) : mbxTenant (mbxFlag s k i) a k = mbxTenant s a k := by
  have cfg : (mbxOf (mbxFlag s k i) k).cfg = (mbxOf s k).cfg := by rw [mbxOf_mbxFlag_same]; rfl
  unfold mbxTenant
  rw [cfg]
  rfl

theorem cfgWrite_of_pf (pf : isPF a = true) :
    cfgWrite s a k v = updMbx s k (fun x => { x with cfg := v &&& 0x00000FFF000001FF#64 }) := by
  have writable : mbxCfgMask = 0x00000FFF000001FF#64 := by decide
  rw [cfgWrite, if_pos pf, writable]

theorem cfgWrite_of_guest (guest : isPF a = false) (drained : accDrain s a = s) (tenant : mbxTenant s a k = true) :
    cfgWrite s a k v = mbxFlag s k 6 := by
  have passes : mbxTenant (mbxFlag s k 6) a k = true := (mbxTenant_mbxFlag s a k 6).trans tenant
  rw [cfgWrite, if_neg (by rw [guest]; decide), drained]
  exact if_pos passes

end

/-! ## Claims and collections (R353, R356) -/

/-- The outbox ends with the answer to a read, which is what it read. -/
theorem getLast?_out_answer {r : Word × State} {w : Word} (a : Acc) (addr : Nat) (h : r.1 = w) :
    (emit r.2 (.csrValue a addr r.1)).out.getLast? = some (.csrValue a addr w) := by
  rw [out_emit, List.getLast?_concat, h]

/-- A read gave `w` and made mailbox `k` into `x`. -/
structure ReadsInto (s : State) (r : Word × State) (k : Nat) (w : Word) (x : Mbx) : Prop where
  word : r.1 = w
  only : OnlyMbx s r.2 k
  here : mbxOf r.2 k = x

/-- The same with its answer. -/
theorem ReadsInto.answered {s : State} {r : Word × State} {k : Nat} {w : Word} {x : Mbx} (h : ReadsInto s r k w x) (a : Acc)
    (addr : Nat) :
    let t := emit r.2 (.csrValue a addr r.1)
    OnlyMbx s t k ∧ t.out.getLast? = some (.csrValue a addr w) ∧ mbxOf t k = x :=
  ⟨h.only.emit _, getLast?_out_answer a addr h.word, h.here⟩

theorem cleatRead_readsInto (s : State) (a : Acc) (k : Nat) :
    ReadsInto s (cleatRead s a k) k (BitVec.ofNat 64 (mbxOf s k).owner)
      { mbxOf s k with owner := if (mbxOf s k).owner = 0 then accNumber a else (mbxOf s k).owner } := by
  unfold cleatRead; dsimp only; split
  · next free => exact ⟨by rw [free]; rfl, updMbx_onlyMbx .., mbxOf_updMbx_same ..⟩
  · exact ⟨by rw [put, Nat.shiftLeft_zero], .refl s k, rfl⟩

/-- DONE above CODE as one number. -/
theorem put_done_or_put_code (d : Bool) (c : BitVec 16) :
    put (bit d) 16 ||| put c.toNat 0 = BitVec.ofNat 64 ((if d then 65536 else 0) + c.toNat) := by
  rw [put, put, Nat.shiftLeft_zero, ← BitVec.ofNat_or, ← Nat.shiftLeft_add_eq_or_of_lt c.isLt]
  cases d <;> rfl

theorem collectAB_readsInto (s : State) (k : Nat) :
    ReadsInto s (collectAB s k) k
      (BitVec.ofNat 64 ((if (mbxOf s k).doneAB then 65536 else 0) + (mbxOf s k).codeAB.toNat))
      { mbxOf s k with doneAB := false } :=
  ⟨put_done_or_put_code .., updMbx_onlyMbx .., mbxOf_updMbx_same ..⟩

theorem collectBA_readsInto (s : State) (k : Nat) :
    ReadsInto s (collectBA s k) k
      (BitVec.ofNat 64 ((if (mbxOf s k).doneBA then 65536 else 0) + (mbxOf s k).codeBA.toNat))
      { mbxOf s k with doneBA := false } :=
  ⟨put_done_or_put_code .., updMbx_onlyMbx .., mbxOf_updMbx_same ..⟩

/-! ## Pops (R355) -/

/-- A read took the oldest of the words `l`, an event that counter `c` counts, leaving `f` of the others; without a word it
read 0 and set sticky bit `i`, and did no more. -/
structure Pops (l : List Word) (s : State) (r : Word × State) (k c i : Nat) (f : List Word → Mbx) : Prop where
  only : OnlyMbx s r.2 k
  oldest : ∀ w rest, l = w :: rest → r.1 = w ∧ mbxOf r.2 k = f rest ∧ CountsOnce s r.2 k c
  empty : l = [] → r.1 = 0 ∧ mbxOf r.2 k = (mbxOf s k).flagged i ∧ r.2.ctrs = s.ctrs

theorem mbxFlag_pops (s : State) (k c i : Nat) (f : List Word → Mbx) : Pops [] s (0, mbxFlag s k i) k c i f :=
  ⟨mbxFlag_onlyMbx s k i, fun _ _ h => (List.cons_ne_nil _ _ h.symm).elim, fun _ => ⟨rfl, mbxOf_mbxFlag_same s k i, rfl⟩⟩

theorem MbxEvent.pops {s t : State} {k c : Nat} {w : Word} {rest : List Word} {f : List Word → Mbx}
    (h : MbxEvent s t k c (f rest)) (i : Nat) : Pops (w :: rest) s (w, t) k c i f :=
  ⟨h.only, fun _ _ e => by cases e; exact ⟨rfl, h.here, h.counts⟩, fun e => absurd e (List.cons_ne_nil w rest)⟩

theorem popAB_pops (s : State) (k : Nat) :
    Pops (mbxOf s k).ab s (popAB s k) k 1 2 (fun rest => { mbxOf s k with ab := rest }) := by
  unfold popAB; dsimp only; split
  · next empty => rw [empty]; exact mbxFlag_pops ..
  · next w rest words => rw [words]; exact ((mbxCount_event ..).mbxIrq_if _ 0).pops 2

theorem popBA_pops (s : State) (k : Nat) :
    Pops (mbxOf s k).ba s (popBA s k) k 3 3 (fun rest => { mbxOf s k with ba := rest }) := by
  unfold popBA; dsimp only; split
  · next empty => rw [empty]; exact mbxFlag_pops ..
  · next w rest words => rw [words]; exact ((mbxCount_event ..).mbxIrq_if _ 4).pops 3

/-- A pop with its answer. -/
theorem Pops.answered {l : List Word} {s : State} {r : Word × State} {k c i : Nat} {f : List Word → Mbx}
    (h : Pops l s r k c i f) (a : Acc) (addr : Nat) :
    let t := emit r.2 (.csrValue a addr r.1)
    OnlyMbx s t k ∧
    (∀ w rest, l = w :: rest → t.out.getLast? = some (.csrValue a addr w) ∧ mbxOf t k = f rest ∧ CountsOnce s t k c) ∧
    (l = [] → t.out.getLast? = some (.csrValue a addr 0) ∧ mbxOf t k = (mbxOf s k).flagged i ∧ t.ctrs = s.ctrs) :=
  ⟨h.only.emit _, fun w rest e => (h.oldest w rest e).imp_left (getLast?_out_answer a addr),
    fun e => (h.empty e).imp_left (getLast?_out_answer a addr)⟩

/-! ## Commands (R351) -/

section
variable {s : State} {a : Acc} {k off : Nat} {v : Word} {c : Instr} {P : State → Prop}

/-- A write that does not reach the window does nothing. -/
theorem exec_write_unreached (reach : mbxReach s a = false) (cmd : exec c s = .next (mbxWriteCmd s a k off v)) :
    exec c s = .next s := by
  rw [cmd, mbxWriteCmd, if_neg (by rw [reach]; decide)]

variable (reach : mbxReach s a = true)
include reach

/-- A write that reaches the window is one to the register. -/
theorem mbxWriteCmd_reaches : mbxWriteCmd s a k off v = mbxWrite s a k off v := if_pos reach

/-- A read that reaches the window answers with what it reads from the register. -/
theorem mbxReadCmd_reaches :
    mbxReadCmd s a k off = emit (mbxRead s a k off).2 (.csrValue a (mbxAddr k off) (mbxRead s a k off).1) := if_pos reach

variable (drained : accDrain s a = s)
include drained

section
variable (tenant : mbxTenant s a k = true)
include tenant

/-- A write to a register with the tenant check has its effect `f` where the check passes. -/
theorem completes_write {f : State → State} (cmd : exec c s = .next (mbxWriteCmd s a k off v))
    (checked : mbxWrite s a k off v = mbxDo s a k f) (h : P (f s)) : Completes c s P := by
  have passed : mbxDo s a k f = f s := by rw [mbxDo, drained]; exact if_pos tenant
  exact ⟨f s, by rw [cmd, mbxWriteCmd_reaches reach, checked, passed], h⟩

/-- A read of a register whose read is `g` answers with what `g` gives where the tenant check passes. -/
theorem completes_read {g : State → Word × State} (cmd : exec c s = .next (mbxReadCmd s a k off))
    (checked : mbxRead s a k off =
      if !(mbxTenant (accDrain s a) a k) then (0, mbxFlag (accDrain s a) k 7) else g (accDrain s a))
    (h : P (emit (g s).2 (.csrValue a (mbxAddr k off) (g s).1))) : Completes c s P := by
  have passed : mbxRead s a k off = g s := by
    rw [checked, drained]; exact if_neg (by rw [tenant]; decide)
  exact ⟨_, cmd.trans (by rw [mbxReadCmd_reaches reach, passed]), h⟩

end

section
variable (tenant : mbxTenant s a k = false)
include tenant

/-- A write by another tenant sets TENANT_ERR and does no more. -/
theorem completes_foreign_write {f : State → State} (cmd : exec c s = .next (mbxWriteCmd s a k off v))
    (checked : mbxWrite s a k off v = mbxDo s a k f) (h : P (mbxFlag s k 7)) : Completes c s P := by
  have refused : mbxDo s a k f = mbxFlag s k 7 := by
    rw [mbxDo, drained]; exact if_neg (by rw [tenant]; decide)
  exact ⟨_, by rw [cmd, mbxWriteCmd_reaches reach, checked, refused], h⟩

/-- A read by another tenant, of whatever register, reads 0 and sets TENANT_ERR. -/
theorem completes_foreign_read (cmd : exec c s = .next (mbxReadCmd s a k off))
    (h : P (emit (mbxFlag s k 7) (.csrValue a (mbxAddr k off) 0))) : Completes c s P := by
  have refused : mbxRead s a k off = (0, mbxFlag s k 7) := by
    unfold mbxRead; dsimp only; rw [drained]; exact if_pos (by rw [tenant]; rfl)
  exact ⟨_, cmd.trans (by rw [mbxReadCmd_reaches reach, refused]), h⟩

end

end

/-- The writes that the tenant check passes or refuses (R351). -/
theorem mbxWrites_checked (s : State) (a : Acc) (m : Fin 64) (v : Word) :
    ∀ c ∈ [Instr.cleatWrite a m v, .mbxATx a m v, .mbxBTx a m v, .mbxDbAb a m v, .mbxDbBa a m v, .ackAbPost a m v,
      .ackBaPost a m v], ∃ off f, exec c s = .next (mbxWriteCmd s a m.val off v) ∧
        mbxWrite s a m.val off v = mbxDo s a m.val f := by
  simp only [List.forall_mem_cons]
  exact ⟨⟨0x08, (cleatWrite · a m.val v), rfl, rfl⟩, ⟨0x10, (pushAB · m.val v), rfl, rfl⟩,
    ⟨0x20, (pushBA · m.val v), rfl, rfl⟩, ⟨0x30, (ringAB · m.val v), rfl, rfl⟩, ⟨0x40, (ringBA · m.val v), rfl, rfl⟩,
    ⟨0x38, (ackAB · m.val v), rfl, rfl⟩, ⟨0x48, (ackBA · m.val v), rfl, rfl⟩, fun _ h => absurd h List.not_mem_nil⟩

/-- Every write command, MBX_CFG's too, is a write to a register of its mailbox. -/
theorem mbxWrites_write (s : State) (a : Acc) (m : Fin 64) (v : Word) :
    ∀ c ∈ [Instr.cleatWrite a m v, .mbxATx a m v, .mbxBTx a m v, .mbxDbAb a m v, .mbxDbBa a m v, .ackAbPost a m v,
      .ackBaPost a m v, .mbxCfgWrite a m v], ∃ off, exec c s = .next (mbxWriteCmd s a m.val off v) := by
  simp only [List.forall_mem_cons]
  exact ⟨⟨0x08, rfl⟩, ⟨0x10, rfl⟩, ⟨0x20, rfl⟩, ⟨0x30, rfl⟩, ⟨0x40, rfl⟩, ⟨0x38, rfl⟩, ⟨0x48, rfl⟩, ⟨0x00, rfl⟩,
    fun _ h => absurd h List.not_mem_nil⟩

/-- The reads that change a mailbox, with the offsets of their registers. -/
theorem mbxReads_read (s : State) (a : Acc) (m : Fin 64) :
    ∀ c ∈ [(Instr.cleatClaim a m, 0x08), (.mbxBRx a m, 0x18), (.mbxARx a m, 0x28), (.ackAbCollect a m, 0x38),
      (.ackBaCollect a m, 0x48)], exec c.1 s = .next (mbxReadCmd s a m.val c.2) := by
  simp only [List.forall_mem_cons]
  exact ⟨rfl, rfl, rfl, rfl, rfl, fun _ h => absurd h List.not_mem_nil⟩

/-! ## The obligation -/

/-- Settles O40: each command that reaches the window is one access to its register, and the tenant check decides whether that
is the register's operation or TENANT_ERR alone. -/
theorem mailboxes : Obligations.Mailboxes := by
  refine ⟨?_, ?_⟩
  · intro s a m v reach drained tenant k x others gives flagged counts quiet
    refine ⟨?claim, ?cleatWrite, ?pushAB, ?pushBA, ?popAB, ?popBA, ?cfgWrite⟩
    case claim =>
      obtain ⟨only, answer, here⟩ := (cleatRead_readsInto s a k).answered a (mbxAddr k 0x08)
      exact completes_read (g := (cleatRead · a k)) reach drained tenant rfl rfl ⟨only.frame, answer, here⟩
    case cleatWrite =>
      refine completes_write (f := (cleatWrite · a k v)) reach drained tenant rfl rfl
        ⟨(cleatWrite_onlyMbx ..).frame, fun free own guest => ?_, fun free pf => ?_, fun bad => ?_⟩
      · rw [cleatWrite_of_owner free own guest, mbxOf_updMbx_same]
      · rw [cleatWrite_of_pf free pf, mbxOf_mbxFlag_same, mbxOf_updMbx_same]; rfl
      · exact (congrArg (mbxOf · k) (cleatWrite_refused bad)).trans (mbxOf_mbxFlag_same ..)
    case pushAB =>
      obtain ⟨only, taken, refused⟩ := pushAB_takenIf s k v
      exact completes_write (f := (pushAB · k v)) reach drained tenant rfl rfl
        ⟨only.frame, taken, fun full => refused (Nat.not_lt.2 full)⟩
    case pushBA =>
      obtain ⟨only, taken, refused⟩ := pushBA_takenIf s k v
      exact completes_write (f := (pushBA · k v)) reach drained tenant rfl rfl
        ⟨only.frame, taken, fun full => refused (Nat.not_lt.2 full)⟩
    case popAB =>
      obtain ⟨only, oldest, empty⟩ := (popAB_pops s k).answered a (mbxAddr k 0x18)
      exact completes_read (g := (popAB · k)) reach drained tenant rfl rfl ⟨only.frame, oldest, empty⟩
    case popBA =>
      obtain ⟨only, oldest, empty⟩ := (popBA_pops s k).answered a (mbxAddr k 0x28)
      exact completes_read (g := (popBA · k)) reach drained tenant rfl rfl ⟨only.frame, oldest, empty⟩
    case cfgWrite =>
      refine ⟨cfgWrite s a k v, congrArg _ (mbxWriteCmd_reaches reach), ?_⟩
      cases pf : isPF a
      · rw [cfgWrite_of_guest pf drained tenant]
        exact ⟨(mbxFlag_onlyMbx ..).frame, nofun, fun _ => mbxOf_mbxFlag_same ..⟩
      · rw [cfgWrite_of_pf pf]
        exact ⟨(updMbx_onlyMbx ..).frame, fun _ => mbxOf_updMbx_same .., nofun⟩
  · intro s a m v drained k x off code others gives counts done
    refine ⟨fun reach tenant => ⟨?ringAB, ?ringBA, ?ackAB, ?ackBA, ?collectAB, ?collectBA⟩,
      fun reach tenant => ⟨fun c hc => ?foreignWrite, fun c hc => ?foreignRead⟩, fun reach c hc => ?unreached⟩
    case ringAB =>
      obtain ⟨only, taken, refused⟩ := ringAB_takenIf s k v
      exact completes_write (f := (ringAB · k v)) reach drained tenant rfl rfl
        ⟨only.frame, fun pend ack => taken (not_or.2 ⟨Bool.eq_false_iff.1 pend, Bool.eq_false_iff.1 ack⟩),
          fun busy => refused (not_not_intro busy)⟩
    case ringBA =>
      obtain ⟨only, taken, refused⟩ := ringBA_takenIf s k v
      exact completes_write (f := (ringBA · k v)) reach drained tenant rfl rfl
        ⟨only.frame, fun pend ack => taken (not_or.2 ⟨Bool.eq_false_iff.1 pend, Bool.eq_false_iff.1 ack⟩),
          fun busy => refused (not_not_intro busy)⟩
    case ackAB =>
      obtain ⟨only, taken, refused⟩ := ackAB_takenIf s k v
      exact completes_write (f := (ackAB · k v)) reach drained tenant rfl rfl
        ⟨only.frame, taken, fun idle => refused (Bool.eq_false_iff.1 idle)⟩
    case ackBA =>
      obtain ⟨only, taken, refused⟩ := ackBA_takenIf s k v
      exact completes_write (f := (ackBA · k v)) reach drained tenant rfl rfl
        ⟨only.frame, taken, fun idle => refused (Bool.eq_false_iff.1 idle)⟩
    case collectAB =>
      obtain ⟨only, answer, here⟩ := (collectAB_readsInto s k).answered a (mbxAddr k 0x38)
      exact completes_read (g := (collectAB · k)) reach drained tenant rfl rfl ⟨only.frame, answer, here⟩
    case collectBA =>
      obtain ⟨only, answer, here⟩ := (collectBA_readsInto s k).answered a (mbxAddr k 0x48)
      exact completes_read (g := (collectBA · k)) reach drained tenant rfl rfl ⟨only.frame, answer, here⟩
    case foreignWrite =>
      obtain ⟨o, f, cmd, checked⟩ := mbxWrites_checked s a m v c hc
      exact completes_foreign_write reach drained tenant cmd checked
        ⟨(mbxFlag_onlyMbx ..).frame, mbxOf_mbxFlag_same .., rfl⟩
    case foreignRead =>
      exact completes_foreign_read reach drained tenant (mbxReads_read s a m c hc)
        ⟨((mbxFlag_onlyMbx ..).emit _).frame, mbxOf_mbxFlag_same .., getLast?_out_answer (r := (0, _)) _ _ rfl⟩
    case unreached =>
      obtain ⟨o, cmd⟩ := mbxWrites_write s a m v c hc
      exact exec_write_unreached reach cmd

end Sys2Proof.Machine
end

/-! # Pattern tests and barrier statistics (O49: R416, R417, R420, R422) -/

section
namespace Sys2Proof.Machine
open Sys2Proof

/-! ## What the log keeps -/

/-- The ERR window without what the log records. -/
def ErrLog.unlogged (e : ErrLog) : ErrLog :=
  { e with queue := [], recs := [], stale := [], written := 0, lost := 0, sticky := 0, writerAt := 0 }

/-- Of the ERR window an access of memory changes the log alone. -/
theorem Access.unlogged {s t : State} (h : Access s t) : t.err.unlogged = s.err.unlogged :=
  congrArg State.err h.apart

theorem Access.testing {s t : State} (h : Access s t) : t.err.testing = s.err.testing :=
  (congrArg ErrLog.testing h.unlogged :)
theorem Access.unitFail {s t : State} (h : Access s t) : t.err.unitFail = s.err.unitFail :=
  (congrArg ErrLog.unitFail h.unlogged :)
theorem Access.ppCtl {s t : State} (h : Access s t) : t.err.ppCtl = s.err.ppCtl :=
  (congrArg ErrLog.ppCtl h.unlogged :)
theorem Access.barrier {s t : State} (h : Access s t) : t.err.barrier = s.err.barrier :=
  (congrArg ErrLog.barrier h.unlogged :)
theorem Access.barHist {s t : State} (h : Access s t) : t.err.barHist = s.err.barHist :=
  (congrArg ErrLog.barHist h.unlogged :)

/-- A record of SEV below 3 waits for no place, so at most LOG_LOST joins the bits of ERR_STATUS (R412). -/
theorem bitAt_recQueue_sticky {s : State} {r : LogRec} {i : Nat} (sev : r.sev ≠ 3) (h : bitAt s.err.sticky i = true) :
    bitAt (recQueue s r).err.sticky i = true := by
  unfold recQueue
  dsimp only
  split
  · next place =>
    have free : s.err.queue.length < 224 := by
      simpa only [sev, decide_false, Bool.false_or, decide_eq_true_eq] using place
    have room : logRoom s = s := by
      unfold logRoom; split
      · rfl
      · exact if_pos (Nat.lt_trans free (by decide))
    rw [room]
    exact h
  · exact bitAt_stick_of_bitAt 9 h

/-- A record of SEV below 3 leaves what the bits of ERR_STATUS are once its kind is noted, but for LOG_LOST. -/
theorem bitAt_logRec_sticky {s : State} (w : Who) {kind i : Nat} (addr syn detail : Word) (sev : kindSev kind ≠ 3)
    (h : bitAt (noteKind s kind).err.sticky i = true) : bitAt (logRec s w kind addr syn detail).err.sticky i = true := by
  unfold logRec
  dsimp only
  split
  · split
    · exact h
    · exact bitAt_recQueue_sticky sev h
  · exact h

/-! ## The unit under test (R416, R417) -/

/-- A unit that was settled keeps its mode, and in service it does not enter CHECK mode; of the ERR window only the start of a
test's time may have moved. -/
structure UnitSettled (s t : State) (cls u : Nat) : Prop where
  mode : (unitOf t cls u).mode = (unitOf s cls u).mode
  check : (unitOf s cls u).mode = .inService → (unitOf t cls u).check = (unitOf s cls u).check
  err : ∃ x, t.err = { s.err with testStart := x }

theorem UnitSettled.refl (s : State) (cls u : Nat) : UnitSettled s s cls u := ⟨rfl, fun _ => rfl, _, rfl⟩

theorem settleUnit_settled (s : State) (cls u : Nat) : UnitSettled s (settleUnit s cls u) cls u := by
  have ended {t : State} (h : UnitSettled s t cls u) :
      UnitSettled s (if t.boot.svc = .resume cls u then svcEnd t 0 else t) cls u := by
    split
    · exact ⟨h.mode, h.check, h.err⟩
    · exact h
  unfold settleUnit
  dsimp only
  split
  · split
    · split
      · refine ended ⟨?_, fun _ => ?_, _, rfl⟩ <;> rw [unitOf_updUnit_same]
      · exact ended (.refl s cls u)
    · exact .refl s cls u
  · next testing =>
    split
    · refine ⟨?_, fun serving => absurd (testing.symm.trans serving) UnitMode.noConfusion, _, rfl⟩
      exact (congrArg UnitSt.mode (unitOf_updUnit_same s cls u (fun y => { y with check := true })) :)
    · exact .refl s cls u
  · exact .refl s cls u

/-- A unit goes back into service after a test. -/
def backInService (s : State) (cls u : Nat) : State :=
  settleUnit (updUnit s cls u (fun x => { x with mode := .inService, check := false })) cls u

theorem backInService_mode (s : State) (cls u : Nat) : (unitOf (backInService s cls u) cls u).mode = .inService := by
  rw [backInService, (settleUnit_settled ..).mode, unitOf_updUnit_same]

theorem backInService_check (s : State) (cls u : Nat) : (unitOf (backInService s cls u) cls u).check = false := by
  rw [backInService, (settleUnit_settled ..).check (by rw [unitOf_updUnit_same]), unitOf_updUnit_same]

theorem backInService_err (s : State) (cls u : Nat) : ∃ x, (backInService s cls u).err = { s.err with testStart := x } :=
  (settleUnit_settled ..).err

theorem backInService_seqs (s : State) (cls u : Nat) : (backInService s cls u).seqs = s.seqs :=
  (settleUnit_aside ..).seqs

/-- AUTO_RETIRE rests on the units, the spares lost and ERR_PP_CTL alone. -/
theorem autoRetire_congr {s t : State} (units : t.units = s.units) (boot : t.boot = s.boot) (ppCtl : t.err.ppCtl = s.err.ppCtl)
    (cls u : Nat) : autoRetire t cls u = autoRetire s cls u := by
  have serves (k : Nat) : spareOf t cls k = spareOf s cls k := by simp only [spareOf, unitOf, units]
  simp only [autoRetire, freeSpare, freeSpares, spareLost, serves, unitOf, units, boot, ppCtl]

theorem unitRecord_access (s : State) (cls u : Nat) (spare : Bool) (cause : Nat) : Access s (unitRecord s cls u spare cause) :=
  logRec_access ..

/-- UNIT_RETIRED has SEV 2, and its kind sets no bit of ERR_STATUS. -/
theorem bitAt_unitRecord_sticky {s : State} {i : Nat} (cls u : Nat) (spare : Bool) (cause : Nat)
    (h : bitAt s.err.sticky i = true) : bitAt (unitRecord s cls u spare cause).err.sticky i = true :=
  bitAt_logRec_sticky _ _ _ _ (by decide) h

/-- With a spare free, or in use for the unit, the unit is retired and the spare keeps its place: no queue is lost (R457). -/
theorem retireUnit_of_autoRetire {s : State} {cls u : Nat} (cause : Nat) (h : autoRetire s cls u = true) :
    ∃ k new, retireUnit s cls u cause = unitRecord (updUnit s cls u (fun x =>
      { x with mode := .retired, check := false, spare := .mapped k, fresh := new })) cls u true cause := by
  unfold retireUnit
  cases use : (unitOf s cls u).spare with
  | standIn k => exact ⟨k, false, rfl⟩
  | mapped k => exact ⟨k, (unitOf s cls u).fresh, rfl⟩
  | none =>
    cases free : freeSpare s cls with
    | some k => exact ⟨k, true, rfl⟩
    | none =>
      rw [autoRetire, use, free] at h
      exact absurd (Bool.and_eq_true_iff.1 h).2 (by decide)

/-- A retired unit: beside its own bank only the log has changed of what a test leaves, and no bit of ERR_STATUS was cleared. -/
structure UnitRetired (s t : State) (cls u : Nat) : Prop where
  mode : (unitOf t cls u).mode = .retired
  check : (unitOf t cls u).check = false
  testing : t.err.testing = s.err.testing
  unitFail : t.err.unitFail = s.err.unitFail
  sticky : ∀ i, bitAt s.err.sticky i = true → bitAt t.err.sticky i = true
  seqs : t.seqs = s.seqs

theorem retireUnit_retired {s : State} {cls u : Nat} (cause : Nat) (h : autoRetire s cls u = true) :
    UnitRetired s (retireUnit s cls u cause) cls u := by
  obtain ⟨k, new, eq⟩ := retireUnit_of_autoRetire cause h
  rw [eq]
  have record := unitRecord_access (updUnit s cls u fun x =>
    { x with mode := .retired, check := false, spare := .mapped k, fresh := new }) cls u true cause
  refine ⟨?_, ?_, record.testing, record.unitFail, fun _ flag => bitAt_unitRecord_sticky _ _ _ _ flag,
    record.seqs⟩
  · rw [record.unitOf, unitOf_updUnit_same]
  · rw [record.unitOf, unitOf_updUnit_same]

/-! ## The start of a test (R416) -/

/-- A test may start: testing is enabled, a pack is loaded, no test runs, the node is ready, and PERIOD_MS has passed. -/
def TestDue (s : State) : Prop :=
  bitAt s.err.ppCtl 0 = true ∧ s.err.packVer ≠ 0 ∧ s.err.testing = false ∧ s.boot.ready = true ∧
    ∀ t, s.err.lastTest = some t → t.toNat + periodNs s ≤ s.tb.time.toNat

/-- The ERR window once the test of unit `k` of the walk has started. -/
def testStarted (s : State) (k : Nat) : ErrLog :=
  { s.err with
    testing := true, testPack := s.err.packVer, curClass := k / 1024, curUnit := k % 1024, curTest := nextTest s (k / 1024),
    walkAt := k + 1, testTurn := tmod s.err.testTurn 0 (k / 1024) (· + 1), lastTest := some s.tb.time,
    testStart := s.tb.time }

/-- PERIOD_MS has passed since the start of the last test, if there was one. -/
def periodPassed (s : State) : Bool :=
  match s.err.lastTest with
  | some t => decide (t.toNat + periodNs s ≤ now s)
  | none => true

theorem periodPassed_iff (s : State) :
    periodPassed s = true ↔ ∀ t, s.err.lastTest = some t → t.toNat + periodNs s ≤ s.tb.time.toNat := by
  unfold periodPassed
  cases s.err.lastTest with
  | none => exact iff_of_true rfl nofun
  | some t => exact decide_eq_true_iff.trans ⟨fun h _ same => Option.some.inj same ▸ h, fun h => h t rfl⟩

/-- What keeps PATTERN_TEST_START from starting a test. -/
def testHeld (s : State) : Bool :=
  !(bitAt s.err.ppCtl 0) || s.err.packVer = 0 || s.err.testing || !(periodPassed s) || !s.boot.ready

theorem testHeld_eq_false_iff (s : State) : testHeld s = false ↔ TestDue s := by
  simp only [testHeld, TestDue, Bool.or_eq_false_iff, Bool.not_eq_false', decide_eq_false_iff_not, periodPassed_iff]
  exact ⟨fun ⟨⟨⟨⟨enabled, pack⟩, idle⟩, period⟩, ready⟩ => ⟨enabled, pack, idle, ready, period⟩,
    fun ⟨enabled, pack, idle, ready, period⟩ => ⟨⟨⟨⟨enabled, pack⟩, idle⟩, period⟩, ready⟩⟩

theorem execPatternTestStart_not_due {s : State} (h : ¬TestDue s) : exec .patternTestStart s = .next s := by
  have held : testHeld s = true := by rwa [← testHeld_eq_false_iff, Bool.not_eq_false] at h
  exact congrArg _ (if_pos held)

theorem execPatternTestStart_no_unit {s : State} (h : nextUnit s = none) : exec .patternTestStart s = .next s := by
  change execPatternTestStart s = _
  unfold execPatternTestStart
  rw [h]
  exact congrArg _ (ite_self s)

theorem execPatternTestStart_due {s : State} {k : Nat} (h : TestDue s) (unit : nextUnit s = some k) :
    exec .patternTestStart s = .next (settleUnit
      (standIn { s with err := testStarted s k } (k / 1024) (k % 1024) .testing) (k / 1024) (k % 1024)) := by
  have free : ¬testHeld s = true := by rw [(testHeld_eq_false_iff s).2 h]; decide
  refine congrArg _ ((if_neg free).trans ?_)
  rw [unit]
  rfl

theorem standIn_mode (s : State) (cls u : Nat) (m : UnitMode) : (unitOf (standIn s cls u m) cls u).mode = m :=
  (congrArg UnitSt.mode (unitOf_updUnit_same s cls u _) :)

/-- The next unit of the walk leaves service, and queues, Sequencers and memory stay. -/
theorem completes_patternTestStart {s : State} {k : Nat} (h : TestDue s) (unit : nextUnit s = some k) :
    Completes .patternTestStart s (fun t => (unitOf t (k / 1024) (k % 1024)).mode = .testing ∧
      (∃ x, t.err = { testStarted s k with testStart := x }) ∧ t.queues = s.queues ∧ t.seqs = s.seqs ∧
      t.mem = s.mem) := by
  refine ⟨_, execPatternTestStart_due h unit, ?_, (settleUnit_settled ..).err, ?_, ?_, ?_⟩
  · rw [(settleUnit_settled ..).mode, standIn_mode]
  · exact (settleUnit_aside ..).queues
  · exact (settleUnit_aside ..).seqs
  · exact (settleUnit_aside ..).mem

/-! ## The end of a test (R417) -/

theorem testWork_access (s : State) (cls : Nat) : Access s (testWork s cls) := by
  have counted : Access s (workTally (tick1 s) cls 0 (Config.pick s.choice 0)) :=
    ((tick1_access s).trans (ctrAdd_access ..)).trans (tally_access ..)
  have touched (c : Nat → Nat) (r : State) : Access r ([0, 1, 2, 3].foldl (fun s t => tierTouch s 0 t (c (t + 1))) r) :=
    Access.foldl _ (fun _ _ => tierTouch_access ..) _ r
  unfold testWork
  dsimp only
  split
  · exact counted.trans (touched ..)
  · exact (counted.trans (touched ..)).trans (undefine_access ..)

/-- The node once the tests of the unit's class have done their work, no test running any more. -/
def testDone (s : State) : State := updErr (testWork s s.err.curClass) (fun e => { e with testing := false })

theorem testDone_seqs (s : State) : (testDone s).seqs = s.seqs := by
  rw [testDone, updErr_seqs, (testWork_access ..).seqs]
theorem testDone_units (s : State) : (testDone s).units = s.units := by
  rw [testDone, updErr_units, (testWork_access ..).units]
theorem testDone_boot (s : State) : (testDone s).boot = s.boot := by
  rw [testDone, updErr_boot, (testWork_access ..).boot]
theorem testDone_testing (s : State) : (testDone s).err.testing = false := rfl
theorem testDone_ppCtl (s : State) : (testDone s).err.ppCtl = s.err.ppCtl :=
  (testWork_access s s.err.curClass).ppCtl
theorem testDone_unitFail (s : State) : (testDone s).err.unitFail = s.err.unitFail :=
  (testWork_access s s.err.curClass).unitFail

/-- Then the records of the checks that failed and of the test. -/
def testRecorded (s : State) (checks : List CheckResult) : State :=
  let t := testDone s
  testFailed t s.err.curClass s.err.curUnit t.err.curTest t.err.testPack checks

/-- The test now running is judged: its unit has drained and is in CHECK mode. -/
def TestEnds (s : State) : Prop := s.err.testing = true ∧ (unitOf s s.err.curClass s.err.curUnit).check = true

/-- The test passes: every check does, within the time limit. -/
def TestPasses (s : State) (checks : List CheckResult) : Prop :=
  checksPass checks = true ∧ s.tb.time.toNat ≤ s.err.testStart.toNat + testNs s

theorem testPasses_iff (s : State) (checks : List CheckResult) :
    (checksPass checks && !decide (s.err.testStart.toNat + testNs s < now s)) = true ↔ TestPasses s checks := by
  rw [Bool.and_eq_true, Bool.not_eq_true', decide_eq_false_iff_not, Nat.not_lt]; rfl

section
variable {s : State} {checks : List CheckResult}

theorem execPatternTestEnd_no_test (h : ¬TestEnds s) : exec (.patternTestEnd checks) s = .next s := by
  refine congrArg _ (if_pos ?_)
  rw [TestEnds, Classical.not_and_iff_not_or_not] at h
  simpa only [Bool.or_eq_true, Bool.not_eq_true', Bool.not_eq_true] using h

theorem not_guard_of_testEnds (h : TestEnds s) :
    ¬(!s.err.testing || !((unitOf s s.err.curClass s.err.curUnit).check)) = true := by
  rw [h.1, h.2]; decide

theorem execPatternTestEnd_passed (ends : TestEnds s) (passes : TestPasses s checks) :
    exec (.patternTestEnd checks) s = .next (backInService (testDone s) s.err.curClass s.err.curUnit) :=
  congrArg _ ((if_neg (not_guard_of_testEnds ends)).trans (if_pos ((testPasses_iff s checks).2 passes)))

theorem execPatternTestEnd_failed (ends : TestEnds s) (fails : ¬TestPasses s checks) :
    exec (.patternTestEnd checks) s = .next (
      if autoRetire (testRecorded s checks) s.err.curClass s.err.curUnit then
        retireUnit (errFlag (testRecorded s checks) 7) s.err.curClass s.err.curUnit 0x0B
      else backInService (testRecorded s checks) s.err.curClass s.err.curUnit) :=
  congrArg Host.Outcome.next ((if_neg (not_guard_of_testEnds ends)).trans (if_neg (mt (testPasses_iff s checks).1 fails)))

/-- The unit is back in service, and no test has failed. -/
theorem completes_patternTestEnd_passed (ends : TestEnds s) (passes : TestPasses s checks) :
    Completes (.patternTestEnd checks) s (fun t => t.err.testing = false ∧
      (unitOf t s.err.curClass s.err.curUnit).mode = .inService ∧ (unitOf t s.err.curClass s.err.curUnit).check = false ∧
      t.err.unitFail = s.err.unitFail ∧ t.seqs = s.seqs) := by
  obtain ⟨x, err⟩ := backInService_err (testDone s) s.err.curClass s.err.curUnit
  refine ⟨_, execPatternTestEnd_passed ends passes, ?_, backInService_mode .., backInService_check .., ?_, ?_⟩
  · rw [err]; exact testDone_testing s
  · rw [err]; exact testDone_unitFail s
  · rw [backInService_seqs, testDone_seqs]

/-- Unit `u` of a class has failed its test: its bit in ERR_UNIT_FAIL and PATTERN_FAIL in ERR_STATUS are set, and the
Sequencers and what AUTO_RETIRE rests on stay. -/
structure FailureNoted (s t : State) (cls u : Nat) : Prop where
  testing : t.err.testing = false
  unitFail : unitKey cls u ∈ t.err.unitFail
  flag : bitAt t.err.sticky 6 = true
  seqs : t.seqs = s.seqs
  autoRetire : autoRetire t cls u = Machine.autoRetire s cls u

theorem mem_sadd (l : List Nat) (k : Nat) : k ∈ sadd l k := by
  unfold sadd; split
  · assumption
  · exact List.mem_append_right l List.mem_cons_self

theorem testFailed_noted {s : State} (idle : s.err.testing = false) (cls u test : Nat) (ver : BitVec 16)
    (checks : List CheckResult) : FailureNoted s (testFailed s cls u test ver checks) cls u := by
  unfold testFailed
  extract_lets plaus recorded
  have records : Access s recorded := (Access.foldl _ (fun _ _ => logRec_access ..) _ _).trans (logRec_access ..)
  refine ⟨records.testing.trans idle, mem_sadd .., ?_, records.seqs,
    autoRetire_congr records.units records.boot records.ppCtl cls u⟩
  exact bitAt_logRec_sticky _ _ _ _ (by decide) (bitAt_stick_same _ (by decide))

theorem testRecorded_noted (s : State) (checks : List CheckResult) :
    FailureNoted s (testRecorded s checks) s.err.curClass s.err.curUnit := by
  obtain ⟨testing, unitFail, flag, seqs, retires⟩ := testFailed_noted (testDone_testing s) s.err.curClass s.err.curUnit
    (testDone s).err.curTest (testDone s).err.testPack checks
  have same := autoRetire_congr (testDone_units s) (testDone_boot s) (testDone_ppCtl s) s.err.curClass s.err.curUnit
  exact ⟨testing, unitFail, flag, seqs.trans (testDone_seqs s), retires.trans same⟩

/-- The unit has failed: with AUTO_RETIRE and a spare it is retired, otherwise it goes back into service. -/
theorem completes_patternTestEnd_failed (ends : TestEnds s) (fails : ¬TestPasses s checks) :
    let cls := s.err.curClass
    let u := s.err.curUnit
    Completes (.patternTestEnd checks) s (fun t => t.err.testing = false ∧ unitKey cls u ∈ t.err.unitFail ∧
      bitAt t.err.sticky 6 = true ∧ (unitOf t cls u).check = false ∧ t.seqs = s.seqs ∧
      (autoRetire s cls u = false → (unitOf t cls u).mode = .inService) ∧
      (autoRetire s cls u = true → (unitOf t cls u).mode = .retired ∧ bitAt t.err.sticky 7 = true)) := by
  intro cls u
  obtain ⟨testing, unitFail, flag, seqs, auto⟩ := testRecorded_noted s checks
  refine ⟨_, execPatternTestEnd_failed ends fails, ?_⟩
  rw [← auto]
  generalize testRecorded s checks = r at testing unitFail flag seqs
  cases retires : autoRetire r cls u with
  | true =>
    have gone := retireUnit_retired (s := errFlag r 7) 0x0B retires
    rw [if_pos rfl]
    refine ⟨gone.testing.trans testing, ?_, gone.sticky 6 (bitAt_stick_of_bitAt 7 flag), gone.check,
      gone.seqs.trans seqs, nofun, fun _ => ⟨gone.mode, gone.sticky 7 (bitAt_stick_same _ (by decide))⟩⟩
    rw [gone.unitFail]
    exact unitFail
  | false =>
    obtain ⟨x, err⟩ := backInService_err r cls u
    rw [if_neg Bool.false_ne_true]
    refine ⟨?_, ?_, ?_, backInService_check .., (backInService_seqs ..).trans seqs, fun _ => backInService_mode .., nofun⟩
    · rw [err]; exact testing
    · rw [err]; exact unitFail
    · rw [err]; exact flag

end

/-! ## Barriers (R420, R422) -/

theorem suspect_access (s : State) : Access s (suspect s) := by
  unfold suspect
  dsimp only
  split
  · exact logRec_access ..
  · exact .refl s

/-- The history and the histogram once a barrier of octant `o` has been counted. -/
def barrierCounted (s : State) (o : Nat) : State :=
  updErr s (fun e => { e with
    barHist := tmod e.barHist 0 o (fun w => w + 1), barrier := (decide (o = 7) :: e.barrier).take (barLen s) })

theorem barHist_barrierCounted (s : State) (o j : Nat) :
    tget (barrierCounted s o).err.barHist 0 j = tget s.err.barHist 0 j + (if j = o then 1 else 0) := by
  change tget (tmod s.err.barHist 0 o (fun w => w + 1)) 0 j = _
  by_cases h : j = o
  · rw [h, if_pos rfl, tget_tmod_same]
  · rw [if_neg h, tget_tmod_other _ _ _ h]; exact (BitVec.add_zero _).symm

theorem wrBarrier_refused (s : State) {v : Word} (bad : fld v 47 32 ≤ fld v 15 0 ∨ fld v 47 32 < 2) :
    wrBarrier s v = errFlag s 10 :=
  if_pos (by rwa [Bool.or_eq_true, decide_eq_true_eq, decide_eq_true_eq])

theorem wrBarrier_accepted (s : State) {v : Word} (good : ¬(fld v 47 32 ≤ fld v 15 0 ∨ fld v 47 32 < 2)) :
    wrBarrier s v = suspect (barrierCounted s (8 * fld v 15 0 / fld v 47 32)) :=
  if_neg (by rwa [Bool.or_eq_true, decide_eq_true_eq, decide_eq_true_eq])

theorem wrBarCtl_cleared (s : State) {v : Word} (clear : bitAt v 0 = true) :
    wrBarCtl s v = { s with err := { s.err with
      barThresh := fld v 23 16, barWlog2 := fld v 11 8, barHist := [], barrier := [] } } := by
  unfold wrBarCtl updErr
  exact if_pos clear

/-! ## ERR_PP_CTL (R416, R424) -/

theorem wrPpCtl_refused {s : State} {v : Word} (enable : bitAt v 0 = true) (pack : s.err.packVer = 0) :
    wrPpCtl s v = errFlag s 10 :=
  if_pos (by rw [enable, pack]; rfl)

theorem wrPpCtl_written {s : State} {v : Word} (h : bitAt v 0 = false ∨ s.err.packVer ≠ 0) :
    wrPpCtl s v = { s with err := { s.err with ppCtl := v &&& 0xFFFFFFFF0003FE03#64 } } := by
  have writable : ppCtlMask = 0xFFFFFFFF0003FE03#64 := by decide
  rw [← writable]
  exact if_neg (by rwa [Bool.and_eq_true, decide_eq_true_eq, Classical.not_and_iff_not_or_not, Bool.not_eq_true])

/-! ## The registers, written by a function (R420, R422, R424) -/

section
variable {s : State} {p : HostPort} {v : Word} (ok : accOk s (.pf p) = true)
include ok

theorem execErrBarrier_pf : exec (.errBarrier (.pf p) v) s = .next (wrBarrier s v) :=
  congrArg _ (accDo_ok (fun s => wrBarrier s v) ok)

theorem execBarClear_pf :
    exec (.barClear (.pf p) v) s = .next (if bitAt v 0 then wrBarCtl s v else s) :=
  congrArg _ (accDo_ok (fun s => if bitAt v 0 then wrBarCtl s v else s) ok)

theorem execErrPpCtlWrite_pf : exec (.errPpCtlWrite (.pf p) v) s = .next (wrPpCtl s v) :=
  congrArg _ (accDo_ok (fun s => wrPpCtl s v) ok)

/-- An accepted barrier is counted, and SUSPECT's record leaves what was counted. -/
theorem completes_errBarrier (good : ¬(fld v 47 32 ≤ fld v 15 0 ∨ fld v 47 32 < 2)) :
    let octant := 8 * fld v 15 0 / fld v 47 32
    Completes (.errBarrier (.pf p) v) s (fun t =>
      t.err.barrier = (decide (octant = 7) :: s.err.barrier).take (barLen s) ∧
      (∀ o, tget t.err.barHist 0 o = tget s.err.barHist 0 o + (if o = octant then 1 else 0)) ∧
      t.queues = s.queues ∧ t.seqs = s.seqs) := by
  intro octant
  have said := suspect_access (barrierCounted s octant)
  refine ⟨suspect (barrierCounted s octant), ?_, said.barrier, fun o => ?_, said.queues, said.seqs⟩
  · rw [execErrBarrier_pf ok, wrBarrier_accepted s good]
  · rw [said.barHist, barHist_barrierCounted]

/-- BAR_CLEAR empties the histogram and the history as it writes the threshold and the window. -/
theorem completes_barClear (clear : bitAt v 0 = true) :
    Completes (.barClear (.pf p) v) s (fun t => t.err.barHist = [] ∧ t.err.barrier = [] ∧
      t.err.barThresh = fld v 23 16 ∧ t.err.barWlog2 = fld v 11 8 ∧ t.mem = s.mem) := by
  refine ⟨_, execBarClear_pf ok, ?_⟩
  rw [if_pos clear, wrBarCtl_cleared s clear]
  exact ⟨rfl, rfl, rfl, rfl, rfl⟩

end

/-! ## The obligation -/

/-- Settles O49: a test starts as the next unit of the walk leaves service; it ends with the unit back in service or, once its
failure is noted, retired with its spare in its place; a barrier counts one octant, which SUSPECT's record leaves. -/
theorem patternTests : Obligations.PatternTests := by
  intro s k checks p v cls u ready ends good ranks last bad
  refine ⟨?_, fun due unit => ?_, fun idle => execPatternTestEnd_no_test idle,
    fun ends passes => completes_patternTestEnd_passed ends passes,
    fun ends fails => completes_patternTestEnd_failed ends fails, fun ok => ?_⟩
  · rintro (held | noUnit)
    · exact execPatternTestStart_not_due held
    · exact execPatternTestStart_no_unit noUnit
  · obtain ⟨t, step, mode, ⟨x, err⟩, queues, seqs, mem⟩ := completes_patternTestStart due unit
    refine ⟨t, step, ?_⟩
    dsimp only
    rw [err]
    exact ⟨rfl, rfl, rfl, rfl, mode, rfl, rfl, queues, seqs, mem⟩
  · rw [execErrBarrier_pf ok, execBarClear_pf ok, execErrPpCtlWrite_pf ok]
    exact ⟨fun refuses => congrArg _ (wrBarrier_refused s refuses), completes_errBarrier ok, completes_barClear ok,
      fun idle => congrArg _ (if_neg (Bool.eq_false_iff.1 idle)), fun enable pack => congrArg _ (wrPpCtl_refused enable pack),
      fun writes => congrArg _ (wrPpCtl_written writes)⟩

end Sys2Proof.Machine
end

/-! # Frames of the feed, the final sequence, and declarations (O50: R425, R428, R429, R432) -/

section
namespace Sys2Proof.Machine
open Sys2Proof

/-! ## What a list of deltas counts for one pair of tenant and resource (R428) -/

/-- The deltas of a list for pair `k`, together. -/
def totalOf (l : List (Nat × Nat)) (k : Nat) : Nat := ((l.filter (fun e => e.1 = k)).map Prod.snd).sum

@[simp] theorem totalOf_nil (k : Nat) : totalOf [] k = 0 := rfl

@[simp] theorem totalOf_cons (j d : Nat) (l : List (Nat × Nat)) (k : Nat) :
    totalOf ((j, d) :: l) k = (if j = k then d else 0) + totalOf l k := by
  simp only [totalOf, List.filter_cons, decide_eq_true_eq]
  split
  · rw [List.map_cons, List.sum_cons]
  · rw [Nat.zero_add]

theorem totalOf_append (l m : List (Nat × Nat)) (k : Nat) : totalOf (l ++ m) k = totalOf l k + totalOf m k := by
  simp only [totalOf, List.filter_append, List.map_append, List.sum_append]

/-- A delta that joins the tally cache counts for its own pair, whether the cache held that pair or not. -/
theorem totalOf_tallyList (l : List (Nat × Nat)) (j n k : Nat) :
    totalOf (tallyList l j n) k = totalOf l k + (if k = j then n else 0) := by
  induction l with
  | nil => simp only [tallyList, totalOf_cons, totalOf_nil, eq_comm, Nat.add_comm]
  | cons e l ih =>
    obtain ⟨i, d⟩ := e
    unfold tallyList
    by_cases same : i = j
    · subst same
      rw [if_pos rfl, totalOf_cons, totalOf_cons]
      by_cases h : i = k
      · rw [if_pos h, if_pos h, if_pos h.symm]; omega
      · rw [if_neg h, if_neg h, if_neg (Ne.symm h)]; rfl
    · rw [if_neg same, totalOf_cons, totalOf_cons, ih, Nat.add_assoc]

theorem totalOf_tally (s : State) (tenant res n k : Nat) :
    totalOf (tally s tenant res n).feed.cache k = totalOf s.feed.cache k + (if k = tenant * 32 + res then n else 0) := by
  unfold tally
  split
  · next zero => rw [zero, ite_self, Nat.add_zero]
  · exact totalOf_tallyList ..

@[simp] theorem tally_ctrs (s : State) (tenant res n : Nat) : (tally s tenant res n).ctrs = s.ctrs := by
  unfold tally; split <;> rfl

/-! ## What a frame takes from the tally cache (R428) -/

/-- A frame's entries as deltas of the tally cache. -/
def deltasOf (ents : List (Nat × Nat × Nat)) : List (Nat × Nat) := ents.map (fun e => (e.1 * 32 + e.2.1, e.2.2))

/-- Entries that the deltas of a list need at most, one larger than 44 bits split. -/
def entsMost (c : List (Nat × Nat)) : Nat := (c.map (fun e => e.2 / (2 ^ 44 - 1) + 1)).sum

@[simp] theorem entsMost_cons (k d : Nat) (c : List (Nat × Nat)) :
    entsMost ((k, d) :: c) = d / (2 ^ 44 - 1) + 1 + entsMost c := rfl

theorem entsMost_eq_zero {c : List (Nat × Nat)} (h : entsMost c = 0) : c = [] := by
  cases c with
  | nil => rfl
  | cons e c => obtain ⟨k, d⟩ := e; rw [entsMost_cons] at h; omega

theorem framesMost_eq (s : State) : framesMost s = entsMost s.feed.cache := List.sum_eq_foldl.symm

/-- What can be said of the entries `x.1` that a frame of at most `n` takes from the cache `c`, where `x.2` stays. -/
structure Takes (n : Nat) (c : List (Nat × Nat)) (x : List (Nat × Nat × Nat) × List (Nat × Nat)) : Prop where
  len : x.1.length ≤ n
  fits : ∀ e ∈ x.1, e.2.1 < 32 ∧ e.2.2 < 2 ^ 44
  balance : ∀ k, totalOf (deltasOf x.1) k + totalOf x.2 k = totalOf c k
  progress : x.2 = [] ∨ entsMost x.2 + n ≤ entsMost c

/-- One more entry: `d` of what the cache `c` holds for `j`, where `c'` is what is left. -/
theorem Takes.cons {n j d : Nat} {c c' : List (Nat × Nat)} {x : List (Nat × Nat × Nat) × List (Nat × Nat)}
    (rest : Takes n c' x) (small : d < 2 ^ 44) (left : ∀ k, (if j = k then d else 0) + totalOf c' k = totalOf c k)
    (fewer : entsMost c' + 1 ≤ entsMost c) : Takes (n + 1) c ((j / 32, j % 32, d) :: x.1, x.2) where
  len := Nat.succ_le_succ rest.len
  fits := List.forall_mem_cons.2 ⟨⟨Nat.mod_lt _ (by decide), small⟩, rest.fits⟩
  balance k := by
    have pair : j / 32 * 32 + j % 32 = j := Nat.div_add_mod' j 32
    rw [← left, ← rest.balance, deltasOf, List.map_cons, pair, totalOf_cons, Nat.add_assoc]; rfl
  progress := rest.progress.imp id fun h => by
    change entsMost x.2 + (n + 1) ≤ entsMost c
    omega

theorem takeEnts_takes (n : Nat) (c : List (Nat × Nat)) : Takes n c (takeEnts n c) := by
  induction n generalizing c with
  | zero => exact ⟨Nat.le_refl _, List.forall_mem_nil _, fun _ => Nat.zero_add _, .inr (Nat.le_refl _)⟩
  | succ n ih =>
    cases c with
    | nil => exact ⟨Nat.zero_le _, List.forall_mem_nil _, fun _ => rfl, .inl rfl⟩
    | cons e c =>
      obtain ⟨j, d⟩ := e
      by_cases small : d < 2 ^ 44
      · rw [takeEnts, if_pos small]
        refine (ih c).cons small (fun k => (totalOf_cons ..).symm) ?_
        rw [entsMost_cons]; omega
      · rw [takeEnts, if_neg small]
        refine (ih ((j, d - (2 ^ 44 - 1)) :: c)).cons (by decide) (fun k => ?_) ?_
        · rw [totalOf_cons, totalOf_cons]; split <;> omega
        · rw [entsMost_cons, entsMost_cons]; omega

/-! ## What frames leave (R428) -/

/-- The frame that goes out next. -/
def frameOf (s : State) (kind : Nat) (ents : List (Nat × Nat × Nat)) : Frame :=
  let f : Frame := { seq := s.feed.lastSeq + 1, pert := pertActive s, time := now s, ents := ents, mac := 0 }
  { f with mac := Config.feedMac s.feed.nonce (frameWords kind f) }

/-- `t` is `s` once the frames `l`, each with its kind, went out twice each, the next SEQ for each, and what they carry left
the tally cache. -/
structure Sent (s t : State) (l : List (Nat × Frame)) : Prop where
  out : t.out = s.out ++ l.flatMap (fun f => [.frame f.1 f.2, .frame f.1 f.2])
  seq : t.feed.lastSeq = s.feed.lastSeq + l.length
  balance : ∀ k, totalOf (l.flatMap (fun f => deltasOf f.2.ents)) k + totalOf t.feed.cache k = totalOf s.feed.cache k
  mem : t.mem = s.mem
  ctrs : t.ctrs = s.ctrs

theorem Sent.refl (s : State) : Sent s s [] := ⟨(List.append_nil _).symm, rfl, fun _ => Nat.zero_add _, rfl, rfl⟩

theorem Sent.trans {s t u : State} {l m : List (Nat × Frame)} (h : Sent s t l) (k : Sent t u m) : Sent s u (l ++ m) where
  out := by rw [k.out, h.out, List.flatMap_append, List.append_assoc]
  seq := by rw [k.seq, h.seq, List.length_append, Nat.add_assoc]
  balance j := by rw [List.flatMap_append, totalOf_append, Nat.add_assoc, k.balance, h.balance]
  mem := k.mem.trans h.mem
  ctrs := k.ctrs.trans h.ctrs

/-- One frame goes out with what it takes from the tally cache, of which the rest stays; what else the feed notes with `g` is
neither its cache nor its SEQ. -/
theorem sendFrame_sent (s : State) (kind : Nat) {g : Feed → Feed}
    (cache : ∀ f, (g f).cache = (takeEnts 62 s.feed.cache).2 := by exact fun _ => rfl)
    (seq : ∀ f, (g f).lastSeq = f.lastSeq := by exact fun _ => rfl) :
    let ents := (takeEnts 62 s.feed.cache).1
    Sent s (updFeed (sendFrame s kind ents) g) [(kind, frameOf s kind ents)] where
  out := List.append_assoc ..
  seq := seq _
  balance k := by
    change totalOf (deltasOf _ ++ []) k + totalOf (g _).cache k = _
    rw [List.append_nil, cache]
    exact (takeEnts_takes 62 s.feed.cache).balance k
  mem := rfl
  ctrs := rfl

/-! ## The final sequence (R432) -/

/-- Frames before the last go out until what remains fits one frame: `n` suffice where the cache needs at most `n` entries. -/
theorem sendAll_sent (n : Nat) (s : State) (enough : entsMost s.feed.cache ≤ n) :
    ∃ l, Sent s (sendAll n s) l ∧ (takeEnts 62 (sendAll n s).feed.cache).2 = [] := by
  induction n generalizing s with
  | zero =>
    have empty : s.feed.cache = [] := entsMost_eq_zero (Nat.le_zero.1 enough)
    exact ⟨[], .refl s, by rw [sendAll, empty]; rfl⟩
  | succ n ih =>
    unfold sendAll
    dsimp only
    split
    · next last => exact ⟨[], .refl s, List.isEmpty_iff.1 last⟩
    · next more =>
      have rest : (takeEnts 62 s.feed.cache).2 ≠ [] := mt List.isEmpty_iff.2 more
      have fewer : entsMost (takeEnts 62 s.feed.cache).2 + 62 ≤ entsMost s.feed.cache :=
        (takeEnts_takes 62 s.feed.cache).progress.resolve_left rest
      obtain ⟨l, sent, fits⟩ := ih
        (updFeed (sendFrame s tTally (takeEnts 62 s.feed.cache).1) fun f => { f with cache := (takeEnts 62 s.feed.cache).2 })
        (show entsMost (takeEnts 62 s.feed.cache).2 ≤ n by omega)
      exact ⟨_, .trans (sendFrame_sent s tTally) sent, fits⟩

/-- The final sequence ends with FINAL and leaves an empty cache, so by `Sent.balance` its frames carried every delta. -/
theorem sendFinal_sent (s : State) :
    ∃ l fr, Sent s (sendFinal s) (l ++ [(tFinal, fr)]) ∧ fr.seq = (sendFinal s).feed.lastSeq ∧
      (sendFinal s).feed.cache = [] ∧ (sendFinal s).feed.linkUp = false := by
  obtain ⟨l, sent, fits⟩ := sendAll_sent (framesMost s) s (Nat.le_of_eq (framesMost_eq s).symm)
  let last := sendAll (framesMost s) s
  have final : Sent last (sendFinal s) [(tFinal, frameOf last tFinal (takeEnts 62 last.feed.cache).1)] :=
    sendFrame_sent last tFinal (g := fun f => { f with cache := (takeEnts 62 last.feed.cache).2, linkUp := false })
  exact ⟨l, _, sent.trans final, rfl, fits, rfl⟩

/-- A sequence of frames that ends with `fr` ends the output with it. -/
theorem Sent.getLast?_out {s t : State} {l : List (Nat × Frame)} {kind : Nat} {fr : Frame}
    (h : Sent s t (l ++ [(kind, fr)])) : t.out.getLast? = some (.frame kind fr) := by
  rw [h.out, List.flatMap_append, ← List.append_assoc]
  exact List.getLast?_append

/-! ## When frames go out -/

section
variable {s : State}

/-- A frame is due every 100 µs, and with 62 entries waiting (R428). -/
def FrameDue (s : State) : Prop := s.feed.lastSend.toNat + 100000 ≤ s.tb.time.toNat ∨ 62 ≤ s.feed.cache.length

theorem execTallySend_due (up : s.feed.linkUp = true) (due : FrameDue s) :
    ∃ at_, exec .tallySend s = .next (updFeed (sendFrame s tTally (takeEnts 62 s.feed.cache).1)
      fun f => { f with cache := (takeEnts 62 s.feed.cache).2, lastSend := at_ }) := by
  have goes : (s.feed.linkUp && (decide (s.feed.lastSend.toNat + 100000 ≤ now s) ||
      decide (62 ≤ s.feed.cache.length))) = true := by
    rw [up, Bool.true_and, Bool.or_eq_true, decide_eq_true_iff, decide_eq_true_iff]; exact due
  exact ⟨_, congrArg _ (if_pos goes)⟩

/-- A due frame carries what it takes from the tally cache. -/
theorem completes_tallySend (up : s.feed.linkUp = true) (due : FrameDue s) :
    Completes .tallySend s (fun t => ∃ ents, Takes 62 s.feed.cache (ents, t.feed.cache) ∧
      Sent s t [(tTally, frameOf s tTally ents)]) := by
  obtain ⟨at_, step⟩ := execTallySend_due up due
  exact ⟨_, step, _, takeEnts_takes 62 s.feed.cache, sendFrame_sent s tTally⟩

theorem execTallySend_idle (idle : s.feed.linkUp = false ∨ ¬FrameDue s) : exec .tallySend s = .next s := by
  refine congrArg _ (if_neg fun goes => ?_)
  rw [Bool.and_eq_true, Bool.or_eq_true, decide_eq_true_iff, decide_eq_true_iff] at goes
  obtain ⟨up, due⟩ := goes
  exact idle.elim (fun down => Bool.false_ne_true (down.symm.trans up)) (fun notDue => notDue due)

/-- The final sequence is due in the COLD or WARM scope, but for a COLD entry by the loss of the island's rail (R432). -/
def FinalDue (s : State) : Prop :=
  s.boot.entered = true ∧ s.feed.linkUp = true ∧ ∃ sc c, s.boot.scope = some (sc, c) ∧ sc ≠ .power ∧ c ≠ 4

theorem execFinalSequence_due (due : FinalDue s) : exec .finalSequence s = .next (sendFinal s) := by
  obtain ⟨entered, up, sc, c, scope, power, cause⟩ := due
  change execFinalSequence s = _
  simp only [execFinalSequence, scope, entered, up, bne_iff_ne.2 power, bne_iff_ne.2 cause, Bool.and_self, if_true]

theorem execFinalSequence_idle (idle : ¬FinalDue s) : exec .finalSequence s = .next s := by
  change execFinalSequence s = _
  unfold execFinalSequence
  congr 1
  split
  · next sc c scope =>
    refine if_neg fun goes => idle ?_
    simp only [Bool.and_eq_true, bne_iff_ne] at goes
    obtain ⟨⟨⟨entered, power⟩, cause⟩, up⟩ := goes
    exact ⟨entered, up, sc, c, scope, power, cause⟩
  · rfl

/-! ## ASY_TALLY (R429) -/

theorem wrTally_refused {a : Acc} {v : Word} (res : 2 ≤ fld v 57 56) :
    wrTally s a v = { s with feed := { s.feed with sticky := s.feed.sticky ||| 2 } } := if_pos res

theorem wrTally_declared {a : Acc} {v : Word} (res : fld v 57 56 < 2) :
    wrTally s a v = tally (ctrAdd s (0x912A + fld v 57 56) (fld v 39 0)) (billTenant s a) (0x16 + fld v 57 56) (fld v 39 0) :=
  if_neg (Nat.not_le.2 res)

theorem execAsyTally_ok {a : Acc} {v : Word} (ok : accOk s a = true) :
    exec (.asyTally a v) s = .next (wrTally (accDrain s a) a v) :=
  congrArg _ (accDo_ok (fun s => wrTally s a v) ok)

/-- A declaration is counted in its counter and joins the tally cache for its writer's tenant. -/
theorem completes_asyTally {a : Acc} {v : Word} (ok : accOk s a = true) (res : fld v 57 56 < 2) :
    let r := fld v 57 56
    let u := accDrain s a
    Completes (.asyTally a v) s (fun t =>
      tget t.ctrs 0 (0x912A + r) = tget u.ctrs 0 (0x912A + r) + BitVec.ofNat 64 (fld v 39 0) ∧
      (∀ k, totalOf t.feed.cache k =
        totalOf u.feed.cache k + (if k = billTenant u a * 32 + 0x16 + r then fld v 39 0 else 0)) ∧
      t.mem = u.mem) := by
  refine ⟨_, execAsyTally_ok ok, ?_⟩
  rw [wrTally_declared res]
  refine ⟨?_, fun k => ?_, (tally_aside ..).mem⟩
  · rw [tally_ctrs, ctrs_ctrAdd_same]
  · rw [totalOf_tally, ctrAdd_feed, Nat.add_assoc]

end

/-! ## The obligation -/

/-- Settles O50: what a frame takes and what stays balance the tally cache; the final sequence, whose frames suffice, empties
it by such frames; a declaration joins the tally cache for its writer's tenant. -/
theorem meteringFeed : Obligations.MeteringFeed := by
  intro s a v f due total r closes
  refine ⟨fun up due => ?_, execTallySend_idle, fun closes => ?_, execFinalSequence_idle, fun ok =>
    ⟨fun res => (execAsyTally_ok ok).trans (congrArg _ (wrTally_refused res)), completes_asyTally ok⟩⟩
  · obtain ⟨t, step, ents, takes, sent⟩ := completes_tallySend up due
    exact ⟨t, step, _, sent.out, rfl, rfl, rfl, takes.len, sent.seq, takes.fits, takes.balance, sent.mem, sent.ctrs⟩
  · obtain ⟨l, fr, sent, seq, empty, down⟩ := sendFinal_sent s
    have later : s.feed.lastSeq < (sendFinal s).feed.lastSeq := by
      rw [sent.seq, List.length_append]
      exact Nat.lt_add_of_pos_right (Nat.succ_pos _)
    exact ⟨_, execFinalSequence_due closes, empty, down, ⟨fr, sent.getLast?_out, seq⟩, later, sent.mem⟩

end Sys2Proof.Machine
end
